-- ==== Sys2Proof/Word.lean ====
section
/-! DEFINITION. The word types of the Shethen (R4, R59, R85, R229): the widths a program sees. -/

namespace Sys2Proof

/-- A scalar register, an address while it is computed, a system register (R110). -/
abbrev W64 := BitVec 64

/-- A 128-bit raw value (.q, R85). -/
abbrev W128 := BitVec 128

/-- A byte of memory. -/
abbrev Byte := BitVec 8

/-- One instruction word (R59). -/
abbrev IWord := BitVec 96

/-- The bits of a vector entry; VLEN = 1,024 on the Shethen (R229). -/
abbrev VBits := BitVec 1024

/-- A predicate: one bit for each byte of a vector (R231). -/
abbrev PBits := BitVec 128

end Sys2Proof
end

