-- ==== Sys2Proof/Syntax.lean ====
section
/-! DEFINITION. The steps of the machine: one constructor for each row of spec/opcode_table.json. The rows up to
CXCH are the encoded instructions of the opcode map (R79) and carry the fields of the instruction word (R59); the rows
after it are the machine's own events and name the agent and the entry they act on. -/

namespace Sys2Proof

/-- Element types, codes 0 to 15 (R69). -/
inductive Typ
  | untyped | s8 | s16 | s32 | s64 | n8 | n16 | n32 | n64 | f16 | bf16 | f32 | f64 | tm24 | t5 | q
  deriving DecidableEq, Repr

/-- Rounding modes, mod<1:0> (R27, R94). -/
inductive Rnd
  | rne | rtz | rdn | rup
  deriving DecidableEq, Repr

/-- What a 10-bit operand field names (R23, R64). -/
inductive Operand
  | s (n : Fin 64) | v (n : Fin 32) | p (n : Fin 16) | a (n : Fin 8)
  | zv | pc | lc | nc
  | o (n : Fin 16) | ls | lv
  | imm
  | k (n : Fin 256)   -- k:n, n from 1 (R68); k 0 is no operand
  deriving DecidableEq, Repr

/-- The guard field: which predicate, and whether it is inverted (R28, R71). -/
structure Guard where
  inv : Bool
  p : Fin 16
  deriving DecidableEq, Repr

/-- The fields of an instruction word other than its opcode (R59). c3 is fixed by the op (R73), so it is no field: where
the op requires it, `opc` is the third source and `imm` the 22-bit immediate; elsewhere `opc` is s0. -/
structure Fields where
  stop : Bool
  bt : Bool
  look : Fin 16
  mod : Fin 8
  sat : Bool
  rnd : Rnd
  imm : BitVec 32
  opc : Operand
  opb : Operand
  opa : Operand
  dst : Operand
  guard : Guard
  typ : Typ
  deriving DecidableEq, Repr

/-- A party that reads or writes a register or window (R155, R395, R416, R431). -/
inductive Party
  | core (phys : Nat)
  | firmware
  | driver
  | host
  deriving DecidableEq, Repr

/-- The four engines with a command queue (R8). -/
inductive Eng
  | vec | shu | weft | gear
  deriving DecidableEq, Repr

/-- Which pending access of an executing command performs (R48): a read part or a write part, by place. -/
inductive EngAcc
  | rd (k : Nat)
  | wr (k : Nat)
  deriving DecidableEq, Repr

/-- One step of the machine. -/
inductive Instr
  -- class 0, integer (R126)
  | add (f : Fields) | sub (f : Fields) | mul (f : Fields) | mulh (f : Fields) | mulhn (f : Fields)
  | div (f : Fields) | divn (f : Fields) | rem (f : Fields) | remn (f : Fields)
  | and (f : Fields) | or (f : Fields) | xor (f : Fields) | andn (f : Fields)
  | shl (f : Fields) | shr (f : Fields) | sar (f : Fields) | rol (f : Fields)
  | clz (f : Fields) | ctz (f : Fields) | popc (f : Fields)
  | min (f : Fields) | minn (f : Fields) | max (f : Fields) | maxn (f : Fields)
  | abs (f : Fields) | sel (f : Fields) | mov (f : Fields) | movi (f : Fields) | lea (f : Fields)
  | sext (f : Fields) | zext (f : Fields) | bfx (f : Fields) | bfi (f : Fields) | cmp (f : Fields)
  -- class 1, predicate (R129, R130)
  | plog (f : Fields) | pmov (f : Fields)
  -- class 2, scalar floating point (R131)
  | fadd (f : Fields) | fsub (f : Fields) | fmul (f : Fields) | ffma (f : Fields)
  | fdiv (f : Fields) | fsqrt (f : Fields) | fmin (f : Fields) | fmax (f : Fields)
  | fcmp (f : Fields) | fcvt (f : Fields) | fclass (f : Fields) | fsgn (f : Fields)
  -- class 3, control (R136)
  | br (f : Fields) | brx (f : Fields) | call (f : Fields) | ret (f : Fields) | loop (f : Fields) | endTask (f : Fields)
  -- class 4, task and message (R137-R146)
  | send (f : Fields) | spawn (f : Fields) | bind (f : Fields) | unbind (f : Fields) | chctl (f : Fields)
  | mwin (f : Fields) | qsend (f : Fields) | home (f : Fields)
  -- class 5, system (R147, R148)
  | csrr (f : Fields) | csrw (f : Fields) | trap (f : Fields) | brk (f : Fields)
  -- class 6, scalar memory (R196, R197)
  | ld (f : Fields) | st (f : Fields)
  -- class 7, vector, synchronising and atomic memory (R198-R218)
  | ldv (f : Fields) | stv (f : Fields) | ldvs (f : Fields) | stvs (f : Fields) | ldvg (f : Fields) | stvx (f : Fields)
  | ldf (f : Fields) | sete (f : Fields) | watch (f : Fields) | amo (f : Fields) | cas (f : Fields) | amom (f : Fields)
  | fence (f : Fields) | ntdrain (f : Fields) | pref (f : Fields) | discard (f : Fields)
  | stmap (f : Fields) | stsync (f : Fields)
  -- class 8, capability (R213-R216)
  | capgive (f : Fields) | sealCap (f : Fields) | claim (f : Fields) | rmode (f : Fields)
  -- class 9, vector arithmetic (R240-R252)
  | vadd (f : Fields) | vsub (f : Fields) | vmul (f : Fields) | vfma (f : Fields) | vdiv (f : Fields)
  | vsqrt (f : Fields) | vmin (f : Fields) | vmax (f : Fields) | vabs (f : Fields) | vneg (f : Fields)
  | vand (f : Fields) | vor (f : Fields) | vxor (f : Fields) | vshl (f : Fields) | vshr (f : Fields) | vsar (f : Fields)
  | vcmp (f : Fields) | vsel (f : Fields) | vmov (f : Fields) | vsplat (f : Fields) | vred (f : Fields)
  | vscan (f : Fields) | viota (f : Fields) | vwhile (f : Fields) | vlen (f : Fields) | vpcnt (f : Fields)
  | vpfirst (f : Fields)
  -- class 10, permute, convert, special functions (R246, R254-R260)
  | vget (f : Fields) | vput (f : Fields) | vperm (f : Fields) | vcmpr (f : Fields) | vexpd (f : Fields)
  | vsfu (f : Fields) | vcvt (f : Fields) | vqnt (f : Fields) | vrtag (f : Fields) | pack5t (f : Fields)
  | unpk5t (f : Fields)
  -- class 11, shuttle (R266)
  | cpy (f : Fields) | cpyg (f : Fields) | cpyx (f : Fields) | cpyl (f : Fields) | cpyset (f : Fields) | cpyc (f : Fields)
  -- class 12, weft (R285)
  | wcfg (f : Fields) | wload (f : Fields) | wscl (f : Fields) | wrun (f : Fields) | wdrain (f : Fields)
  | wzero (f : Fields) | wstat (f : Fields)
  -- class 13, gear (R303)
  | gcfg (f : Fields) | gbld (f : Fields) | gmm (f : Fields) | gzero (f : Fields) | grd (f : Fields) | gst (f : Fields)
  | gwait (f : Fields)
  -- class 14, heddle (R339)
  | pload (f : Fields) | pfree (f : Fields) | popen (f : Fields) | pclose (f : Fields) | put (f : Fields)
  | get (f : Fields) | pcancel (f : Fields) | pbind (f : Fields) | pstat (f : Fields)
  -- class 15, specialiser and collectives (R367, R377)
  | unif (f : Fields) | spstop (f : Fields) | spinv (f : Fields) | spqry (f : Fields)
  | join (f : Fields) | leave (f : Fields) | cbar (f : Fields) | cgath (f : Fields) | creds (f : Fields)
  | cxch (f : Fields)
  -- events of a core: faults and supervisors (R150-R159)
  | faultPacketSend (phys : Nat) | faultPacketResend (phys : Nat) | deferredFaultReport (phys : Nat)
  | dbgResume (phys : Nat) (seq : BitVec 16) (writer : Party)
  | dbgSkip (phys : Nat) (seq : BitVec 16) (writer : Party)
  | dbgEnd (phys : Nat) (seq : BitVec 16) (writer : Party)
  -- messages and tasks (R105-R115, R146)
  | messageArrival (k : Nat) | unitMessageResend (k : Nat) | messageSend (phys k : Nat)
  | taskActivation (phys : Nat) | preemption (phys : Nat) | maskedWindowClose (phys : Nat)
  -- the ordering machine (R41-R53)
  | loadPerform (phys id part : Nat) | longLatencyResult (phys id : Nat) | storeLeave (phys : Nat)
  | storeApply (phys id part : Nat) | ntApply (phys id part : Nat) | atomicApply (phys id : Nat)
  | releaseComplete (phys id : Nat)
  | engineCommandStart (phys : Nat) (e : Eng) | engineCommandFinish (phys : Nat) (e : Eng)
  | engineAccessPerform (phys : Nat) (e : Eng) (acc : EngAcc)
  | tokenWrite (phys : Nat) | cpylFlagTest (phys : Nat) | cpylTimeout (phys : Nat)
  | gangStepStart (train : Nat) | gangStepEnd (train : Nat) | gangTimeout (train : Nat)
  | gstBufferStore (phys part : Nat)
  -- translation, stash, regions (R173, R178, R181, R187, R188)
  | pageWalk (phys va evict : Nat) | stashFill (phys frame : Nat) | stashRecall (phys frame : Nat)
  | keeperModeChange (k : Nat) | claimServe (k : Nat)
  | quantumBoundary (ctx : Nat) | tickPeriod
  -- heddle and collective units (R330-R346, R376-R385)
  | offerArrival (k : Nat) | pcancelArrival (k : Nat) | liftDecision (unit slot : Nat)
  | connectorImageLoad (phys id : Nat)
  | collectiveRequestArrival (k : Nat) | membershipChange (ctx group : Nat)
  | instanceDataMove (ctx group inst : Nat) | collectiveCompletion (ctx group inst : Nat)
  | instanceTimeout (ctx group inst : Nat)
  | routingWindow (die level busiest least : Nat) | escapement
  | contextSwitch (phys ctx : Nat)
  -- the command front end (R394-R413)
  | qkick (q : Nat) (tail : BitVec 32) | qsendWrite (k : Nat)
  | packetFetch (q : Nat) | packetRecheck (q : Nat)
  | nop (q : Nat) | launch (q : Nat) | launchRange (q : Nat) | indirect (q : Nat) | pred (q : Nat)
  | packetLoop (q : Nat) | wait (q : Nat) | waitRetest (q : Nat) | signal (q : Nat) | barrier (q : Nat)
  | fetchFence (q : Nat) | connect (q : Nat) | launchResend (q : Nat) | taskEndReport (k : Nat)
  | qactRetry (q : Nat) | qactSkip (q : Nat) | qactStop (q : Nat) | qcfg (q : Nat) (v : W64)
  | specialiserWalk (die k : Nat)
  -- the driver (R174, R415, R416)
  | ctxcreate (record : W64) | ctxkill (v : W64) | shootva (v : W64) | shootdownComplete
  -- the loupe and plain registers (R420-R424, R395)
  | lctlStop (phys : Nat) (w : Party) | lctlResume (phys : Nat) (w : Party) | lctlStep (phys : Nat) (w : Party)
  | ldeleg (phys : Nat) (v : W64) (w : Party) | ldclr (phys : Nat) (w : Party)
  | registerWrite (w : Party) (addr : W64) (size : Nat) (v : W64)
  -- host, links, package (R429-R440)
  | hostWrite (addr : Nat) (bytes : List Byte) | hostRead (addr size : Nat)
  | ucieLinkDown | ucieRetrain | rhohimenLinkFail (die : Nat)
  | powerOn (fails : List Nat) | bootrecWrite (v : W64) | tamperSensor | glitchDetected
  | powerThrottle | overtempShutdown
  | correctableError (die : Nat) | uncorrectableError (die granule source : Nat)
  | powerRemoved
  deriving DecidableEq, Repr

end Sys2Proof
end

