-- ==== Sys2Proof/WellFormed.lean ====
section
/-! DEFINITION. Which words of the opcode map are legal (R65, R73, R74, R77): for each op, its cell, its types, the
kind of each field, its modifiers, and whether it takes saturation, rounding and an immediate. What an op accepts may
depend on its other fields (MOVI, CALL, AMO ...), so the description is a function of them. -/

namespace Sys2Proof

namespace Typ
/-- R69. -/
def code : Typ → Nat
  | untyped => 0 | s8 => 1 | s16 => 2 | s32 => 3 | s64 => 4 | n8 => 5 | n16 => 6 | n32 => 7 | n64 => 8
  | f16 => 9 | bf16 => 10 | f32 => 11 | f64 => 12 | tm24 => 13 | t5 => 14 | q => 15

/-- R69: codes 16 to 31 are no type. -/
def ofCode : Nat → Option Typ
  | 0 => some untyped | 1 => some s8 | 2 => some s16 | 3 => some s32 | 4 => some s64 | 5 => some n8 | 6 => some n16
  | 7 => some n32 | 8 => some n64 | 9 => some f16 | 10 => some bf16 | 11 => some f32 | 12 => some f64
  | 13 => some tm24 | 14 => some t5 | 15 => some q | _ => none

/-- Element size in bytes (R230). -/
def size : Typ → Nat
  | s8 | n8 | t5 => 1
  | s16 | n16 | f16 | bf16 => 2
  | s32 | n32 | f32 | tm24 => 4
  | q => 16
  | s64 | n64 | f64 | untyped => 8

def isFp : Typ → Bool
  | f16 | bf16 | f32 | f64 => true
  | _ => false

def isSigned : Typ → Bool
  | s8 | s16 | s32 | s64 => true
  | _ => false

def isNat : Typ → Bool
  | n8 | n16 | n32 | n64 => true
  | _ => false

def isInt (t : Typ) : Bool := t.isSigned || t.isNat

/-- The signed integer format of an element size, .q for 16 bytes: how an op that asks for integers of that size reads an
immediate or a small constant (R67, R68, R92; log 71). -/
def intOfSize : Nat → Typ
  | 1 => s8 | 2 => s16 | 4 => s32 | 16 => q | _ => s64

/-- The element count n(t) of a 1,024-bit vector (R230). -/
def elems (t : Typ) : Nat := 128 / t.size
end Typ

/-- The types F and I of R79. -/
def typsF : List Typ := [.f64, .f32, .f16, .bf16]
def typsI : List Typ := [.s8, .s16, .s32, .s64, .n8, .n16, .n32, .n64]
def typsS : List Typ := [.s8, .s16, .s32, .s64]
/-- Codes 1 to 14: the types of the vector loads and stores (R198). -/
def typs1to14 : List Typ := typsI ++ typsF ++ [.tm24, .t5]
/-- The widths b h w d q (R196). -/
def typsMem : List Typ := [.n8, .n16, .n32, .n64, .q]

namespace Rnd
def code : Rnd → Nat
  | rne => 0 | rtz => 1 | rdn => 2 | rup => 3
def ofCode : Nat → Rnd
  | 0 => rne | 1 => rtz | 2 => rdn | _ => rup
end Rnd

namespace Operand
/-- The 10-bit field value of an operand (R23, R64). -/
def code : Operand → Nat
  | s n => n.val
  | v n => 0x040 + n.val
  | p n => 0x080 + n.val
  | a n => 0x0C0 + n.val
  | zv => 0x0C8 | pc => 0x0C9 | lc => 0x0CA | nc => 0x0CB
  | o n => 0x100 + n.val
  | ls => 0x200 | lv => 0x201
  | imm => 0x300
  | k n => 0x300 + n.val

/-- R64: the unassigned field values name nothing. -/
def ofCode (c : Nat) : Option Operand :=
  if h : c < 0x40 then some (s ⟨c, h⟩)
  else if c < 0x60 then some (v (Fin.ofNat 32 (c - 0x40)))
  else if c < 0x80 then none
  else if c < 0x90 then some (p (Fin.ofNat 16 (c - 0x80)))
  else if c < 0xC0 then none
  else if c < 0xC8 then some (a (Fin.ofNat 8 (c - 0xC0)))
  else if c = 0xC8 then some zv
  else if c = 0xC9 then some pc
  else if c = 0xCA then some lc
  else if c = 0xCB then some nc
  else if c < 0x100 then none
  else if c < 0x110 then some (o (Fin.ofNat 16 (c - 0x100)))
  else if c = 0x200 then some ls
  else if c = 0x201 then some lv
  else if c = 0x300 then some imm
  else if 0x300 < c ∧ c < 0x400 then some (k (Fin.ofNat 256 (c - 0x300)))
  else none

/-- `k` 0 would spell the immediate's selector, so it is no operand (R23). -/
def wf : Operand → Bool
  | k n => n.val != 0
  | _ => true

def isScalarReg : Operand → Bool
  | s _ => true
  | _ => false

def isImmLike : Operand → Bool
  | imm => true
  | k _ => true
  | _ => false
end Operand

/-- Small-constant entries by type (R68): the FP entries need an FP type; no entry is allowed with .t5. -/
def constOk (t : Typ) (n : Nat) : Bool :=
  match t with
  | .t5 => false
  | _ => n ≤ 191 || t.isFp

/-- Kinds of operand fields (R65). `si` is a scalar source that the op reads as a 64-bit integer whatever its type
(a stride, index or count; log 9); `vsi` is a vector source that the op reads as integers whatever its type (an index
vector; log 71); `vdata` the data source of an untyped op, which names an entry (R230); `reg` is a register name s0 to s63, which is also a scalar destination that may not be
the latch (R66); `vdL` is a vector destination of a long-latency op. -/
inductive Kind
  | ss (t : Typ) | si | sd | reg | evenReg (lo : Nat)
  | vs (t : Typ) | vsi (t : Typ) | vdata | vd | vdL
  | pr | tile | tileEven | addr | unused
  | dataQ        -- the data field of ST.q (R197)
  | fillQ        -- the fill value of CPYSET.q (R268)
  | groupSrc     -- a register, ls, lc or a small constant (R377)
  | noImm        -- a scalar source other than the immediate field (R246)
  deriving DecidableEq, Repr

/-- R65, R66, R68: does a field's operand lie in its kind? -/
def Kind.ok : Kind → Operand → Bool
  | ss t, .k n => n.val != 0 && constOk t n.val
  | si, .k n => n.val != 0 && constOk .s64 n.val
  | noImm, .k n => n.val != 0 && constOk .s64 n.val
  | groupSrc, .k n => n.val != 0 && constOk .s64 n.val
  | ss _, o | si, o => match o with
    | .s _ | .ls | .pc | .lc | .nc | .imm => true
    | _ => false
  | noImm, o => match o with
    | .s _ | .ls | .pc | .lc | .nc => true
    | _ => false
  | groupSrc, o => match o with
    | .s _ | .ls | .lc => true
    | _ => false
  | sd, o => match o with
    | .s _ | .ls => true
    | _ => false
  | reg, o | addr, o => o.isScalarReg
  | evenReg lo, .s n => lo ≤ n.val && n.val ≤ 62 && n.val % 2 == 0
  | dataQ, .s n => n.val ≤ 62 && n.val % 2 == 0
  | dataQ, .imm => true
  | dataQ, .k n => n.val != 0 && constOk .q n.val
  | fillQ, .s n => n.val ≤ 62 && n.val % 2 == 0
  | fillQ, .imm => true
  | fillQ, .k n => n.val != 0 && constOk .q n.val
  | vs t, .k n => n.val != 0 && constOk t n.val
  | vsi t, .k n => n.val != 0 && t != .t5 && constOk .s64 n.val
  | vs _, o | vsi _, o => match o with
    | .v _ | .o _ | .lv | .zv | .imm => true
    | _ => false
  | vdata, o => match o with
    | .v _ | .o _ | .lv => true
    | _ => false
  | vd, o => match o with
    | .v _ | .o _ | .lv => true
    | _ => false
  | vdL, o => match o with
    | .v _ | .o _ => true
    | _ => false
  | pr, o => match o with
    | .p _ => true
    | _ => false
  | tile, o => match o with
    | .a _ => true
    | _ => false
  | tileEven, .a n => n.val % 2 == 0
  | unused, o => o = .s 0
  | _, _ => false

/-- What one op accepts in its word (R65, R73, R77, R79). -/
structure OpInfo where
  typs : List Typ := [.untyped]
  dst : Kind := .unused
  opa : Kind := .unused
  opb : Kind := .unused
  opc : Kind := .unused
  /-- c3 = 1 is required (R73). -/
  three : Bool := false
  /-- long-latency (R74). -/
  long : Bool := false
  mods : List Nat := [0]
  sat : Bool := false
  rnd : Bool := false
  /-- The op reads the imm field itself; otherwise it must be 0 unless an operand selects it (R65; log 9). -/
  useImm : Bool := false
  /-- What the op asks of the imm field and of its fields together. -/
  extra : Bool := true

def mods8 : List Nat := [0, 1, 2, 3, 4, 5, 6, 7]
def mods6 : List Nat := [0, 1, 2, 3, 4, 5]

/-- d, a, b of .s64, as most integer ops have them (R126). -/
def intOp : OpInfo := { typs := [.s64], dst := .sd, opa := .ss .s64, opb := .ss .s64 }
def int1Op : OpInfo := { typs := [.s64], dst := .sd, opa := .ss .s64 }

/-- Source format of FCVT (R134). -/
def fcvtFrom : Nat → Typ
  | 0 => .f64 | 1 => .f32 | 2 => .f16 | 3 => .bf16 | 4 => .s64 | _ => .n64

/-- Memory operand [sB+sX+d] (R25, R191), and [sB+d] with another operand in opb. -/
def memOp : OpInfo := { opa := .addr, opb := .addr, useImm := true }

/-- R80, R205: which operation, type, sat and rnd go together for AMO and AMOM. -/
def amoOk (f : Fields) : Bool :=
  (!f.typ.isFp || f.mod.val == 0 || f.mod.val == 7)
    && (!f.sat || (!f.typ.isFp && f.mod.val ≤ 1))
    && (f.rnd = .rne || (f.typ.isFp && f.mod.val == 0))

/-- The notify word of the collective instructions (R378). -/
def notifyOk (imm : BitVec 32) : Bool := imm.toNat % 0x10000 < 15

/-- System register numbers (R149). -/
def sysRegs : List Nat :=
  [0x000, 0x001, 0x010, 0x011, 0x012, 0x020, 0x021, 0x022, 0x023, 0x024, 0x030, 0x031, 0x032, 0x040, 0x041]

/-- Element-wise vector op with two sources of its type (R240). -/
def vecOp (ts : List Typ) (f : Fields) : OpInfo :=
  { typs := ts, dst := .vd, opa := .vs f.typ, opb := .vs f.typ }

def heddleOp : OpInfo := { opa := .si, opb := .si }

/-- The description of each instruction (R79, R126, R129-R148, R191-R218, R240-R260, R266, R285, R303, R339, R367,
R377); none for the machine's events. A small constant is judged by the format in which its field reads its source, where that is not
the op's typ (log 91). -/
def Instr.info : Instr → Option OpInfo
  | add _ | sub _ | mul _ => some { intOp with sat := true }
  | mulh _ | mulhn _ => some intOp
  | div _ => some { intOp with dst := .reg, long := true, sat := true }
  | divn _ | rem _ | remn _ => some { intOp with dst := .reg, long := true }
  | and _ | or _ | xor _ | andn _ => some intOp
  | shl _ => some { intOp with sat := true }
  | shr _ | sar _ | rol _ => some intOp
  | clz _ | ctz _ | popc _ => some int1Op
  | min _ | minn _ | max _ | maxn _ => some intOp
  | abs _ => some { int1Op with sat := true }
  | sel _ => some { intOp with three := true, opc := .pr }
  | mov _ => some int1Op
  | movi f => some {
      typs := [.s64], dst := .sd, mods := [0, 1], useImm := true,
      opa := if f.mod = 0 then .unused else .ss .s64 }
  | lea _ => some { memOp with typs := [.s64], dst := .sd, mods := mods8 }
  | sext _ => some { int1Op with typs := [.s8, .s16, .s32], opa := .si }
  | zext _ => some { int1Op with typs := [.n8, .n16, .n32], opa := .si }
  | bfx _ => some { intOp with mods := [0, 1] }
  | bfi _ => some { intOp with three := true, opc := .ss .s64 }
  | cmp f => some { typs := [.s64, .n64], dst := .pr, opa := .ss f.typ, opb := .ss f.typ, mods := mods6 }
  | plog f => some {
      dst := .pr, opa := .pr, opb := .pr, opc := .pr, three := true, useImm := true,
      extra := f.imm.toNat < 256 }
  | pmov f => some {
      mods := [0, 1, 2],
      dst := if f.mod = 0 then .pr else if f.mod = 1 then .sd else .unused,
      opa := if f.mod = 0 then .pr else if f.mod = 1 then .unused else .si }
  | fadd f | fsub f | fmul f | fmin f | fmax f =>
      some { typs := typsF, dst := .sd, opa := .ss f.typ, opb := .ss f.typ, rnd := true }
  | ffma f => some {
      typs := typsF, dst := .sd, opa := .ss f.typ, opb := .ss f.typ, opc := .ss f.typ,
      three := true, rnd := true }
  | fdiv f => some { typs := typsF, dst := .reg, opa := .ss f.typ, opb := .ss f.typ, long := true, rnd := true }
  | fsqrt f => some { typs := typsF, dst := .reg, opa := .ss f.typ, long := true, rnd := true }
  | fcmp f => some { typs := typsF, dst := .pr, opa := .ss f.typ, opb := .ss f.typ, mods := mods8 }
  | fcvt f => some {
      typs := typsF ++ [.s64, .n64], dst := .sd, opa := .ss (fcvtFrom f.mod.val), mods := mods6,
      sat := !f.typ.isFp, rnd := f.typ.isFp || f.mod.val < 4 }
  | fclass f => some { typs := typsF, dst := .sd, opa := .ss f.typ }
  | fsgn f => some { typs := typsF, dst := .sd, opa := .ss f.typ, opb := .ss f.typ, mods := [0, 1, 2] }
  | br _ => some { useImm := true }
  | brx _ | ret _ => some { opa := .si }
  | call f => some {
      dst := .sd, mods := [0, 1], useImm := true,
      opa := if f.mod = 0 then .unused else .si,
      extra := f.mod = 0 || f.imm == 0#32 }
  | loop _ => some { dst := .sd, opa := .si, useImm := true }
  | endTask _ => some { mods := [0, 1] }
  | send _ | spawn _ | qsend _ => some { dst := .reg, opa := .si, opb := .si }
  | bind _ => some { opa := .si, opb := .si }
  | unbind _ => some { opa := .si }
  | chctl f => some { dst := .sd, opa := .si, opb := if f.mod = 3 then .si else .unused, mods := [0, 1, 2, 3, 4] }
  | mwin f => some { useImm := true, extra := 1 ≤ f.imm.toNat && f.imm.toNat ≤ 64 }
  | home _ => some { dst := .reg, opa := .si, long := true }
  | csrr f => some { dst := .sd, useImm := true, extra := sysRegs.contains f.imm.toNat }
  | csrw f => some { opa := .si, mods := [0, 1, 2], useImm := true, extra := f.imm.toNat ≤ 1 }
  | trap f | brk f => some { useImm := true, extra := f.imm.toNat < 0x10000 }
  | ld f => some {
      memOp with
      typs := typsMem, long := true,
      dst := if f.typ = .q then .evenReg 2 else .reg,
      mods := if f.typ.size ≤ 4 then [0, 1] else [0] }
  | st f => some { memOp with typs := typsMem, dst := if f.typ = .q then .dataQ else .ss f.typ, mods := [0, 1, 2] }
  | ldv _ => some { memOp with typs := typs1to14, dst := .vdL, long := true }
  | stv f => some { memOp with typs := typs1to14, dst := .vs f.typ, mods := [0, 1] }
  | ldvs _ => some { memOp with typs := typs1to14, dst := .vdL, opb := .si, long := true }
  | stvs f => some { memOp with typs := typs1to14, dst := .vs f.typ, opb := .si, mods := [0, 1] }
  | ldvg f => some { memOp with typs := typs1to14, dst := .vdL, opb := .vsi f.typ, long := true, mods := mods8 }
  | stvx f => some { memOp with typs := typs1to14, dst := .vs f.typ, opb := .vsi f.typ, mods := mods8 }
  | ldf _ => some { memOp with dst := .reg, opb := .pr, long := true, mods := [0, 1] }
  | sete _ => some memOp
  | watch _ => some { memOp with opb := .si, mods := [0, 1] }
  | amo f => some {
      memOp with
      typs := [.s32, .s64, .n32, .n64, .f32, .f64], dst := .reg, opb := .ss f.typ,
      long := true, mods := mods8, sat := true, rnd := true, extra := amoOk f }
  | cas f => some {
      memOp with
      typs := [.s32, .s64, .n32, .n64, .q], three := true, long := true,
      dst := if f.typ = .q then .evenReg 2 else .reg,
      opb := if f.typ = .q then .evenReg 0 else .ss f.typ,
      opc := if f.typ = .q then .evenReg 0 else .ss f.typ }
  | amom f => some {
      memOp with
      typs := [.s32, .s64, .n32, .n64, .f32, .f64], dst := .reg, opb := .ss f.typ,
      long := true, mods := mods8, sat := true, rnd := true, extra := amoOk f }
  | fence f => some { mods := [0, 1, 2, 3, 4], useImm := true, extra := f.imm.toNat ≤ 2 }
  | ntdrain _ => some {}
  | pref _ => some { memOp with mods := [0, 1] }
  | discard _ => some { memOp with opb := .si }
  | stmap _ => some { opa := .si, opb := .si }
  | stsync f => some { opa := if f.mod = 1 then .unused else .si, mods := [0, 1, 2] }
  | capgive _ => some { opa := .si, opb := .si }
  | sealCap _ => some { opa := .si }
  | claim _ => some { dst := .reg, opa := .si, long := true }
  | rmode _ => some { opa := .si, mods := [0, 1] }
  | vadd f | vsub f => some { vecOp (typsF ++ typsI ++ [.tm24]) f with sat := f.typ.isInt, rnd := f.typ.isFp }
  | vmul f => some { vecOp (typsF ++ typsI) f with sat := f.typ.isInt, rnd := f.typ.isFp }
  | vfma f => some { vecOp typsF f with opc := .vs f.typ, three := true, rnd := true }
  | vdiv f => some { vecOp typsF f with dst := .vdL, long := true, rnd := true }
  | vsqrt f => some { vecOp typsF f with dst := .vdL, opb := .unused, long := true, rnd := true }
  | vmin f | vmax f => some { vecOp (typsF ++ typsI) f with rnd := f.typ.isFp }
  | vabs f | vneg f => some { vecOp (typsF ++ typsS) f with opb := .unused, sat := f.typ.isSigned }
  | vand f | vor f | vxor f => some (vecOp typsI f)
  | vshl f => some { vecOp typsI f with sat := true }
  | vshr f | vsar f => some (vecOp typsI f)
  | vcmp f => some { vecOp (typsF ++ typsI) f with dst := .pr, mods := if f.typ.isFp then mods8 else mods6 }
  | vsel _ => some { dst := .vd, opa := .vdata, opb := .vdata, opc := .pr, three := true }
  | vmov f => some {
      dst := .vd, opa := if f.mod = 0 then .vdata else .tile, mods := [0, 1], useImm := f.mod = 1,
      extra := f.mod = 0 || f.imm.toNat < 32 }
  | vsplat f => some { typs := typsF ++ typsI ++ [.tm24], dst := .vd, opa := .ss f.typ }
  | vred f => some {
      typs := typsF ++ typsI, dst := .reg, opa := .vs f.typ, long := true, mods := [0, 1, 2],
      sat := f.typ.isInt && f.mod = 0, rnd := f.typ.isFp && f.mod = 0 }
  | vscan f => some {
      typs := typsF ++ typsI, dst := .vdL, opa := .vs f.typ, long := true, mods := [0, 1, 2, 4, 5, 6],
      sat := f.typ.isInt && f.mod.val % 4 == 0, rnd := f.typ.isFp && f.mod.val % 4 == 0 }
  | viota _ => some { typs := typsI, dst := .vd, opa := .si, opb := .si }
  | vwhile _ => some { typs := typsF ++ typsI, dst := .pr, opa := .si, opb := .si, mods := [0, 1, 2, 3] }
  | vlen _ => some { typs := typs1to14, dst := .reg }
  | vpcnt _ | vpfirst _ => some { dst := .reg, opa := .pr, mods := [0, 1, 2, 3] }
  | vget _ => some { dst := .reg, opa := .vdata, opb := .si }
  | vput f => some { dst := .vd, opa := .vdata, opb := .noImm, useImm := true, extra := f.imm.toNat < 1024 }
  | vperm _ => some { dst := .vd, opa := .vdata, opb := .vsi .untyped }
  | vcmpr _ | vexpd _ => some { dst := .vd, opa := .vdata }
  | vsfu f => some {
      typs := [.f32, .f16, .bf16], dst := .vdL, opa := .vs f.typ, long := true, mods := mods8,
      rnd := true }
  -- sat, and rnd where it rounds, as R87 and R255 give them; R89 names .tm24 among the types that take neither (log 77)
  | vcvt f => some {
      typs := typsI ++ typsF ++ [.tm24], dst := .vd, opa := .vs f.typ, mods := mods8,
      sat := !f.typ.isFp, rnd := true }
  | vqnt _ => some { typs := [.s8, .s16, .t5], dst := .vd, opa := .vs .f32, opb := .ss .f32, mods := mods8, rnd := true }
  | vrtag f => some { typs := typs1to14 ++ [.q], dst := .vd, opa := .vs f.typ }
  | pack5t _ => some { typs := [.t5], dst := .vd, opa := .vs .s8, mods := [0, 1, 2, 3, 4] }
  | unpk5t _ => some { typs := [.s8], dst := .vd, opa := .vs .t5, mods := [0, 1, 2, 3, 4] }
  | cpy _ => some { dst := .reg, opa := .addr }
  | cpyg _ | cpyx _ => some { dst := .reg, opa := .addr, opb := .addr }
  | cpyl f => some {
      dst := .reg, opa := .addr, opb := .addr, useImm := true, mods := [0, 1],
      extra := f.imm.toNat < 0x10000 }
  | cpyset f => some {
      typs := [.n8, .n16, .n32, .n64, .q], dst := .reg, opa := .addr,
      opb := if f.typ = .q then .fillQ else .ss f.typ }
  | cpyc f => some { dst := if f.mod = 0 then .reg else .unused, mods := [0, 1] }
  | wcfg _ => some { mods := [0, 1] }
  | wload _ => some { typs := [.s8, .s16], opa := .addr, useImm := true }
  | wscl _ => some { typs := [.bf16], opa := .addr, useImm := true }
  | wrun _ => some { opa := .addr, useImm := true }
  | wdrain _ => some { typs := [.f32], opa := .addr, useImm := true, mods := [0, 1] }
  | wzero _ => some {}
  | wstat _ => some { dst := .reg, mods := [0, 1] }
  | gcfg _ => some { opa := .si, opb := .si }
  | gbld _ => some { typs := typsF, opa := .addr, opb := .si, useImm := true }
  | gmm f => some {
      typs := typsF, dst := if f.typ = .f64 then .tileEven else .tile, opa := .addr, opb := .si,
      useImm := true, mods := [0, 1], rnd := true }
  | gzero f => some { dst := if f.mod = 1 then .tileEven else .tile, mods := [0, 1] }
  | grd f => some {
      typs := [.f32, .f64], dst := .reg, opa := if f.typ = .f64 then .tileEven else .tile, opb := .si,
      long := true }
  | gst f => some {
      typs := typsF ++ [.s8, .s16, .s32], dst := if f.typ = .f64 then .tileEven else .tile, opa := .addr, opb := .si,
      useImm := true, mods := mods8, sat := f.typ.isInt, rnd := true }
  | gwait f => some { dst := if f.mod = 0 then .tile else .unused, mods := [0, 1] }
  | pload _ => some { dst := .reg, opa := .si, long := true }
  | pfree _ => some { opa := .si }
  | popen _ | pclose _ | get _ | pcancel _ | pbind _ => some heddleOp
  | put _ => some { heddleOp with dst := .reg }
  | pstat _ => some { heddleOp with dst := .reg, long := true }
  | unif f => some {
      dst := .sd, mods := [0, 1, 2, 3], useImm := true,
      extra := f.imm.toNat % (2 ^ f.mod.val) == 0 && f.imm.toNat ≤ 256 - 2 ^ f.mod.val }
  | spstop _ => some {}
  | spinv f => some { opa := .si, useImm := true, extra := f.imm == 0#32 }
  | spqry f => some { dst := .reg, opa := .si, opb := if f.mod = 1 then .unused else .si, long := true, mods := [0, 1] }
  | join f | leave f | cbar f => some { opa := .groupSrc, useImm := true, extra := notifyOk f.imm }
  | cgath f | cxch f => some { opa := .groupSrc, opb := .si, useImm := true, extra := notifyOk f.imm }
  | creds f => some {
      typs := [.f32, .bf16, .s32], opa := .groupSrc, opb := .si, useImm := true, mods := [0, 1, 2],
      extra := notifyOk f.imm }
  | _ => none

/-- The fields of an encoded instruction. -/
def Instr.fields? : Instr → Option Fields
  | add f | sub f | mul f | mulh f | mulhn f | div f | divn f | rem f | remn f | and f | or f | xor f | andn f
  | shl f | shr f | sar f | rol f | clz f | ctz f | popc f | min f | minn f | max f | maxn f | abs f | sel f | mov f
  | movi f | lea f | sext f | zext f | bfx f | bfi f | cmp f | plog f | pmov f
  | fadd f | fsub f | fmul f | ffma f | fdiv f | fsqrt f | fmin f | fmax f | fcmp f | fcvt f | fclass f | fsgn f
  | br f | brx f | call f | ret f | loop f | endTask f
  | send f | spawn f | bind f | unbind f | chctl f | mwin f | qsend f | home f | csrr f | csrw f | trap f | brk f
  | ld f | st f | ldv f | stv f | ldvs f | stvs f | ldvg f | stvx f | ldf f | sete f | watch f | amo f | cas f | amom f
  | fence f | ntdrain f | pref f | discard f | stmap f | stsync f | capgive f | sealCap f | claim f | rmode f
  | vadd f | vsub f | vmul f | vfma f | vdiv f | vsqrt f | vmin f | vmax f | vabs f | vneg f | vand f | vor f | vxor f
  | vshl f | vshr f | vsar f | vcmp f | vsel f | vmov f | vsplat f | vred f | vscan f | viota f | vwhile f | vlen f
  | vpcnt f | vpfirst f | vget f | vput f | vperm f | vcmpr f | vexpd f | vsfu f | vcvt f | vqnt f | vrtag f | pack5t f
  | unpk5t f | cpy f | cpyg f | cpyx f | cpyl f | cpyset f | cpyc f
  | wcfg f | wload f | wscl f | wrun f | wdrain f | wzero f | wstat f
  | gcfg f | gbld f | gmm f | gzero f | grd f | gst f | gwait f
  | pload f | pfree f | popen f | pclose f | put f | get f | pcancel f | pbind f | pstat f
  | unif f | spstop f | spinv f | spqry f | join f | leave f | cbar f | cgath f | creds f | cxch f => some f
  | _ => none

/-- A row of the table that is a step of the machine and no encoded instruction. -/
def Instr.isEvent (i : Instr) : Bool := i.fields?.isNone

/-- The checks of R77 on the fields of a word whose op has the description `o`. -/
def Fields.legal (f : Fields) (o : OpInfo) : Bool :=
  o.typs.contains f.typ
    && o.mods.contains f.mod.val
    && (o.sat || !f.sat)
    && (o.rnd || f.rnd = .rne)
    && (o.long || f.look = 0)
    && o.dst.ok f.dst && o.opa.ok f.opa && o.opb.ok f.opb && o.opc.ok f.opc
    && (!o.three || f.imm.toNat < 2 ^ 22)
    && (o.useImm || f.imm = 0#32 || f.dst = .imm || f.opa = .imm || f.opb = .imm || f.opc = .imm)
    && o.extra

/-- A well-formed encoded instruction: its word is legal (R77). Events are not words. -/
def Instr.wf (i : Instr) : Bool :=
  match i.info, i.fields? with
  | some o, some f => f.legal o
  | _, _ => false

end Sys2Proof
end

