-- ==== Sys2Proof/Decode.lean ====
section
/-! DEFINITION. The 96-bit instruction word (R59, R60, R73, R79): decoding it, total and rejecting by name, and encoding
a well-formed instruction. -/

namespace Sys2Proof

/-- The constructor of each cell of the opcode map (R79), by class and index; none where the cell is unassigned. -/
def opCell (cls idx : Nat) : Option (Fields → Instr) :=
  match cls with
  | 0 =>
    ([.add, .sub, .mul, .mulh, .mulhn, .div, .divn, .rem, .remn, .and, .or, .xor, .andn, .shl, .shr, .sar, .rol,
    .clz, .ctz, .popc, .min, .minn, .max, .maxn, .abs, .sel, .mov, .movi, .lea, .sext, .zext, .bfx, .bfi, .cmp] : List (Fields → Instr))[idx]?
  | 1 =>
    ([.plog, .pmov] : List (Fields → Instr))[idx]?
  | 2 =>
    ([.fadd, .fsub, .fmul, .ffma, .fdiv, .fsqrt, .fmin, .fmax, .fcmp, .fcvt, .fclass, .fsgn] : List (Fields → Instr))[idx]?
  | 3 =>
    ([.br, .brx, .call, .ret, .loop, .endTask] : List (Fields → Instr))[idx]?
  | 4 =>
    ([.send, .spawn, .bind, .unbind, .chctl, .mwin, .qsend, .home] : List (Fields → Instr))[idx]?
  | 5 =>
    ([.csrr, .csrw, .trap, .brk] : List (Fields → Instr))[idx]?
  | 6 =>
    ([.ld, .st] : List (Fields → Instr))[idx]?
  | 7 =>
    ([.ldv, .stv, .ldvs, .stvs, .ldvg, .stvx, .ldf, .sete, .watch, .amo, .cas, .amom, .fence, .ntdrain, .pref,
    .discard, .stmap, .stsync] : List (Fields → Instr))[idx]?
  | 8 =>
    ([.capgive, .sealCap, .claim, .rmode] : List (Fields → Instr))[idx]?
  | 9 =>
    ([.vadd, .vsub, .vmul, .vfma, .vdiv, .vsqrt, .vmin, .vmax, .vabs, .vneg, .vand, .vor, .vxor, .vshl, .vshr,
    .vsar, .vcmp, .vsel, .vmov, .vsplat, .vred, .vscan, .viota, .vwhile, .vlen, .vpcnt, .vpfirst] : List (Fields → Instr))[idx]?
  | 10 =>
    ([.vget, .vput, .vperm, .vcmpr, .vexpd, .vsfu, .vcvt, .vqnt, .vrtag, .pack5t, .unpk5t] : List (Fields → Instr))[idx]?
  | 11 =>
    ([.cpy, .cpyg, .cpyx, .cpyl, .cpyset, .cpyc] : List (Fields → Instr))[idx]?
  | 12 =>
    ([.wcfg, .wload, .wscl, .wrun, .wdrain, .wzero, .wstat] : List (Fields → Instr))[idx]?
  | 13 =>
    ([.gcfg, .gbld, .gmm, .gzero, .grd, .gst, .gwait] : List (Fields → Instr))[idx]?
  | 14 =>
    ([.pload, .pfree, .popen, .pclose, .put, .get, .pcancel, .pbind, .pstat] : List (Fields → Instr))[idx]?
  | 15 =>
    if idx < 8 then ([.unif, .spstop, .spinv, .spqry] : List (Fields → Instr))[idx]?
    else ([.join, .leave, .cbar, .cgath, .creds, .cxch] : List (Fields → Instr))[idx - 8]?
  | _ => none

/-- The op of an encoded instruction, class × 64 + index (R79); 1023, an unassigned cell, for an event. -/
def Instr.opcode : Instr → Nat
  | .add _ => 0x000 | .sub _ => 0x001 | .mul _ => 0x002 | .mulh _ => 0x003 | .mulhn _ => 0x004
  | .div _ => 0x005 | .divn _ => 0x006 | .rem _ => 0x007 | .remn _ => 0x008 | .and _ => 0x009 | .or _ => 0x00A
  | .xor _ => 0x00B | .andn _ => 0x00C | .shl _ => 0x00D | .shr _ => 0x00E | .sar _ => 0x00F | .rol _ => 0x010
  | .clz _ => 0x011 | .ctz _ => 0x012 | .popc _ => 0x013 | .min _ => 0x014 | .minn _ => 0x015 | .max _ => 0x016
  | .maxn _ => 0x017 | .abs _ => 0x018 | .sel _ => 0x019 | .mov _ => 0x01A | .movi _ => 0x01B | .lea _ => 0x01C
  | .sext _ => 0x01D | .zext _ => 0x01E | .bfx _ => 0x01F | .bfi _ => 0x020 | .cmp _ => 0x021
  | .plog _ => 0x040 | .pmov _ => 0x041
  | .fadd _ => 0x080 | .fsub _ => 0x081 | .fmul _ => 0x082 | .ffma _ => 0x083 | .fdiv _ => 0x084
  | .fsqrt _ => 0x085 | .fmin _ => 0x086 | .fmax _ => 0x087 | .fcmp _ => 0x088 | .fcvt _ => 0x089
  | .fclass _ => 0x08A | .fsgn _ => 0x08B
  | .br _ => 0x0C0 | .brx _ => 0x0C1 | .call _ => 0x0C2 | .ret _ => 0x0C3 | .loop _ => 0x0C4
  | .endTask _ => 0x0C5
  | .send _ => 0x100 | .spawn _ => 0x101 | .bind _ => 0x102 | .unbind _ => 0x103 | .chctl _ => 0x104
  | .mwin _ => 0x105 | .qsend _ => 0x106 | .home _ => 0x107
  | .csrr _ => 0x140 | .csrw _ => 0x141 | .trap _ => 0x142 | .brk _ => 0x143
  | .ld _ => 0x180 | .st _ => 0x181
  | .ldv _ => 0x1C0 | .stv _ => 0x1C1 | .ldvs _ => 0x1C2 | .stvs _ => 0x1C3 | .ldvg _ => 0x1C4
  | .stvx _ => 0x1C5 | .ldf _ => 0x1C6 | .sete _ => 0x1C7 | .watch _ => 0x1C8 | .amo _ => 0x1C9
  | .cas _ => 0x1CA | .amom _ => 0x1CB | .fence _ => 0x1CC | .ntdrain _ => 0x1CD | .pref _ => 0x1CE
  | .discard _ => 0x1CF | .stmap _ => 0x1D0 | .stsync _ => 0x1D1
  | .capgive _ => 0x200 | .sealCap _ => 0x201 | .claim _ => 0x202 | .rmode _ => 0x203
  | .vadd _ => 0x240 | .vsub _ => 0x241 | .vmul _ => 0x242 | .vfma _ => 0x243 | .vdiv _ => 0x244
  | .vsqrt _ => 0x245 | .vmin _ => 0x246 | .vmax _ => 0x247 | .vabs _ => 0x248 | .vneg _ => 0x249
  | .vand _ => 0x24A | .vor _ => 0x24B | .vxor _ => 0x24C | .vshl _ => 0x24D | .vshr _ => 0x24E
  | .vsar _ => 0x24F | .vcmp _ => 0x250 | .vsel _ => 0x251 | .vmov _ => 0x252 | .vsplat _ => 0x253
  | .vred _ => 0x254 | .vscan _ => 0x255 | .viota _ => 0x256 | .vwhile _ => 0x257 | .vlen _ => 0x258
  | .vpcnt _ => 0x259 | .vpfirst _ => 0x25A
  | .vget _ => 0x280 | .vput _ => 0x281 | .vperm _ => 0x282 | .vcmpr _ => 0x283 | .vexpd _ => 0x284
  | .vsfu _ => 0x285 | .vcvt _ => 0x286 | .vqnt _ => 0x287 | .vrtag _ => 0x288 | .pack5t _ => 0x289
  | .unpk5t _ => 0x28A
  | .cpy _ => 0x2C0 | .cpyg _ => 0x2C1 | .cpyx _ => 0x2C2 | .cpyl _ => 0x2C3 | .cpyset _ => 0x2C4
  | .cpyc _ => 0x2C5
  | .wcfg _ => 0x300 | .wload _ => 0x301 | .wscl _ => 0x302 | .wrun _ => 0x303 | .wdrain _ => 0x304
  | .wzero _ => 0x305 | .wstat _ => 0x306
  | .gcfg _ => 0x340 | .gbld _ => 0x341 | .gmm _ => 0x342 | .gzero _ => 0x343 | .grd _ => 0x344
  | .gst _ => 0x345 | .gwait _ => 0x346
  | .pload _ => 0x380 | .pfree _ => 0x381 | .popen _ => 0x382 | .pclose _ => 0x383 | .put _ => 0x384
  | .get _ => 0x385 | .pcancel _ => 0x386 | .pbind _ => 0x387 | .pstat _ => 0x388
  | .unif _ => 0x3C0 | .spstop _ => 0x3C1 | .spinv _ => 0x3C2 | .spqry _ => 0x3C3 | .join _ => 0x3C8
  | .leave _ => 0x3C9 | .cbar _ => 0x3CA | .cgath _ => 0x3CB | .creds _ => 0x3CC | .cxch _ => 0x3CD
  | _ => 1023

/-- Why a word is no instruction (R77). -/
inductive Reject
  | op | bit94 | typ | operand | mod | sat | rnd | look | c3 | imm
  deriving DecidableEq, Repr

/-- Bits lo to lo + len − 1 of a word. -/
def IWord.bits (w : IWord) (lo len : Nat) : Nat := (w.extractLsb' lo len).toNat

/-- Which check of R77 the fields of an op with description `o` fail first; none where they are legal. -/
def Fields.reject (f : Fields) (o : OpInfo) : Reject :=
  if !o.typs.contains f.typ then .typ
  else if !o.mods.contains f.mod.val then .mod
  else if f.sat && !o.sat then .sat
  else if f.rnd ≠ .rne && !o.rnd then .rnd
  else if f.look ≠ 0 && !o.long then .look
  else if !(o.dst.ok f.dst && o.opa.ok f.opa && o.opb.ok f.opb && o.opc.ok f.opc) then .operand
  else .imm

/-- Decode a word (R59, R77). -/
def decode (w : IWord) : Except Reject Instr :=
  match opCell (w.bits 6 4) (w.bits 0 6) with
  | none => .error .op
  | some mk =>
    if w.bits 94 1 ≠ 0 then .error .bit94 else
    match Typ.ofCode (w.bits 10 5) with
    | none => .error .typ
    | some typ =>
      let three : Bool := w.bits 93 1 = 1
      let opcBits := if three then w.bits 50 10 else 0
      let imm : BitVec 32 := if three then (w.extractLsb' 60 22).setWidth 32 else w.extractLsb' 50 32
      match Operand.ofCode (w.bits 20 10), Operand.ofCode (w.bits 30 10), Operand.ofCode (w.bits 40 10),
          Operand.ofCode opcBits with
      | some dst, some opa, some opb, some opc =>
        let f : Fields :=
          { stop := w.bits 95 1 = 1, bt := w.bits 92 1 = 1, look := Fin.ofNat 16 (w.bits 88 4),
            mod := Fin.ofNat 8 (w.bits 85 3), sat := w.bits 84 1 = 1, rnd := Rnd.ofCode (w.bits 82 2), imm := imm,
            opc := opc, opb := opb, opa := opa, dst := dst,
            guard := { inv := w.bits 19 1 = 1, p := Fin.ofNat 16 (w.bits 15 4) }, typ := typ }
        let i := mk f
        match i.info with
        | none => .error .op
        | some o =>
          if o.three ≠ three then .error .c3
          else if f.legal o then .ok i else .error (f.reject o)
      | _, _, _, _ => .error .operand

/-- The word of an instruction's fields: stop, reserved, c3, bt, look, mod, sat, rnd, imm (or imm and opc), opb, opa, dst,
guard, typ, op, from bit 95 down (R59). -/
def encodeFields (op : Nat) (three : Bool) (f : Fields) : IWord :=
  BitVec.ofBool f.stop ++ (0#1) ++ BitVec.ofBool three ++ BitVec.ofBool f.bt ++ BitVec.ofNat 4 f.look.val
    ++ BitVec.ofNat 3 f.mod.val ++ BitVec.ofBool f.sat ++ BitVec.ofNat 2 f.rnd.code
    ++ (if three then f.imm.setWidth 22 ++ BitVec.ofNat 10 f.opc.code else f.imm)
    ++ BitVec.ofNat 10 f.opb.code ++ BitVec.ofNat 10 f.opa.code ++ BitVec.ofNat 10 f.dst.code
    ++ BitVec.ofBool f.guard.inv ++ BitVec.ofNat 4 f.guard.p.val ++ BitVec.ofNat 5 f.typ.code ++ BitVec.ofNat 10 op

/-- The word of an encoded instruction (R59, R73, R79); events have none and give 0. -/
def encode (i : Instr) : IWord :=
  match i.info, i.fields? with
  | some o, some f => encodeFields i.opcode o.three f
  | _, _ => 0

/-- The 12 bytes of a word, first byte lowest: three little-endian 32-bit words (R60). -/
def IWord.toBytes (w : IWord) : List Byte := (List.range 12).map fun k => w.extractLsb' (8 * k) 8

/-- A word from its 12 bytes (R60). -/
def IWord.ofBytes (bs : List Byte) : IWord :=
  bs.foldr (fun b acc => (acc <<< 8) ||| b.setWidth 96) 0

/-- Decode an instruction from the front of a byte sequence; none where fewer than 12 bytes are there. -/
def decodeBytes (bs : List Byte) : Option (Except Reject Instr) :=
  if bs.length < 12 then none else some (decode (IWord.ofBytes (bs.take 12)))

/-- The instruction the decoder reads from a table row's bits, the bits above `nbits` being 0. -/
def decodeTableWord (nbits w : Nat) : Option Instr :=
  match decodeBytes (IWord.toBytes (BitVec.ofNat 96 (w % 2 ^ nbits))) with
  | some (.ok i) => some i
  | _ => none

end Sys2Proof
end

