-- ==== Sys2Proof/Machine/Bits.lean ====
section
/-! DEFINITION. Bit fields, sign extension, byte order and the keyed lists that the machine is written with. -/

namespace Sys2Proof.Machine

/-- The value of bits lo to lo + len − 1 (R4). -/
def bits (w : W64) (lo len : Nat) : Nat := w.toNat / 2 ^ lo % 2 ^ len

/-- Bit n of a word. -/
def bit (w : W64) (n : Nat) : Bool := w.toNat / 2 ^ n % 2 == 1

def boolNat (b : Bool) : Nat := if b then 1 else 0

/-- The signed number that the low n bits of a natural encode. -/
def toSigned (n : Nat) (x : Nat) : Int :=
  let y := x % 2 ^ n
  if 2 * y < 2 ^ n then (y : Int) else (y : Int) - 2 ^ n

/-- The low n bits of an exact integer, as a natural. -/
def lowBits (n : Nat) (x : Int) : Nat := (x % (2 ^ n : Int)).toNat

/-- The low n bits of a word, sign- or zero-extended to 64 bits. -/
def sextW (n : Nat) (w : W64) : W64 := BitVec.ofInt 64 (toSigned n w.toNat)
def zextW (n : Nat) (w : W64) : W64 := BitVec.ofNat 64 (w.toNat % 2 ^ n)

/-- Clamp to a range (R95). -/
def clamp (lo hi x : Int) : Int := if x < lo then lo else if hi < x then hi else x

/-- An entry of a vector, and the vector with another one there. -/
def vget {α : Type} {n : Nat} (v : Vector α n) (i : Nat) (d : α) : α := v.toList.getD i d
def vset {α : Type} {n : Nat} (v : Vector α n) (i : Nat) (x : α) : Vector α n := if h : i < n then v.set i x else v

/-- Little-endian: the natural that bytes encode, and the n bytes of a natural (R4). -/
def ofBytes : List Byte → Nat
  | [] => 0
  | b :: bs => b.toNat + 256 * ofBytes bs

def toBytes : Nat → Nat → List Byte
  | 0, _ => []
  | n + 1, x => BitVec.ofNat 8 x :: toBytes n (x / 256)

/-- Replace entry n of a list; lists shorter than that stay as they are. -/
def setAt {α : Type} : List α → Nat → α → List α
  | [], _, _ => []
  | _ :: t, 0, x => x :: t
  | h :: t, n + 1, x => h :: setAt t n x

/-- Replace entries from place n on. -/
def setFrom {α : Type} (l : List α) (n : Nat) (xs : List α) : List α :=
  l.take n ++ xs ++ l.drop (n + xs.length)

/-- Entries lo to lo + len − 1. -/
def sub {α : Type} (l : List α) (lo len : Nat) : List α := (l.drop lo).take len

/-- Strictly rising lists of naturals, used as sets. -/
def nmem : List Nat → Nat → Bool
  | [], _ => false
  | h :: t, k => if k < h then false else if h = k then true else nmem t k

def nins : List Nat → Nat → List Nat
  | [], k => [k]
  | h :: t, k => if k < h then k :: h :: t else if h = k then h :: t else h :: nins t k

def ndel : List Nat → Nat → List Nat
  | [], _ => []
  | h :: t, k => if k < h then h :: t else if h = k then t else h :: ndel t k

/-- Replace the first entry with the key, or add at the end (the machine's tables keyed by a number). -/
def putBy {α : Type} (key : α → Nat) : List α → α → List α
  | [], x => [x]
  | h :: t, x => if key h = key x then x :: t else if key x < key h then x :: h :: t else h :: putBy key t x

/-- The first entry with a key. -/
def getBy {α : Type} (key : α → Nat) : List α → Nat → Option α
  | [], _ => none
  | h :: t, k => if key h = k then some h else getBy key t k

/-- Change every entry that satisfies a test. -/
def mapIf {α : Type} (p : α → Bool) (f : α → α) (l : List α) : List α := l.map fun x => if p x then f x else x

/-- Remove entry n. -/
def eraseAt {α : Type} : List α → Nat → List α
  | [], _ => []
  | _ :: t, 0 => t
  | h :: t, n + 1 => h :: eraseAt t n

end Sys2Proof.Machine
end

