-- ==== Sys2Proof/Machine/Fp.lean ====
section
/-! DEFINITION. Floating point (R82-R84, R94-R98, R100, R132-R135): exact results as naturals times powers of two, rounded
once. A value's bits are a natural below 2^width. -/

namespace Sys2Proof.Machine

/-- Exponent and fraction widths of a format (R82). -/
structure Fmt where
  e : Nat
  m : Nat
  deriving DecidableEq, Repr

def fmtOf : Typ → Fmt
  | .f32 => ⟨8, 23⟩
  | .f16 => ⟨5, 10⟩
  | .bf16 => ⟨8, 7⟩
  | _ => ⟨11, 52⟩

def fpBias (f : Fmt) : Int := 2 ^ (f.e - 1) - 1
def fpWidth (f : Fmt) : Nat := f.e + f.m + 1
/-- Magnitude bits of infinity. -/
def infBits (f : Fmt) : Nat := (2 ^ f.e - 1) * 2 ^ f.m
def signBit (f : Fmt) (neg : Bool) : Nat := if neg then 2 ^ (f.e + f.m) else 0

/-- What a value's bits say (R82): a NaN keeps its bits, a finite value is (−1)^neg × mant × 2^exp. -/
inductive FVal
  | nan (quiet : Bool)
  | inf (neg : Bool)
  | fin (neg : Bool) (mant : Nat) (exp : Int)
  deriving DecidableEq, Repr

def fpMag (f : Fmt) (x : Nat) : Nat := x % 2 ^ (f.e + f.m)
def fpNeg (f : Fmt) (x : Nat) : Bool := x / 2 ^ (f.e + f.m) % 2 == 1

def unpack (f : Fmt) (x : Nat) : FVal :=
  let neg := fpNeg f x
  let be := x / 2 ^ f.m % 2 ^ f.e
  let fr := x % 2 ^ f.m
  if be = 2 ^ f.e - 1 then
    if fr = 0 then .inf neg else .nan (fr / 2 ^ (f.m - 1) % 2 == 1)
  else if be = 0 then .fin neg fr (1 - fpBias f - f.m)
  else .fin neg (2 ^ f.m + fr) (be - fpBias f - f.m)

/-- FP events, ordered as sys.fflags (R98). -/
abbrev Events := BitVec 5
def evInvalid : Events := 16#5
def evDivZero : Events := 8#5
def evOverflow : Events := 4#5
def evUnderflow : Events := 2#5
def evInexact : Events := 1#5

/-- A result and the events it raises. -/
abbrev FRes := Nat × Events

/-- R96: a generated NaN with its cause. -/
def genNaN (f : Fmt) (c : Nat) : FRes := (infBits f + 2 ^ (f.m - 1) + c, evInvalid)

def fpZero (f : Fmt) (neg : Bool) : Nat := signBit f neg
def fpInf (f : Fmt) (neg : Bool) : Nat := signBit f neg + infBits f

/-- Does the magnitude go up, given the kept part, twice the remainder against its divisor, and the mode (R94)? -/
def roundsUp (r : Rnd) (neg : Bool) (kept rem half2 : Nat) : Bool :=
  match r with
  | .rne => half2 < 2 * rem || (half2 == 2 * rem && kept % 2 == 1)
  | .rtz => false
  | .rdn => neg && rem != 0
  | .rup => !neg && rem != 0

/-- mant × 2^exp to a multiple of 2^q, as the count of 2^q and whether that is exact. -/
def quantise (r : Rnd) (neg : Bool) (mant : Nat) (exp q : Int) : Nat × Bool :=
  if q ≤ exp then (mant * 2 ^ (exp - q).toNat, true)
  else
    let d := 2 ^ (q - exp).toNat
    let kept := mant / d
    let rem := mant % d
    (if roundsUp r neg kept rem d then kept + 1 else kept, rem == 0)

/-- Round (−1)^neg × (mant + ε) × 2^exp once (R83, R94, R98), where 0 < ε < 1 when `sticky`, else ε = 0. With `sticky` the
caller gives a mant of more bits than the format keeps. mant = 0 gives a zero of the sign. -/
def roundFp (f : Fmt) (r : Rnd) (neg : Bool) (mant : Nat) (exp : Int) (sticky : Bool) : FRes :=
  if mant = 0 ∧ !sticky then (fpZero f neg, 0#5) else
  let mant := 4 * mant + boolNat sticky
  let exp := exp - 2
  let top : Int := exp + Nat.log2 mant
  let emin := 1 - fpBias f
  let q := if top < emin then emin - f.m else top - f.m
  let (kept, exact) := quantise r neg mant exp q
  let enc := (q + f.m + fpBias f - 1).toNat * 2 ^ f.m + kept
  if infBits f ≤ enc then
    let toInf := match r with
      | .rne => true
      | .rtz => false
      | .rdn => neg
      | .rup => !neg
    (signBit f neg + (if toInf then infBits f else infBits f - 1), evOverflow ||| evInexact)
  else
    let tiny := top < emin &&
      !(top + 1 == emin && (quantise r neg mant exp (top - f.m)).1 == 2 ^ (f.m + 1))
    let ev := if exact then 0#5 else if tiny then evUnderflow ||| evInexact else evInexact
    (signBit f neg + enc, ev)

/-- An exact dyadic number n × 2^exp. -/
structure Dy where
  n : Int
  exp : Int
  deriving DecidableEq, Repr

def Dy.add (a b : Dy) : Dy :=
  if a.exp ≤ b.exp then ⟨a.n + b.n * 2 ^ (b.exp - a.exp).toNat, a.exp⟩
  else ⟨a.n * 2 ^ (a.exp - b.exp).toNat + b.n, b.exp⟩

def Dy.mul (a b : Dy) : Dy := ⟨a.n * b.n, a.exp + b.exp⟩

def dyOf (neg : Bool) (mant : Nat) (exp : Int) : Dy := ⟨if neg then -(mant : Int) else mant, exp⟩

/-- Round an exact dyadic result; `zneg` is the sign of an exact zero. -/
def roundDy (f : Fmt) (r : Rnd) (d : Dy) (zneg : Bool) : FRes :=
  if d.n = 0 then (fpZero f zneg, 0#5) else roundFp f r (d.n < 0) d.n.natAbs d.exp false

def isSNaN (f : Fmt) (x : Nat) : Bool := unpack f x == .nan false
def isQNaN (f : Fmt) (x : Nat) : Bool := unpack f x == .nan true
def isNaN (f : Fmt) (x : Nat) : Bool := isSNaN f x || isQNaN f x

/-- R97: the first quiet NaN in operand order. -/
def firstQNaN (f : Fmt) (xs : List Nat) : Option Nat := xs.find? (isQNaN f)

/-- A term of an exact sum: a finite value (its sign kept apart, for the zero sign), an infinity, or 0 × ∞. -/
inductive Term
  | fin (neg : Bool) (d : Dy)
  | inf (neg : Bool)
  | bad
  deriving DecidableEq, Repr

def termOf (f : Fmt) (x : Nat) : Term :=
  match unpack f x with
  | .nan _ => .bad
  | .inf n => .inf n
  | .fin n m e => .fin n (dyOf n m e)

/-- The exact product of two operands, as a term. -/
def mulTerm (f : Fmt) (x y : Nat) : Term :=
  match unpack f x, unpack f y with
  | .fin n m e, .fin n' m' e' => .fin (n != n') (dyOf (n != n') (m * m') (e + e'))
  | .inf n, .inf n' => .inf (n != n')
  | .inf n, .fin n' m _ => if m = 0 then .bad else .inf (n != n')
  | .fin n m _, .inf n' => if m = 0 then .bad else .inf (n != n')
  | _, _ => .bad

/-- The exact sum of terms without 0 × ∞ or NaN, rounded once: ∞ − ∞ is cause 3; the zero sign is that of R94. -/
def sumTerms (f : Fmt) (r : Rnd) (ts : List Term) : FRes :=
  let pos := ts.any (· == .inf false)
  let neg := ts.any (· == .inf true)
  if pos && neg then genNaN f 3
  else if pos then (fpInf f false, 0#5)
  else if neg then (fpInf f true, 0#5)
  else
    let d := ts.foldl (fun acc t => match t with
      | .fin _ d => acc.add d
      | _ => acc) (Dy.mk 0 0)
    let allNeg := ts.all fun t => match t with
      | .fin n _ => n
      | _ => false
    let allPos := ts.all fun t => match t with
      | .fin n _ => !n
      | _ => false
    let zneg := if allNeg then true else if allPos then false else r == .rdn
    roundDy f r d zneg

/-- R132 for a sum of products and addends: `ops` in operand order for the NaN rules. -/
def fusedSum (f : Fmt) (r : Rnd) (ops : List Nat) (prods : List (Nat × Nat)) (adds : List Nat) : FRes :=
  if ops.any (isSNaN f) then genNaN f 1
  else
    let zinf := prods.any fun (x, y) => !isNaN f x && !isNaN f y && mulTerm f x y == .bad
    if zinf then genNaN f 4
    else
      let clean := (prods.filter fun (x, y) => !isNaN f x && !isNaN f y).map (fun (x, y) => mulTerm f x y)
        ++ (adds.filter fun x => !isNaN f x).map (termOf f)
      let pos := clean.any (· == .inf false)
      let neg := clean.any (· == .inf true)
      if pos && neg then genNaN f 3
      else match firstQNaN f ops with
        | some q => (q, 0#5)
        | none => sumTerms f r clean

def fpNegate (f : Fmt) (x : Nat) : Nat := fpMag f x + signBit f (!fpNeg f x)

/-- FADD; FSUB adds the negated second operand, whose NaNs keep their sign (R97, R132). -/
def fadd (f : Fmt) (r : Rnd) (a b : Nat) : FRes := fusedSum f r [a, b] [] [a, b]

def fsub (f : Fmt) (r : Rnd) (a b : Nat) : FRes :=
  if isNaN f b then fusedSum f r [a, b] [] [a] else fusedSum f r [a, b] [] [a, fpNegate f b]

def ffma (f : Fmt) (r : Rnd) (a b c : Nat) : FRes := fusedSum f r [a, b, c] [(a, b)] [c]

/-- FMUL: the sign of a zero product is that of the operands. -/
def fmul (f : Fmt) (r : Rnd) (a b : Nat) : FRes :=
  if isSNaN f a || isSNaN f b then genNaN f 1
  else if isNaN f a || isNaN f b then ((firstQNaN f [a, b]).getD 0, 0#5)
  else match mulTerm f a b with
    | .bad => genNaN f 4
    | .inf n => (fpInf f n, 0#5)
    | .fin n d => roundDy f r d n

/-- FDIV (R132): the quotient to more bits than any format keeps, with the rest as sticky. -/
def fdiv (f : Fmt) (r : Rnd) (a b : Nat) : FRes :=
  if isSNaN f a || isSNaN f b then genNaN f 1
  else match unpack f a, unpack f b with
    | .inf _, .inf _ => genNaN f 5
    | .inf n, .fin n' _ _ => (fpInf f (n != n'), 0#5)
    | .fin n _ _, .inf n' => (fpZero f (n != n'), 0#5)
    | .fin n m e, .fin n' m' e' =>
      if m' = 0 then (if m = 0 then genNaN f 5 else (fpInf f (n != n'), evDivZero))
      else
        let k := 2 * f.m + 8
        let num := m * 2 ^ k
        roundFp f r (n != n') (num / m') (e - e' - k) (num % m' != 0)
    | _, _ => ((firstQNaN f [a, b]).getD 0, 0#5)

/-- The integer square root, by bits from the highest. -/
def isqrtGo (n : Nat) : Nat → Nat → Nat
  | 0, acc => acc
  | k + 1, acc => if (acc + 2 ^ k) * (acc + 2 ^ k) ≤ n then isqrtGo n k (acc + 2 ^ k) else isqrtGo n k acc

def isqrt (n : Nat) : Nat := isqrtGo n (Nat.log2 n / 2 + 1) 0

def fsqrt (f : Fmt) (r : Rnd) (a : Nat) : FRes :=
  match unpack f a with
  | .nan q => if q then (a, 0#5) else genNaN f 1
  | .inf n => if n then genNaN f 5 else (fpInf f false, 0#5)
  | .fin n m e =>
    if m = 0 then (fpZero f n, 0#5)
    else if n then genNaN f 5
    else
      -- an even exponent, and enough bits
      let k : Nat := 2 * f.m + 8
      let sh : Nat := if (e - k) % 2 = 0 then k else k + 1
      let x := m * 2 ^ sh
      let root := isqrt x
      roundFp f r false root ((e - sh) / 2) (root * root != x)

/-- Order of two values that are not NaN: −0.0 and +0.0 are equal here. -/
def fpLt (f : Fmt) (a b : Nat) : Bool :=
  let key (x : Nat) : Int := if fpNeg f x then -(fpMag f x : Int) else fpMag f x
  key a < key b

def fpEq (f : Fmt) (a b : Nat) : Bool := !fpLt f a b && !fpLt f b a

/-- FMIN, FMAX and the reductions (R97): −0.0 is below +0.0. -/
def fminmax (f : Fmt) (max : Bool) (a b : Nat) : FRes :=
  if isSNaN f a || isSNaN f b then genNaN f 1
  else match firstQNaN f [a, b] with
    | some q => (q, 0#5)
    | none =>
      let aLess := fpLt f a b || (fpEq f a b && fpNeg f a && !fpNeg f b)
      (if aLess != max then a else b, 0#5)

/-- FCMP's condition and invalid flag (R133). -/
def fcmp (f : Fmt) (cond : Nat) (a b : Nat) : Bool × Events :=
  let nan := isNaN f a || isNaN f b
  let snan := isSNaN f a || isSNaN f b
  let ev := if (if 2 ≤ cond && cond ≤ 5 then nan else snan) then evInvalid else 0#5
  let res := match cond with
    | 0 => !nan && fpEq f a b
    | 1 => nan || !fpEq f a b
    | 2 => !nan && fpLt f a b
    | 3 => !nan && !fpLt f a b
    | 4 => !nan && !fpLt f b a
    | 5 => !nan && fpLt f b a
    | 6 => nan
    | _ => !nan
  (res, ev)

/-- FCLASS's mask (R135). -/
def fclass (f : Fmt) (a : Nat) : Nat :=
  match unpack f a with
  | .nan q => if q then 512 else 256
  | .inf n => if n then 1 else 128
  | .fin n m _ =>
    let normal := 2 ^ f.m ≤ m
    if m = 0 then (if n then 8 else 16)
    else if normal then (if n then 2 else 64)
    else (if n then 4 else 32)

/-- FP to FP (R97, R134). -/
def fpToFp (src dst : Fmt) (r : Rnd) (a : Nat) : FRes :=
  match unpack src a with
  | .nan q =>
    if q then
      let payload := a % 2 ^ (src.m - 1)
      (fpInf dst (fpNeg src a) + 2 ^ (dst.m - 1) + payload % 2 ^ (dst.m - 1), 0#5)
    else genNaN dst 6
  | .inf n => (fpInf dst n, 0#5)
  | .fin n m e => if src = dst then (a, 0#5) else roundFp dst r n m e false

/-- A finite value rounded to an integer by the mode, and whether that is exact. -/
def roundInt (r : Rnd) (neg : Bool) (mant : Nat) (exp : Int) : Int × Bool :=
  let (k, exact) := quantise r neg mant exp 0
  (if neg then -(k : Int) else k, exact)

/-- FP to an integer range lo to hi of n bits (R95). -/
def fpToInt (f : Fmt) (r : Rnd) (sat : Bool) (lo hi : Int) (n : Nat) (a : Nat) : FRes :=
  match unpack f a with
  | .nan _ => (0, evInvalid)
  | .inf neg => (if sat then lowBits n (if neg then lo else hi) else 0, evInvalid)
  | .fin neg m e =>
    let (x, exact) := roundInt r neg m e
    if lo ≤ x && x ≤ hi then (lowBits n x, if exact then 0#5 else evInexact)
    else (lowBits n (if sat then clamp lo hi x else x), evInvalid)

/-- Integer to FP (R134). -/
def intToFp (f : Fmt) (r : Rnd) (x : Int) : FRes := roundDy f r ⟨x, 0⟩ false

/-- The range of an integer type (R85). -/
def intRange (t : Typ) : Int × Int :=
  match t with
  | .s8 => (-128, 127) | .s16 => (-32768, 32767) | .s32 => (-2147483648, 2147483647)
  | .n8 => (0, 255) | .n16 => (0, 65535) | .n32 => (0, 4294967295) | .n64 => (0, 18446744073709551615)
  | _ => (-9223372036854775808, 9223372036854775807)

/-- A rational num / den × 2^exp rounded once, as constants and quotients need it. -/
def roundRat (f : Fmt) (r : Rnd) (neg : Bool) (num den : Nat) (exp : Int) : FRes :=
  let k := 2 * f.m + 8 + Nat.log2 den
  let x := num * 2 ^ k
  roundFp f r neg (x / den) (exp - k) (x % den != 0)

end Sys2Proof.Machine
end

