-- ==== Sys2Proof/Machine/Mem.lean ====
section
/-! DEFINITION. Memory as one sorted list of cells. An unlisted address reads as zero (log 6). -/

namespace Sys2Proof.Machine

/-- What a byte that nothing has written reads as (log 6). -/
def unlisted : Byte := 0

/-- Addresses strictly rising, and no entry equal to what an unlisted address reads as. -/
def Memory.wf : List Host.Cell → Bool
  | [] => true
  | [(_, b)] => b != unlisted
  | (k, b) :: (k', b') :: t => b != unlisted && decide (k < k') && Memory.wf ((k', b') :: t)

/-- Read one byte. -/
def readCell : List Host.Cell → Nat → Byte
  | [], _ => unlisted
  | (k, b) :: t, a => if a < k then unlisted else if k = a then b else readCell t a

/-- Write one byte, keeping the canonical form. -/
def writeCell : List Host.Cell → Nat → Byte → List Host.Cell
  | [], a, x => if x = unlisted then [] else [(a, x)]
  | (k, b) :: t, a, x =>
    if a < k then (if x = unlisted then (k, b) :: t else (a, x) :: (k, b) :: t)
    else if k = a then (if x = unlisted then t else (a, x) :: t)
    else (k, b) :: writeCell t a x

/-- Read and write runs of bytes, first byte at the address. -/
def readCells (m : List Host.Cell) (a : Nat) : Nat → List Byte
  | 0 => []
  | n + 1 => readCell m a :: readCells m (a + 1) n

def writeCells (m : List Host.Cell) (a : Nat) : List Byte → List Host.Cell
  | [] => m
  | b :: bs => writeCells (writeCell m a b) (a + 1) bs

/-- Little-endian words (R4). -/
def readWord (m : List Host.Cell) (a n : Nat) : Nat := ofBytes (readCells m a n)
def writeWord (m : List Host.Cell) (a n x : Nat) : List Host.Cell := writeCells m a (toBytes n x)

/-- Is some key of a to a + n − 1, divided by g, in the set? -/
def anyIn (set : List Nat) (g a n : Nat) : Bool :=
  (List.range ((a + n - 1) / g + 1 - a / g)).any fun i => nmem set (a / g + i)

end Sys2Proof.Machine
end

