-- ==== Sys2Proof/Config.lean ====
section
/-! DEFINITION. What this device fixes once (R1, R12, R19, R149, R229), and the values the manual leaves
open, as constants without a body (log 5, log 14): nothing can be proved about their values. -/

namespace Sys2Proof.Config

/-- Dies of the package (R1). -/
def dies : Nat := 8
/-- Core rows and core columns of a die (R1). -/
def coreRows : Nat := 64
def coreCols : Nat := 73
/-- Physical cores of one die and of the package (R1, R12). -/
def coresPerDie : Nat := coreRows * coreCols
def physCores : Nat := dies * coresPerDie

/-- VLEN in bits and in bytes (R229). -/
def vlen : Nat := 1024
def vlenBytes : Nat := 128

/-- sys.devrev (R149). -/
def devRev : W64 := 0x0001_0000#64

/-- Free-mode period of sys.tick, and the period of every 1 µs retry, in cc (R119, R414). -/
def tickPeriod : Nat := 1400
/-- Period of the escapement, in cc (R392). -/
def escapementPeriod : Nat := 65536
/-- Limit of a gang step in cc, and in quantum boundaries (R311). -/
def gangLimit : Nat := 1048576
def gangLimitQuanta : Nat := 16
/-- Limit of a collective instance in cc, and in quantum boundaries (R380, R385). -/
def instanceLimit : Nat := 16777216
def instanceLimitQuanta : Nat := 16

/-- Free values (log 5): the n-th value drawn since reset, where the manual leaves a value undefined. -/
opaque freeWord : Nat → W64
opaque freePred : Nat → PBits
opaque freeVec : Nat → VBits
opaque freeLatch : Nat → BitVec 16384
opaque freeTrit : Nat → BitVec 32
opaque freeByte : Nat → Byte

/-- Which requests the host die refuses, by context and host physical address (R430; log 14). -/
opaque hostRefuses : Nat → Nat → Bool

/-- Address the firmware places a context's core table at (R14; log 15). -/
opaque coreTableAddr : Nat → W64

/-- Which of the free kept-row slots of a physical core the firmware assigns to a context (R171; log 15). -/
opaque imageSlot : Nat → Nat → Nat

/-- The 64 KiB unit at which a region that a creation record lists begins, by record address and place in the list: R175 and
R415 give the entry no base (log 17). -/
opaque regionUnit : Nat → Nat → BitVec 31

/-- Packages of a grant that spans Rhohimen-linked packages (R386, R415; log 16): the place in the record's package list of the package
that holds the k-th entry of its grant list, and of this package. R415 gives the list no layout. -/
opaque grantPackage : Nat → Nat → Nat
opaque ownPackage : Nat → Nat

/-- What a member on another package contributes to a collective instance (R381, R433; log 16), by the instance's opening and number: a byte
of its source and its poison, by logical core and address, and how many bytes of an access pass their check there. -/
opaque remoteByte : Nat → Nat → Nat → BitVec 9
opaque remoteGood : Nat → Nat → Nat → Nat → Nat

/-- The form that a bank's lookahead state has in the image (R121; log 5): of its windows, each as PC, instructions left and
registers. -/
opaque lookaheadForm : List (W64 × Nat × List Nat) → W128

/-- Does an LMS signature hold over bytes under the root public key with a SHA-256 hash (R434, R435)? The spec names RFC 8554's scheme
and does not give it (log 14). -/
opaque lmsHolds : BitVec 256 → List Byte → List Byte → Bool

/-- The SHA-256 hash of the root public key in the fuses of this package (R435; log 14). -/
opaque rootKeyHash : BitVec 256

/-- The fused erase-on-alarm bit (R437; log 5). -/
opaque eraseOnAlarm : Bool

end Sys2Proof.Config
end

