-- ==== Sys2Proof/Machine/CoreState.lean ====
section
/-! DEFINITION. The state of one compute core: its register banks, context image, engines, outstanding operations and
loupe (R8, R39, R101-R121, R150-R163, R187, R281, R300, R422). -/

namespace Sys2Proof.Machine

/-- A memory byte with the poison mark of its granule (R439). -/
structure PByte where
  b : Byte
  p : Bool
  deriving DecidableEq, Repr

/-- A register that a pending result may write (R74, R236, R264). -/
inductive Reg
  | s (n : Fin 64) | p (n : Fin 16) | v (n : Fin 32) | o (n : Fin 16)
  deriving DecidableEq, Repr

/-- The cause and cause words of a fault (R153). -/
structure FaultInfo where
  cause : Nat
  s5 : W64
  s6 : W64
  s7 : W64
  deriving DecidableEq, Repr

/-- One single-copy atomic part of an access (R184): its generic address, the key of its first byte in memory (R18, R19),
its length, and the place of its bytes in the access's buffer. -/
structure Part where
  va : Nat
  key : Nat
  len : Nat
  off : Nat
  done : Bool
  /-- Its request to another core's home has left and waits for its reply (R390); of engine accesses and non-temporal stores. -/
  sent : Bool := false
  deriving DecidableEq, Repr

/-- An open lookahead window (R74): the registers of its L op, the instructions left, the L op's PC and operation. -/
structure Window where
  regs : List Reg
  left : Nat
  pc : W64
  op : Nat
  deriving DecidableEq, Repr

/-- An R76 continuation: the L op at `lop`, instruction `at_` of its task, is undone; once it has executed again, with `left`
instructions left of its window, issue continues at `next`. -/
structure Cont where
  lop : W64
  next : W64
  left : Nat
  at_ : Nat
  deriving DecidableEq, Repr

/-- What the task engine keeps of a bank's task beside its registers. -/
structure TaskSt where
  /-- The bank runs a task (R121). -/
  live : Bool
  /-- Which task, counting the core's activations; commands and results carry it (R71, R99). -/
  serial : Nat
  /-- The channel that activated it (R152). -/
  ch : Fin 16
  /-- Instructions it has retired, for the packet's retired field (R152); an L op that is undone still counts here. -/
  retired : Nat
  windows : List Window
  /-- A lookahead state that the supervisor wrote and that is not the one last read: checks are undefined till the windows
  close (R121). -/
  form : Option W128
  /-- The next instruction issues without the check of R75 (R158). -/
  noCheck : Bool
  /-- L ops that are to execute again, the next one first, and where the task goes on after each (R76). -/
  conts : List Cont
  /-- PC of the instruction that produced the PC, 0 after an activation (R62). -/
  producer : W64
  /-- The launch that it reports its end to (R403), and its copy of the uniform block (R368). -/
  launch : Option Nat
  block : List Byte
  /-- The model's own: the PC it started at, in the cache entry that stays for it (R362). -/
  entry : W64 := 0
  deriving DecidableEq, Repr

/-- A task that has ended while something it issued is still under way: how many instructions it had retired, and its undone L ops
(R76, R152, R159). -/
structure Ended where
  serial : Nat
  retired : Nat
  undone : List Nat
  deriving DecidableEq, Repr

/-- One register bank (R110, R229, R231). Tags are those that stand when every older command has finished (R237). -/
structure Bank where
  s : Vector W64 64
  p : Vector PBits 16
  v : Vector VBits 32
  o : Vector VBits 16
  lv : VBits
  vtag : Vector (BitVec 4) 32
  otag : Vector (BitVec 4) 16
  lvtag : BitVec 4
  /-- The model's own: the task whose commands the vector registers serve. Commands of an ended task that are still queued run on
  the contents that they belong to (R71, R238); the registers turn undefined for the next task behind them (R108). -/
  vown : Nat
  /-- The model's own: where the free values of the bank's running task begin. -/
  vbase : Nat
  ls : W64
  pc : W64
  fflags : BitVec 5
  fenable : BitVec 5
  task : TaskSt
  deriving DecidableEq, Repr

/-- A message (R103); `payload` is s1 to s7. -/
structure Msg where
  tag : BitVec 16
  origch : BitVec 4
  spilled : Bool
  bounced : Bool
  kind : BitVec 4
  len : BitVec 6
  ch : BitVec 4
  sender : BitVec 16
  payload : Vector W64 7
  deriving DecidableEq, Repr

/-- A message as a core holds it, with the launch it belongs to (R401). -/
structure Held where
  msg : Msg
  launch : Option Nat
  deriving DecidableEq, Repr

/-- An occupied inbox slot (R104). -/
structure Slot where
  n : Nat
  held : Held
  deriving DecidableEq, Repr

/-- An accumulator tile (R300, R301): 32 rows of 128 bytes, tag, row poison, held events. -/
structure Tile where
  rows : Vector VBits 32
  tag : BitVec 4
  poison : BitVec 32
  events : BitVec 5
  deriving DecidableEq, Repr

/-- The gear engine's state beside the tiles (R300, R302). -/
structure GearSt where
  latch : BitVec 16384
  ltag : BitVec 4
  lpois : Bool
  scale : BitVec 48
  bias : BitVec 48
  /-- Drain buffer data, row i from byte 128 × i. -/
  dbuf : Vector VBits 32
  /-- The upper halves of 256-byte rows: .f64 output of an .f32 tile, which is more than the 4,096 bytes of R300 (log 72). -/
  dtop : Vector VBits 32
  drain0 : W64
  drain1 : W64
  drain2 : W64
  drain3 : W64
  steps : BitVec 16
  /-- Whose GST filled the drain buffer (its bank, task, channel, retired count and place in program order), and the parts of rows
  in hand that are already stored: row and part (R318). -/
  dbank : Bool
  dtask : Nat
  dch : Fin 16
  dat : Nat
  did : Nat
  /-- Bits 63 to 48 of the destination, which drain word 0 does not hold. -/
  dhigh : Nat
  /-- Its rows have the 16 elements of one pass of a pair (R318). -/
  dwide : Bool
  dparts : List (Nat × Nat)
  /-- The parts whose requests to other cores' homes wait for their replies (R390). -/
  dsent : List (Nat × Nat)
  /-- The model's own: gang GMMs that the timeout of R311 has ended, of those that the core has issued (R312). -/
  lost : Nat
  deriving DecidableEq, Repr

/-- The weft array's state (R281-R283). -/
structure WeftSt where
  latch : Vector (BitVec 32) 320
  lpois : BitVec 320
  acc : Vector (BitVec 32) 128
  apois : BitVec 128
  sp : BitVec 48
  bound : Nat
  ill : BitVec 16
  prow : BitVec 16
  ran : BitVec 7
  part : Bool
  stop : BitVec 6
  bnd : Bool
  pol : Bool
  /-- The suspend word and the PC of the suspended WRUN (R282). -/
  suspAddr : BitVec 48
  suspPick : BitVec 6
  suspBank : Bool
  suspended : Bool
  suspPc : W64
  deriving DecidableEq, Repr

/-- The four engines with a queue. -/
abbrev EngName := Eng

/-- What kind of freeze a core is in, as R158 tells them apart. -/
inductive FreezeKind
  | lookahead           -- cause 5
  | fpEvent             -- cause 13
  | trapBrk             -- causes 14 and 15
  | deferred            -- R159
  | other
  deriving DecidableEq, Repr

/-- The supervisor's actions (R156). -/
inductive Act
  | resume | skip | stop
  deriving DecidableEq, Repr

/-- A fault or FP event reported by an engine or by a late result (R159, R160); `id` is the place in program order of what reports
it, `behind` says that the core was frozen then. -/
structure Deferred where
  id : Nat
  info : FaultInfo
  bank : Bool
  task : Nat
  ch : Fin 16
  pc : W64
  retired : Nat
  /-- The gear store fault or the suspended WRUN that the action decides on (R291, R319). -/
  eng : Option Eng
  behind : Bool
  deriving DecidableEq, Repr

/-- The freeze state of a core in one context (R150-R160); `stop` of `Act` is the end action. -/
structure FreezeSt where
  frozen : Bool
  kind : FreezeKind
  bank : Bool
  cause : Nat
  seq : BitVec 16
  eng : Option Eng
  /-- The PC written to the image at the freeze, to see whether the supervisor changed it (R158). -/
  imagePc : W64
  /-- The faulting task. -/
  task : Nat
  /-- The frozen instruction has stop set, so that the task ends once it retires (R71). -/
  stopAfter : Bool
  /-- The last packet's payload (R156), the packet still to be sent (R151), and the last 16 packets (R165). -/
  packet : Vector W64 7
  toSend : Option Msg
  refused : Bool
  /-- The cc from which a refused packet is sent again (R151). -/
  again : Nat := 0
  chain : List Msg
  /-- An accepted action that waits for its step (R117, R163), and the ignored mark (R157). -/
  accepted : Option Act
  ignored : Bool
  queue : List Deferred
  queueOver : Bool
  /-- The model's own: the reports that wait since they found the queue full; each sets the overflow bit once (R159). -/
  told : List Nat := []
  deriving DecidableEq, Repr

/-- A region entry's cached mark at a core (R180, R214): given away (with the entry as it was), or sealed; `at_` is the place in
program order from which on it binds. -/
inductive Mark
  | given (base : Nat) (entry : W64) (at_ : Nat)
  | sealed (base : Nat) (at_ : Nat)
  deriving DecidableEq, Repr

/-- A command of a queued engine (R8, R9): the instruction, what the task engine read for it at issue, and the tags its
entries had then (R234, R237). -/
structure Cmd where
  id : Nat
  ins : Instr
  bank : Bool
  task : Nat
  /-- The channel that activated its task (R152). -/
  ch : Fin 16
  pc : W64
  /-- The task's retired count at issue (R159). -/
  at_ : Nat
  addr : Nat
  a : W128
  b : W128
  mask : PBits
  cp : PBits
  ta : BitVec 4
  tb : BitVec 4
  tc : BitVec 4
  td : BitVec 4
  deriving DecidableEq, Repr

/-- How far an executing command has come. -/
inductive Phase
  | running            -- reads and writes remain
  | waitFlag           -- a CPYL before its flag (R269)
  | waitTrain          -- a gang GMM before its step starts (R309)
  | inStep             -- a gang GMM between a step's start and end
  | waitBuffer         -- a GST behind an earlier GST's rows, or pass 1 behind pass 0's (R317)
  | suspended          -- a WRUN at an illegal code (R291)
  | faulted            -- a fault waits for room in the deferred queue (R159)
  | ending             -- a shuttle command that starts no further part
  deriving DecidableEq, Repr

/-- An executing command: its pending reads and writes, the bytes read and to be written, and its counters. -/
structure Exec where
  cmd : Cmd
  phase : Phase
  /-- cc, or boundaries passed, at the first test or the readiness (R269, R311). -/
  since : Nat
  tests : Nat
  /-- Rows or picks done. -/
  row : Nat
  rows : Nat
  planes : Nat
  desc : List W64
  rd : List Part
  wr : List Part
  got : List PByte
  out : List PByte
  moved : Nat
  token : Option W64
  fault : Option FaultInfo
  deriving DecidableEq, Repr

/-- A queued engine: up to two waiting commands and one executing (R39). -/
structure EngQ where
  waiting : List Cmd
  run : Option Exec
  deriving DecidableEq, Repr

/-- How far an outstanding operation has come. -/
inductive OpSt
  | pending     -- not performed; a store stands in its queue
  | left        -- a store that has left its queue (R43)
  | done        -- performed or applied; a result may wait to be written
  deriving DecidableEq, Repr

/-- An operation of the task engine and memory path that has issued and not ended (R39, R41): loads, stores,
atomics, fences, drains, capability requests and the results of L ops, in program order. -/
structure Op where
  id : Nat
  ins : Instr
  bank : Bool
  task : Nat
  ch : Fin 16
  pc : W64
  at_ : Nat
  st : OpSt
  dst : List Reg
  addr : Nat
  parts : List Part
  buf : List PByte
  b : W128
  c : W128
  /-- The result to write, by register, and its FP events. -/
  res : List W128
  ev : BitVec 5
  /-- Its checks are made when it performs (R76). -/
  late : Bool
  /-- It waits for the quantum collector (R57). -/
  collected : Bool
  /-- A kick or other MMIO access (R194). -/
  mmio : Bool
  deriving DecidableEq, Repr

/-- What a heddle request asks (R339-R346); register contents were read at issue. -/
inductive HAsk
  | pfree
  | popen (port : Nat)
  | pclose (port : Nat)
  | put (desc : W64) (data : List Byte)
  | get (desc : W64)
  | pcancel (desc : W64)
  | pbind (desc : W64)
  deriving DecidableEq, Repr

/-- A request to a heddle unit (R330, R336). -/
structure HReq where
  ctx : Nat
  lc : Nat
  handle : W64
  ask : HAsk
  deriving DecidableEq, Repr

/-- The operations of R382. -/
inductive COp
  | join | leave | cbar | cgath | creds | cxch
  deriving DecidableEq, Repr

/-- A group or collective request (R376-R380): `desc` is (n, SRC, DST), none where the descriptor breaks its layout (R378);
`k` counts the core's requests on the group. -/
structure CReq where
  ctx : Nat
  lc : Nat
  group : Nat
  op : COp
  typ : Typ
  fn : Nat
  ch : BitVec 4
  tag : BitVec 16
  desc : Option (Nat × Nat × Nat)
  deriving DecidableEq, Repr

/-- What a send buffer entry sends (R137, R140, R339, R376). -/
inductive Out
  | msg (dst : Nat) (m : Msg)
  | packet (queue : Nat) (typ : BitVec 8) (len : Nat) (body : List Byte)
  | heddle (r : HReq)
  | coll (r : CReq)
  deriving DecidableEq, Repr

/-- An entry of the send buffer (R146), with its place in program order. -/
structure Sending where
  id : Nat
  out : Out
  deriving DecidableEq, Repr

/-- A leaf translation (R173): the page's virtual base and size, its frame, and x. -/
structure TlbEntry where
  ctx : Nat
  va : Nat
  size : Nat
  pa : Nat
  x : Bool
  deriving DecidableEq, Repr

/-- A root or mid table entry in a die's walk cache (R173): its place is its address range's number, VA / 2^34 or VA / 2^21. -/
structure WalkEntry where
  die : Nat
  ctx : Nat
  mid : Bool
  place : Nat
  word : W64
  deriving DecidableEq, Repr

/-- A mapped stash frame (R187); `old` is its dirty block as it was before the frame's first write, which its write-back
has not reached yet (R188). -/
structure Frame where
  n : Nat
  va : Nat
  pa : Nat
  readOnly : Bool
  filled : Bool
  dirty : Bool
  old : List Byte := []
  deriving DecidableEq, Repr

/-- The loupe and trace registers of a core (R422). -/
structure Loupe where
  armed : Bool
  stopped : Bool
  reason : BitVec 3
  sbank : Bool
  spc : W64
  /-- A stop asked for and not yet taken, a step in progress, and the unchecked first issue after a restart (R424). -/
  stopReq : Bool
  stepping : Bool
  skipCheck : Bool
  /-- LCTL has ended the stop of a core that is frozen too, which leaves both states together (R424). -/
  freed : Bool
  /-- A watched access has issued; its retirement stops the core (R423). -/
  wpHit : Bool
  bp : Vector W64 4
  wp : Vector W64 4
  deleg : BitVec 13
  trc : BitVec 3
  tbase : BitVec 53
  tctx : Nat
  tptr : BitVec 40
  twrap : Bool
  /-- The encoder's records of two words that are still to be written, and the records lost since the last kind-9 record (R426, R427). -/
  tq : List (W64 × W64)
  tlost : Nat
  deriving DecidableEq, Repr

/-- A saved entry of the weft queue (R282): its two words as the image shows them, and the command they were saved from. -/
structure SavedCmd where
  w0 : W64
  w1 : W64
  cmd : Cmd
  deriving DecidableEq, Repr

/-- What travels with a context when a core switches (R120, R121, R163). -/
structure CtxCore where
  ctx : Nat
  lc : Nat
  chans : Vector W64 16
  b0 : Bank
  b1 : Bank
  /-- Bank 0's masked window (R115): 0 closed, n + 1 with n instructions left, 1 until it closes. -/
  mwin : Nat
  /-- Deterministic mode (R118): a selection of the quantum's start, or of a task's end, is still to be made. -/
  sel : Bool
  /-- Deterministic mode: bank 1 had a task to start when that selection fell due (R118). -/
  due : Bool
  rr : BitVec 32
  slots : List Slot
  overflow : List Held
  qret : Nat
  instret : W64
  bounceDrop : W64
  msgDrop : W64
  tiles : Vector Tile 8
  gear : GearSt
  weft : WeftSt
  frz : FreezeSt
  marks : List Mark
  /-- Full-empty bits and bytes of local memory while switched out (R169). -/
  savedFull : List Nat
  savedWeft : List SavedCmd
  /-- The suspended WRUN, while switched out (R298). -/
  savedRun : Option Exec
  /-- A GST frozen in pass 0 and the gear commands behind it, while switched out (R163, R319). -/
  savedGear : EngQ
  /-- The model's own: ended tasks of which something is still under way. -/
  ended : List Ended := []
  deriving DecidableEq, Repr

/-- A physical core. -/
structure Core where
  phys : Nat
  cx : CtxCore
  saved : List CtxCore
  /-- The next place in program order, and the next task serial. -/
  nextId : Nat
  nextTask : Nat
  ops : List Op
  sending : List Sending
  vec : EngQ
  shu : EngQ
  weft : EngQ
  gear : EngQ
  tlb : List TlbEntry
  /-- Lines of the instruction cache, by key, as they were, poison marks too, when they were fetched (R1, R369, R439). -/
  icache : List (Nat × List PByte)
  frames : List Frame
  loupe : Loupe
  /-- LDACC0-63: sum in <39:0>, count in <63:40> (R422). -/
  dacc : Vector W64 64
  fetchDrop : W64
  netWindow : Nat
  deriving DecidableEq, Repr

/-! Values right after reset: the reset values of R98, R102, R112, R121, R149, R282, R302, R422, and zero where the manual
gives none (log 4). -/

def TaskSt.reset : TaskSt :=
  { live := false, serial := 0, ch := 0, retired := 0, windows := [], form := none, noCheck := false, conts := [], producer := 0,
    launch := none, block := [] }

def Bank.reset : Bank :=
  { s := Vector.replicate 64 0, p := Vector.replicate 16 0, v := Vector.replicate 32 0, o := Vector.replicate 16 0,
    lv := 0, vtag := Vector.replicate 32 0, otag := Vector.replicate 16 0, lvtag := 0, vown := 0, vbase := 0, ls := 0,
    pc := 0, fflags := 0, fenable := 0, task := TaskSt.reset }

def Tile.reset : Tile := { rows := Vector.replicate 32 0, tag := 0, poison := 0, events := 0 }

def GearSt.reset : GearSt :=
  { latch := 0, ltag := 0, lpois := false, scale := 0, bias := 0, dbuf := Vector.replicate 32 0, dtop := Vector.replicate 32 0, drain0 := 0,
    drain1 := 0, drain2 := 0, drain3 := 0, steps := 0, dbank := false, dtask := 0, dch := 0, dat := 0, did := 0, dhigh := 0, dwide := false, dparts := [], dsent := [], lost := 0 }

def WeftSt.reset : WeftSt :=
  { latch := Vector.replicate 320 0, lpois := 0, acc := Vector.replicate 128 0, apois := 0, sp := 0, bound := 0, ill := 0,
    prow := 0, ran := 0, part := false, stop := 0, bnd := false, pol := false, suspAddr := 0, suspPick := 0,
    suspBank := false, suspended := false, suspPc := 0 }

def FreezeSt.reset : FreezeSt :=
  { frozen := false, kind := .other, bank := false, cause := 0, seq := 0, eng := none, imagePc := 0, task := 0,
    stopAfter := false, refused := false,
    packet := Vector.replicate 7 0, toSend := none, chain := [], accepted := none, ignored := false, queue := [],
    queueOver := false }

def Loupe.reset : Loupe :=
  { armed := false, stopped := false, reason := 0, sbank := false, spc := 0, stopReq := false, stepping := false,
    skipCheck := false, freed := false, tq := [], tlost := 0, wpHit := false, bp := Vector.replicate 4 0, wp := Vector.replicate 4 0, deleg := 0, trc := 0, tbase := 0,
    tctx := 0, tptr := 0, twrap := false }

def EngQ.reset : EngQ := { waiting := [], run := none }

def CtxCore.reset (ctx lc : Nat) : CtxCore :=
  { ctx := ctx, lc := lc, chans := Vector.replicate 16 0, b0 := Bank.reset, b1 := Bank.reset, mwin := 0, sel := true, due := false,
    rr := 0xFFFFFFFF#32, slots := [], overflow := [], qret := 0, instret := 0, bounceDrop := 0, msgDrop := 0,
    tiles := Vector.replicate 8 Tile.reset, gear := GearSt.reset, weft := WeftSt.reset, frz := FreezeSt.reset,
    marks := [], savedFull := [], savedWeft := [], savedRun := none, savedGear := EngQ.reset }

/-- What stands for no context in a core that runs none; identifiers have 12 bits (R103, R175). -/
def noCtx : Nat := 4096

def Core.reset (phys : Nat) : Core :=
  { phys := phys, cx := CtxCore.reset noCtx 0, saved := [], nextId := 0, nextTask := 1, ops := [], sending := [],
    vec := EngQ.reset, shu := EngQ.reset, weft := EngQ.reset, gear := EngQ.reset, tlb := [], icache := [], frames := [],
    loupe := Loupe.reset, dacc := Vector.replicate 64 0, fetchDrop := 0, netWindow := 32 }

end Sys2Proof.Machine
end

