-- ==== Sys2Proof/Machine/UnitState.lean ====
section
/-! DEFINITION. The state of what the cores share: contexts, regions, fabric, heddle units, collective engines, queues,
specialiser units and the package (R15, R39, R175, R328-R346, R361-R370, R376-R385, R394-R416, R429-R440). -/

namespace Sys2Proof.Machine

/-- Who a message or request comes from, for the order of R50 and R207. -/
inductive Source
  | core (lc : Nat)
  | home (node : Nat)
  | heddle (unit : Nat)
  | coll (cluster : Nat)
  | queue (q : Nat)
  | firmware
  deriving DecidableEq, Repr

/-- A message in the fabric, or kept by its unit for another try (R50, R107). -/
structure Flight where
  ctx : Nat
  dst : Nat
  src : Source
  held : Held
  /-- A WATCH notification reaches no one before the stores of this core older than this place in program order have applied
  (R52). -/
  after : Option (Nat × Nat) := none
  /-- The cc from which the unit that keeps it sends it again (R107). -/
  again : Nat := 0
  deriving DecidableEq, Repr

/-- Region modes (R175). -/
inductive RMode
  | opn | atomic | sealed | held
  deriving DecidableEq, Repr

/-- A region entry (R175): base of its first 64 KiB unit in the context's virtual memory. -/
structure Region where
  ctx : Nat
  base : Nat
  units : Nat
  mode : RMode
  holder : Nat
  deriving DecidableEq, Repr

/-- A mode change waiting at its keeper (R178, R179): the core and operation it came from. -/
inductive KAsk
  | give (d : Nat)
  | seal
  | claim
  | rmode (m : RMode)
  deriving DecidableEq, Repr

structure KReq where
  ctx : Nat
  base : Nat
  lc : Nat
  phys : Nat
  op : Nat
  ask : KAsk
  deriving DecidableEq, Repr

/-- An armed watch (R203). -/
structure Watch where
  ctx : Nat
  lc : Nat
  va : Nat
  key : Nat
  size : Nat
  ch : BitVec 4
  tag : BitVec 16
  deriving DecidableEq, Repr

/-- What a deterministic context's core has handed to the quantum collector (R57): a send buffer's content, or an
operation that waits in the core's list. -/
inductive Ask
  | out (o : Out)
  | op (id : Nat)
  deriving DecidableEq, Repr

structure Collected where
  lc : Nat
  phys : Nat
  id : Nat
  ask : Ask
  deriving DecidableEq, Repr

/-- What a write of a deterministic context's core does at step 2 of the boundary (R58). -/
inductive RedoKind
  | store | engine | discard | empty
  deriving DecidableEq, Repr

/-- A write that a deterministic context's core has made in the quantum: its place in program order, and its runs of bytes, each with
the key of its first byte, which apply in one step. -/
structure Redo where
  ctx : Nat
  lc : Nat
  phys : Nat
  id : Nat
  kind : RedoKind
  runs : List (Nat × List PByte)
  /-- The access's number beside `id`, where a command makes more than one (R432). -/
  row : Nat := 0
  deriving DecidableEq, Repr

/-- A context (R14, R57, R119, R164, R415). -/
structure Ctx where
  id : Nat
  det : Bool
  q : Nat
  dumpFirst : Bool
  root : Nat
  /-- This package's physical cores in logical-core order, and the kept-row slot that the firmware has assigned at each (R171). The grant
  may span linked packages: logical cores of other packages come before and after these (R386). -/
  grant : List Nat
  slots : List Nat
  supv : List Nat
  authority : List Nat
  /-- Queues whose kick right it holds, as die × 1,024 + number. -/
  kicks : List Nat
  dump : Nat
  record : Nat
  packages : W64
  /-- Marked dead, with the cause (R164); dropped launches and write-backs. -/
  dead : Option (BitVec 8)
  /-- Being torn down in dump-first mode, with the cause (R165). -/
  dying : Option (BitVec 8)
  dropLaunch : Nat
  dropWb : Nat
  /-- Quanta counted (R119), all boundaries passed, the collector, and messages to be placed at the boundary (R56). -/
  quanta : Nat
  bounds : Nat
  collected : List Collected
  outbox : List Flight
  before : Nat := 0
  after : Nat := 0
  deriving DecidableEq, Repr

/-- A link of a connector (R323, R329). -/
structure Link where
  kind : Nat
  n : Nat
  fop : Nat
  fp : Bool
  c : W64
  src : Nat
  dst : Nat
  deriving DecidableEq, Repr

/-- A rule's three masks (R327). -/
structure Rule where
  ports : W64
  entries : W64
  exits : W64
  deriving DecidableEq, Repr

/-- A well-formed connector image (R328); `outs` says of each port whether it is an output port. -/
structure Image where
  outs : List Bool
  links : List Link
  nodes : Nat
  rules : List Rule
  deriving DecidableEq, Repr

/-- Data that travels through a connector (R325). -/
structure Datum where
  bytes : List Byte
  len : Nat
  typ : BitVec 4
  deriving DecidableEq, Repr

/-- A pending offer (R330): `age` is its arrival order at the unit. -/
structure Offer where
  age : Nat
  lc : Nat
  tag : BitVec 16
  data : Datum
  deriving DecidableEq, Repr

/-- One port of a connector (R342, R343), with the 16 most recently taken offers and whether a PCANCEL of status 6 was
matched to each (R336). -/
structure Port where
  holder : Option Nat
  ch : BitVec 4
  fifo : List Offer
  taken : List (Nat × BitVec 16 × Bool)
  deriving DecidableEq, Repr

/-- A loaded connector (R333, R340). -/
structure Conn where
  slot : Nat
  ctx : Nat
  image : Image
  lifts : BitVec 32
  ports : List Port
  bufs : List (List Datum)
  deriving DecidableEq, Repr

/-- A heddle unit, 0 to 575 (R15, R340): generations by slot, loaded connectors, and the age of its next offer. -/
structure HUnit where
  n : Nat
  gens : List (Nat × BitVec 16)
  conns : List Conn
  nextAge : Nat
  deriving DecidableEq, Repr

/-- An open collective instance (R380), number `n - base` of its group: `since` is the cc, or the context's quanta, at its opening; `moved` (status and events) and
`bad` (the rank whose access failed and the byte) once its data has moved. While it moves (R384): source bytes that were read ahead, by
key; destination parts written, by rank and address; and events. -/
structure Inst where
  n : Nat
  base : Nat := 0
  members : List Nat
  reqs : List CReq
  since : Nat
  early : List (Nat × PByte) := []
  wrote : List (Nat × Nat) := []
  events : BitVec 5 := 0#5
  moved : Option (BitVec 8 × BitVec 5)
  bad : Option (Nat × Nat)
  deriving DecidableEq, Repr

/-- A group at its keeper (R376, R379): members with the number of instances opened before each joined and its requests
since; instances opened; the open ones; instances timed out with their members; requests that wait (R380). -/
structure Group where
  ctx : Nat
  g : Nat
  members : List (Nat × Nat × Nat)
  opened : Nat
  insts : List Inst
  timedOut : List (Nat × List Nat)
  waiting : List CReq
  /-- Instances of an earlier life of the group that still were open when its last member left: its own numbers count from here. -/
  base : Nat := 0
  deriving DecidableEq, Repr

/-- A packet as fetched (R397, R408): its place, as the index in the ring and in each indirect buffer inside it, and its
bytes. -/
structure Fetched where
  path : List Nat
  bytes : List Byte
  deriving DecidableEq, Repr

/-- A LOOP's body (R406): its first index and length, the passes left after this one, and the copies of the first pass. -/
structure LoopSt where
  lo : Nat
  n : Nat
  left : Nat
  first : Bool
  copies : List Fetched
  deriving DecidableEq, Repr

/-- The ring or an indirect buffer that is being dispatched (R404): its base, the index of the next packet, its packet count
(indirect), the INDIRECT's packet id (0 the ring), packets still to skip, those of them in a LOOP body of no pass, and a
LOOP. -/
structure Buf where
  base : Nat
  idx : Nat
  count : Nat
  packet : Nat
  skip : Nat
  zero : Nat
  loop : Option LoopSt
  deriving DecidableEq, Repr

/-- A packet dispatched and not completed (R399, R403): its buffer (0 the ring, else the enclosing INDIRECT's packet id),
tasks not ended, whether it sends or holds no more, and its signal word. -/
structure Pkt where
  id : Nat
  buf : Nat
  tasks : Nat
  sent : Bool
  signal : Nat
  deriving DecidableEq, Repr

/-- A user queue, die × 1,024 + number (R394, R395). The ring's index counts on past its end. -/
structure Queue where
  n : Nat
  cfg : W64
  ctx : Nat
  notify : Nat
  state : Nat
  tail : Nat
  ring : Buf
  nest : List Buf
  tries : Nat
  resent : BitVec 16
  dropped : BitVec 16
  ignored : Bool
  fault : W64
  ahead : List Fetched
  /-- A read of the fetcher or dispatcher under way (R42): what it is for, a packet's place or its own place and an address, and
  the parts read, each with its offset. -/
  part : Option (List Nat × List (Nat × List Byte))
  /-- A range that stopped or waits in its middle: its packet and the next element (R402). -/
  range : Option (Nat × Nat)
  /-- A launch that waits for a specialiser's walk, with the uniform block read for it (R362). -/
  hold : Option (Nat × List Byte)
  /-- A WAIT that has failed (R405). -/
  waiting : Bool
  /-- The cc at which a failed WAIT is tested, or an invalid packet read, again (R398, R405). -/
  again : Nat
  /-- Kicks that have reached the fetcher while it writes a QSEND's packet (R140). -/
  kicks : List Nat
  nextPkt : Nat
  open_ : List Pkt
  /-- Signals of empty ranges, with the packets they wait for (R402). -/
  deferred : List (List Nat × Nat)
  /-- Signal adds of a deterministic context, for step 5 of the boundary (R413); host kicks that wait for it (R118). -/
  adds : List Nat
  hostKicks : List Nat
  /-- The model's own: the cc of its context's teardown, where its next packet could then reach the dispatcher, and whether every earlier
  packet of the buffer had completed (R412). -/
  late : Option (Nat × Bool) := none
  deriving DecidableEq, Repr

/-- A launch sent and not ended (R401, R403). -/
structure Launch where
  id : Nat
  queue : Nat
  pkt : Nat
  ctx : Nat
  dst : Nat
  pc : W64
  block : List Byte
  msg : Msg
  /-- It has bounced and no core has accepted it since; the cc of the next try (R401). -/
  bounced : Bool
  again : Nat := 0
  ended : Bool
  /-- The core it ran on, and the end of its task's operations in program order, which its report waits for (R403). -/
  phys : Nat
  upTo : Nat
  deriving DecidableEq, Repr

/-- A slot's back-map record (R363). -/
structure BackRec where
  pc : BitVec 48
  iters : List Nat
  counts : Bool
  mater : Bool
  deriving DecidableEq, Repr

/-- An entry of the specialisation cache (R361): its key, its first residual line and their number, or refused. -/
structure SpecEntry where
  ctx : Nat
  det : Bool
  pc : W64
  block : List Byte
  version : BitVec 32
  refused : Bool
  stale : Bool
  line : Nat
  lines : Nat
  regions : List Nat
  units : List Nat
  /-- When it was last hit, in lookups of the die. -/
  hit : Nat
  deriving DecidableEq, Repr

/-- A walk that launches wait for (R362): its key, the version counts when it started, and its outcome: the PC that the
launches start at. -/
structure Walk where
  id : Nat
  ctx : Nat
  det : Bool
  pc : W64
  block : List Byte
  versions : List (Nat × Nat × BitVec 32)
  outcome : Option W64
  deriving DecidableEq, Repr

/-- The specialiser units and cache of a die (R353-R370): entries, counters (R370), back-map by line, lookups made, walks. -/
structure SpecDie where
  entries : List SpecEntry
  counters : Vector (BitVec 48) 7
  backmap : List (Nat × List BackRec)
  lookups : Nat
  walks : List Walk
  nextWalk : Nat
  deriving DecidableEq, Repr

/-- The die's cache without some entries: their back-map records go with them. -/
def SpecDie.without (d : SpecDie) (p : SpecEntry → Bool) : SpecDie :=
  { d with
    entries := d.entries.filter fun e => !p e
    backmap := d.backmap.filter fun x => !d.entries.any fun e => p e && e.line ≤ x.1 && x.1 < e.line + e.lines }

/-- A die's error page (R440). -/
structure ErrPage where
  ecce : W64
  eccue : W64
  poiscons : W64
  elast : W64
  hostDrops : BitVec 32
  /-- The sensors' last values (PWRSTAT). -/
  power : BitVec 12
  temp : BitVec 8
  deriving DecidableEq, Repr

/-- A shootdown in progress (R174): context, first page, pages, cores still to acknowledge. -/
structure Shoot where
  ctx : Nat
  page : Nat
  count : Nat
  deriving DecidableEq, Repr

/-- A signed image: its version, bytes and LMS signature (R435). -/
structure Signed where
  version : BitVec 8
  body : List Byte
  sig : List Byte
  deriving DecidableEq, Repr

/-- What crosses a Rhohimen link (R433): a message, or a collective request. -/
inductive Cross
  | msg (f : Flight)
  | coll (r : CReq)
  deriving DecidableEq, Repr

def Cross.ctx : Cross → Nat
  | .msg f => f.ctx
  | .coll r => r.ctx

/-- An access of the host that has parts to perform (R431): a write or a read, at an address of the aperture. -/
structure HostOp where
  write : Bool
  mmio : Bool
  parts : List Part
  buf : List PByte
  deriving DecidableEq, Repr

/-- The package: driver page, links, boot record, power (R416, R429-R440). -/
structure Package where
  width : Nat
  createRes : W64
  shootArg : W64
  shootDone : W64
  shoots : List Shoot
  ucieUp : Bool
  retrains : BitVec 16
  /-- The model's own: the accesses that have been counted as dropped host stores since the link went down (R432). -/
  lost : List (List Nat) := []
  rhoUp : BitVec 8
  bootrec : W64
  /-- The start skipped step 5, so that the second tier is not trained; it came to the end of step 10, so that the front end runs
  (R436). -/
  tierOff : Bool := false
  front : Bool := false
  /-- Held in reset until power is removed (R437, R438), or, with `retry`, only until the next start (R436). -/
  hold : Bool
  retry : Bool
  throttle : BitVec 4
  /-- What the last load window of a die's level says of the window that follows it, of 4,096 cc each: does the level route two-phase in
  it (R391)? Die, level, and that window's number. Escapements so far (R392). -/
  routing : List (Nat × Nat × Nat × Bool)
  escapements : Nat
  /-- The last host read's answer: its bytes, poisoned, error (R431, R439). -/
  hostReply : Option (List Byte × Bool × Bool)
  hostError : Bool
  /-- The host's accesses under way, oldest first (R431). -/
  hostOps : List HostOp
  /-- What is on its way out over a Rhohimen link, with the link's die (R433). -/
  onLink : List (Nat × Cross)
  /-- The selvedge configuration table, 256 words, and the one in use (R434); its signature; the key store's minimum version and
  secrets; the fused hash of the root public key; the images in the firmware slots (R435). -/
  table : List W64
  tableSig : List Byte
  rootKey : BitVec 256
  minver : BitVec 8
  secrets : List Byte
  fwA : Signed
  fwB : Signed
  deriving DecidableEq, Repr

/-- A QSEND's packet on its way to the packet fetcher (R140). -/
structure QSend where
  ctx : Nat
  lc : Nat
  queue : Nat
  typ : BitVec 8
  len : Nat
  body : List Byte
  /-- The slot and sequence number taken once the fetcher writes it, and the parts written (R42). -/
  slot : Option (Nat × Nat)
  wrote : List Nat
  deriving DecidableEq, Repr

/-- One choice of what moves next (log 1): a core issues, its line fetched anew or, by `hold`, as its instruction cache holds it; a
step of another part; time; a slot is fetched ahead (R161); an entry leaves a die's walk cache (R173); a granule of an instance's data moves (R384);
a line's value reaches its DRAM row (R212); younger accesses go before an LDF of an empty word (R201); the encoder writes a trace record
(R427); a granule of a host access performs (R184); something comes or leaves over a Rhohimen link, or is read or written for an instance
that another package keeps (R433; log 16). -/
inductive Choice
  | issue (phys : Nat)
  | hold (phys : Nat)
  | event (i : Instr)
  | wait (cc : Nat)
  | ahead (phys : Nat) (pc : W64)
  | forget (die n : Nat)
  | move (ctx group inst part : Nat) (read : Bool)
  | writeBack (line : Nat)
  | passLdf (phys id : Nat)
  | trace (phys : Nat)
  | hostPart (n part : Nat)
  | linkIn (x : Cross)
  | linkLaunch (ctx dst : Nat) (pc : W64) (block : List Byte) (m : Msg)
  | linkOut (n : Nat)
  | linkEnd (launch : Nat)
  | linkRead (ctx lc a n : Nat)
  | linkWrite (ctx lc a : Nat) (bs : List PByte)
  deriving DecidableEq, Repr

def SpecDie.reset : SpecDie :=
  { entries := [], counters := Vector.replicate 7 0, backmap := [], lookups := 0, walks := [],
    nextWalk := 1 }

def ErrPage.reset : ErrPage := { ecce := 0, eccue := 0, poiscons := 0, elast := 0, hostDrops := 0, power := 0, temp := 0 }

/-- The boot ROM's default configuration table (R434): width 1; core row 0 boots on die 0 and is front end elsewhere, rows 1
to 47 front end, 48 to 55 supervisor, 56 to 63 error counting, in core column 72; the other positions hold 0. -/
def defaultRole (k : Nat) : Nat :=
  if k / 64 % 4 != 0 then 0
  else if k = 0 then 3
  else if k % 64 < 48 then 1
  else if k % 64 < 56 then 2
  else 4
def defaultTable : List W64 :=
  (List.range 256).map fun i =>
    if i = 0 then 0x15E#64
    else if 8 ≤ i && i < 136 then
      BitVec.ofNat 64 ((List.range 16).foldl (fun x j => x + defaultRole (16 * (i - 8) + j) * 2 ^ (4 * j)) 0)
    else 0

def Package.reset : Package :=
  { width := 1, createRes := 0, shootArg := 0, shootDone := 0, shoots := [], ucieUp := false, retrains := 0, rhoUp := 0,
    bootrec := 0, hold := false, retry := false, throttle := 0, routing := [], escapements := 0, hostReply := none, hostError := false, hostOps := [], onLink := [],
    table := defaultTable, tableSig := [], rootKey := Config.rootKeyHash, minver := 0, secrets := [],
    fwA := { version := 0, body := [], sig := [] }, fwB := { version := 0, body := [], sig := [] } }

end Sys2Proof.Machine
end

