-- ==== Sys2Proof/Machine/State.lean ====
section
/-! DEFINITION. The whole machine: its state, the reasons it can stop, and the state right after reset. -/

namespace Sys2Proof.Machine

/-- Why a step can stop. -/
inductive Fault
  /-- Raised by `step` alone, when the agenda names a physical core that the package does not have (R1). Safe: no hardware
  step is lost by it. -/
  | noSuchCore (phys : Nat)
  deriving DecidableEq, Repr

/-- An instruction without a meaning. -/
inductive Refusal
  /-- Raised by `exec` for an instruction that the model does not give a meaning yet. Safe. -/
  | notModelled (mnemonic : String)
  deriving DecidableEq, Repr

/-- The state of the machine. `mem` is all memory in one list: first and second tier by physical address (R19), local memory
of core c at its peer window (R18), host memory at its place in the host window (R430), residual lines at their window
(R363). `full`, `poison` and `shadow` list words (key / 8), granules (key / 16) and start-of-quantum bytes (R58). -/
structure State where
  mem : List Host.Cell
  /-- Lines (key / 128) of device memory that have been written since their DRAM rows were, each with the value that its row
  still holds (R212, R166). -/
  past : List (Nat × List Byte)
  full : List Nat
  poison : List Nat
  shadow : List Host.Cell
  /-- Full-empty bits at the start of the quantum, of the words whose bit a deterministic context's owner has changed (R58). -/
  fullShadow : List (Nat × Bool)
  /-- Writes of deterministic contexts in their current quanta (R58). -/
  redo : List Redo
  cores : List Core
  ctxs : List Ctx
  /-- The walk caches of the dies (R173). -/
  walkCache : List WalkEntry
  regions : List Region
  keepers : List KReq
  watches : List Watch
  flights : List Flight
  /-- Messages that their unit keeps and sends again (R107). -/
  kept : List Flight
  hreqs : List HReq
  creqs : List CReq
  qsends : List QSend
  hunits : List HUnit
  groups : List Group
  queues : List Queue
  launches : List Launch
  nextLaunch : Nat
  spec : Vector SpecDie 8
  /-- Version counts of code units, by context and VA / 64 KiB (R361, R369); uniform masks by context and handler. -/
  versions : List (Nat × Nat × BitVec 32)
  masks : List (Nat × W64 × List Bool)
  errs : Vector ErrPage 8
  pkg : Package
  /-- cc since package reset; free-mode sys.tick (R119). -/
  cc : Nat
  tick : W64
  /-- The model's own fields (log 1, log 5): the core that issues in the canonical order, what moves next, and how many free
  values have been drawn. -/
  cur : Nat
  agenda : List Choice
  fresh : Nat
  deriving DecidableEq, Repr

/-- The machine right after reset: the reset values of the manual, nothing running (log 3), memory with nothing listed. -/
def State.reset : State :=
  { mem := [], past := [], full := [], poison := [], shadow := [], fullShadow := [], redo := [], cores := [], ctxs := [], walkCache := [], regions := [], keepers := [],
    watches := [], flights := [], kept := [], hreqs := [], creqs := [], qsends := [], hunits := [], groups := [], queues := [],
    launches := [], nextLaunch := 1, spec := Vector.replicate 8 SpecDie.reset, versions := [], masks := [],
    errs := Vector.replicate 8 ErrPage.reset, pkg := Package.reset, cc := 0, tick := 0, cur := 0, agenda := [], fresh := 0 }

/-- What a meaning answers. -/
abbrev Res := Host.Outcome State Fault Refusal

end Sys2Proof.Machine
end

