-- ==== Sys2Proof/Machine/Access.lean ====
section
/-! DEFINITION. Reading and changing the parts of the state by name: cores, banks, contexts, units. -/

namespace Sys2Proof.Machine

def State.core (s : State) (p : Nat) : Core := (getBy Core.phys s.cores p).getD (Core.reset p)
def State.setCore (s : State) (c : Core) : State := { s with cores := putBy Core.phys s.cores c }
def State.modCore (s : State) (p : Nat) (g : Core → Core) : State := s.setCore (g (s.core p))

/-- The core whose instruction executes. -/
def State.here (s : State) : Core := s.core s.cur

/-- Bank 1 is the running bank while it runs a task (R110, R113). -/
def Core.rb (c : Core) : Bool := c.cx.b1.task.live
def Core.bankOf (c : Core) (hi : Bool) : Bank := if hi then c.cx.b1 else c.cx.b0
def Core.setBankOf (c : Core) (hi : Bool) (b : Bank) : Core :=
  if hi then { c with cx := { c.cx with b1 := b } } else { c with cx := { c.cx with b0 := b } }
def Core.bank (c : Core) : Bank := c.bankOf c.rb

/-- The running bank of the executing core. -/
def State.bank (s : State) : Bank := s.here.bank
def State.setBank (s : State) (b : Bank) : State := s.setCore (s.here.setBankOf s.here.rb b)
def State.modBank (s : State) (g : Bank → Bank) : State := s.setBank (g s.bank)

def State.ctx? (s : State) (id : Nat) : Option Ctx := getBy Ctx.id s.ctxs id
def State.setCtx (s : State) (x : Ctx) : State := { s with ctxs := putBy Ctx.id s.ctxs x }
def State.modCtx (s : State) (id : Nat) (g : Ctx → Ctx) : State :=
  match s.ctx? id with
  | some x => s.setCtx (g x)
  | none => s

/-- Does the context run in deterministic mode (R117)? -/
def State.det (s : State) (id : Nat) : Bool := ((s.ctx? id).map Ctx.det).getD false
def State.dead (s : State) (id : Nat) : Bool := ((s.ctx? id).map fun x => x.dead.isSome).getD false
/-- A context whose cores run: it exists, and no teardown of it has begun (R164, R165). -/
def State.alive (s : State) (id : Nat) : Bool := ((s.ctx? id).map fun x => x.dead.isNone && x.dying.isNone).getD false

/-- Cores granted to the context (nc). -/
def Ctx.nc (x : Ctx) : Nat := x.before + x.grant.length + x.after
def State.nc (s : State) (id : Nat) : Nat := ((s.ctx? id).map Ctx.nc).getD 0

def indexOf : List Nat → Nat → Option Nat
  | [], _ => none
  | h :: t, x => if h = x then some 0 else (indexOf t x).map (· + 1)

/-- Logical core of a physical core, and the physical core of a logical core of this package (R2, R386). -/
def Ctx.lcOf (x : Ctx) (phys : Nat) : Option Nat := (indexOf x.grant phys).map (x.before + ·)
def Ctx.physAt (x : Ctx) (lc : Nat) : Option Nat := if lc < x.before then none else x.grant[lc - x.before]?
def State.physOf (s : State) (id lc : Nat) : Option Nat := (s.ctx? id).bind fun x => x.physAt lc

/-- A logical core of another package (R386). -/
def State.remote (s : State) (id lc : Nat) : Bool := lc < s.nc id && (s.physOf id lc).isNone

def State.hunit (s : State) (n : Nat) : HUnit :=
  (getBy HUnit.n s.hunits n).getD { n := n, gens := [], conns := [], nextAge := 0 }
def State.setHunit (s : State) (u : HUnit) : State := { s with hunits := putBy HUnit.n s.hunits u }

def State.queue? (s : State) (n : Nat) : Option Queue := getBy Queue.n s.queues n
def Buf.reset : Buf := { base := 0, idx := 0, count := 0, packet := 0, skip := 0, zero := 0, loop := none }
def Queue.reset (n : Nat) : Queue :=
  { n := n, cfg := 0, ctx := 0, notify := 0, state := 0, tail := 0, ring := Buf.reset, nest := [], tries := 0, resent := 0,
    dropped := 0, ignored := false, fault := 0, ahead := [], part := none, range := none, hold := none, waiting := false, again := 0, kicks := [], nextPkt := 1,
    open_ := [], deferred := [], adds := [], hostKicks := [] }
def State.queue (s : State) (n : Nat) : Queue := (s.queue? n).getD (Queue.reset n)
def State.setQueue (s : State) (q : Queue) : State := { s with queues := putBy Queue.n s.queues q }

/-- Registers of a bank (R64): s0 reads zero and discards writes, p0 reads all ones and discards writes. -/
def Bank.rs (b : Bank) (n : Fin 64) : W64 := if n = 0 then 0 else b.s[n]
def Bank.ws (b : Bank) (n : Fin 64) (x : W64) : Bank := if n = 0 then b else { b with s := b.s.set n x }
def Bank.rp (b : Bank) (n : Fin 16) : PBits := if n = 0 then BitVec.allOnes 128 else b.p[n]
def Bank.wp (b : Bank) (n : Fin 16) (x : PBits) : Bank := if n = 0 then b else { b with p := b.p.set n x }
def Bank.wv (b : Bank) (n : Fin 32) (x : VBits) : Bank := { b with v := b.v.set n x }
def Bank.wo (b : Bank) (n : Fin 16) (x : VBits) : Bank := { b with o := b.o.set n x }

/-- Write a scalar destination, s0 to s63 or ls, and nothing else. -/
def Bank.wd (b : Bank) (d : Operand) (x : W64) : Bank :=
  match d with
  | .s n => b.ws n x
  | .ls => { b with ls := x }
  | _ => b

/-- The register an operand names as a pending destination. -/
def regOf : Operand → List Reg
  | .s n => if n = 0 then [] else [.s n]
  | .p n => if n = 0 then [] else [.p n]
  | .v n => [.v n]
  | .o n => [.o n]
  | _ => []

/-- Registers of s from n on, n to n + k − 1, past s63 none. -/
def sRange (n k : Nat) : List Reg :=
  (List.range k).filterMap fun i => if h : n + i < 64 then (if n + i = 0 then none else some (.s ⟨n + i, h⟩)) else none

/-- Read s(n + i) of a bank, zero past s63 (R137). -/
def Bank.rsAt (b : Bank) (n : Nat) : W64 := if h : n < 64 then b.rs ⟨n, h⟩ else 0

/-- Commands of a queue, executing one first. -/
def EngQ.cmds (q : EngQ) : List Cmd :=
  (match q.run with
   | some e => [e.cmd]
   | none => []) ++ q.waiting

def Core.eng (c : Core) : Eng → EngQ
  | .vec => c.vec | .shu => c.shu | .weft => c.weft | .gear => c.gear
def Core.setEng (c : Core) (e : Eng) (q : EngQ) : Core :=
  match e with
  | .vec => { c with vec := q } | .shu => { c with shu := q } | .weft => { c with weft := q } | .gear => { c with gear := q }
def engs : List Eng := [.vec, .shu, .weft, .gear]

/-- The registers an engine command will write: a vector command's scalar or predicate, a token, a WSTAT or GRD
destination (R236, R264, R295, R314). Vector registers are read and written in queue order, so none is pending. -/
def Cmd.dst (k : Cmd) : List Reg :=
  match k.ins with
  | .vget f | .vred f | .grd f | .wstat f | .cpy f | .cpyg f | .cpyx f | .cpyl f | .cpyset f => regOf f.dst
  | .vcmp f => regOf f.dst
  | _ => []

/-- Registers of a bank whose results have not arrived (R74, R236, R264), of its running task (log 10). -/
def Core.pending (c : Core) (hi : Bool) : List Reg :=
  let t := (c.bankOf hi).task.serial
  (c.ops.filter fun o => o.bank == hi && o.task == t).flatMap Op.dst
    ++ engs.flatMap fun e => ((c.eng e).cmds.filter fun k => k.bank == hi && k.task == t).flatMap Cmd.dst

/-- A free value's next number (log 5). -/
def State.drawn (s : State) : State := { s with fresh := s.fresh + 1 }

/-- Add one to a saturating 64-bit counter. -/
def satInc (w : W64) : W64 := if w = BitVec.allOnes 64 then w else w + 1

/-! Selection (R102, R112). -/

def chanState (e : W64) : Nat := bits e 62 2
def chanPrio (e : W64) : Nat := bits e 59 3

def CtxCore.selectable (x : CtxCore) (n : Nat) : Bool :=
  chanState (x.chans.getD n 0) == 1 && x.slots.any fun t => t.held.msg.ch.toNat == n

/-- The channel that a priority serves next: the first selectable one after the one it served last. -/
def CtxCore.nextAt (x : CtxCore) (p : Nat) : Option Nat :=
  let last := x.rr.toNat / 2 ^ (4 * p) % 16
  ((List.range 16).map fun i => (last + 1 + i) % 16).find? fun n =>
    chanPrio (x.chans.getD n 0) == p && x.selectable n

/-- The channel and priority that a bank starts next. -/
def CtxCore.choose (x : CtxCore) (hi : Bool) : Option (Nat × Nat) :=
  (if hi then [7, 6, 5, 4] else [3, 2, 1, 0]).findSome? fun p => (x.nextAt p).map fun n => (n, p)

/-! Geometry (R2, R12, R13, R19). -/

def State.width (s : State) : Nat := s.pkg.width

/-- Compute cores of the package: N_c. -/
def ncores (w : Nat) : Nat := 8 * 64 * (73 - w)

/-- Physical core index of a compute-core index with selvedge width w (R2, R12, R13). -/
def physOfCompute (w h : Nat) : Nat :=
  let perDie := 64 * (73 - w)
  let d := h / perDie
  let r := h % perDie
  let y := r / (8 * (73 - w))
  let r := r % (8 * (73 - w))
  let (x, t, p) :=
    if r < 512 then (r / 64, r % 64 / 8, r % 8) else (8, (r - 512) / (9 - w), (r - 512) % (9 - w))
  d * 4672 + (8 * y + t) * 73 + 8 * x + p

/-- Die, core row and core column of a physical core. -/
def dieOf (phys : Nat) : Nat := phys / 4672
def rowOf (phys : Nat) : Nat := phys % 4672 / 73
def colOf (phys : Nat) : Nat := phys % 4672 % 73
/-- Is it a compute core with selvedge width w? -/
def isCompute (w phys : Nat) : Bool := phys < 37376 && phys % 4672 % 73 < 73 - w

/-- The core's cluster: die × 72 + cluster-row × 9 + cluster-column, also the number of its heddle unit (R340). -/
def clusterOf (phys : Nat) : Nat := dieOf phys * 72 + rowOf phys / 8 * 9 + phys % 4672 % 73 / 8
/-- Train (die, core row, cluster-column) as one number, and the position in it (R12). -/
def trainOf (phys : Nat) : Nat := clusterOf phys * 8 + rowOf phys % 8
def posOf (phys : Nat) : Nat := phys % 4672 % 73 % 8
/-- The eight physical cores of a train, by position. -/
def trainCores (t : Nat) : List Nat :=
  let cl := t / 8
  let d := cl / 72
  let y := cl % 72 / 9
  let x := cl % 9
  (List.range 8).map fun p => d * 4672 + (8 * y + t % 8) * 73 + 8 * x + p

/-- Compute-core order (R2) as a sort key of a physical core. -/
def computeKey (phys : Nat) : Nat :=
  ((dieOf phys * 8 + rowOf phys / 8) * 16 + phys % 4672 % 73 / 8) * 64 + rowOf phys % 8 * 8 + posOf phys

/-- Home core of a physical address (R19). -/
def homePhys (w pa : Nat) : Nat := physOfCompute w (pa / 4096 % 2 ^ 27 % ncores w)

/-- Keys of local memory, and the core and offset of a peer-window address (R18). -/
def peerBase : Nat := 0xFE0000000000
def localKey (phys off : Nat) : Nat := peerBase + phys * 0x20000 + off
def ownBase : Nat := 0xFF0000000000
def mmioBase : Nat := 0xFFF000000000
def hostBase : Nat := 0xFFFC00000000
def isLocalKey (k : Nat) : Bool := peerBase ≤ k && k < 0xFE0124000000
def localOwner (k : Nat) : Nat := (k - peerBase) / 0x20000

end Sys2Proof.Machine
end

