-- ==== Sys2Proof/Machine/Check.lean ====
section
/-! DEFINITION. Addresses: the generic map, translation, region modes and the checks of every access (R17-R19, R167,
R168, R172-R182, R184, R187, R192-R194). -/

namespace Sys2Proof.Machine

/-- Access kinds (R153). -/
inductive AK
  | load | store | atomic | fetch | engRead | engWrite
  | watch   -- WATCH's check of its block, reported as a load (R203)
  deriving DecidableEq, Repr

def AK.code : AK → Nat
  | .load => 0 | .store => 1 | .atomic => 2 | .fetch => 3 | .engRead => 4 | .engWrite => 5 | .watch => 0

/-- The access kind word of R153. -/
def akWord (k : AK) (size : Nat) : Nat := k.code + 256 * Nat.log2 size

/-- The ranges of R18. -/
inductive Rng
  | translated | peer | own | mmio | host | unassigned
  deriving DecidableEq, Repr

def rangeOf (a : Nat) : Rng :=
  if a < 0x800000000000 then .translated
  else if a < peerBase then .unassigned
  else if a < 0xFE0124000000 then .peer
  else if a < ownBase then .unassigned
  else if a < 0xFF0000020000 then .own
  else if a < mmioBase then .unassigned
  else if a < hostBase then .mmio
  else if a < 0x1000000000000 then .host
  else .unassigned

def addrFault (a : Nat) (k : AK) (size : Nat) : FaultInfo :=
  { cause := 7, s5 := BitVec.ofNat 64 a, s6 := BitVec.ofNat 64 (akWord k size), s7 := 0 }
def accessFault (a : Nat) (k : AK) (size : Nat) : FaultInfo :=
  { cause := 8, s5 := BitVec.ofNat 64 a, s6 := BitVec.ofNat 64 (akWord k size), s7 := 0 }
def transFault (a : Nat) (k : AK) (size : Nat) : FaultInfo :=
  { cause := 9, s5 := BitVec.ofNat 64 a, s6 := BitVec.ofNat 64 (akWord k size), s7 := 0 }

/-! Translation (R172, R173). -/

/-- Does a frame of a size lie in memory that contexts see (R171, R172)? A second tier skipped at boot gives none (R436). -/
def frameOk (s : State) (pa size : Nat) : Bool :=
  pa + size ≤ ncores s.width * 0x700000
    || (0x10000000000 ≤ pa && pa + size ≤ 0x20000000000 && !s.pkg.tierOff)

/-- A table entry as read: poisoned bytes read as zero (R439). -/
def readEntry (s : State) (pa : Nat) : W64 :=
  if anyIn s.poison 16 pa 8 then 0 else BitVec.ofNat 64 (readWord s.mem pa 8)

/-- Is the entry valid with every reserved bit zero? -/
def entryOk (e : W64) : Bool := bit e 0 && bits e 42 22 == 0 && bits e 3 5 == 0

/-- The walk from a mid entry on. -/
def walkMid (s : State) (va : Nat) (e1 : W64) : Option (Nat × Nat × Nat × Bool) :=
  let a1 := bits e1 8 34 * 256
  if !entryOk e1 then none
  else if bit e1 1 then
    if bits e1 8 13 != 0 || !frameOk s a1 0x200000 then none
    else some (va / 2 ^ 21 * 2 ^ 21, 0x200000, a1, bit e1 2)
  else
    let e2 := readEntry s (a1 + 8 * (va / 2 ^ 16 % 32))
    let a2 := bits e2 8 34 * 256
    if !entryOk e2 || !bit e2 1 || bits e2 8 8 != 0 || !frameOk s a2 0x10000 then none
    else some (va / 2 ^ 16 * 2 ^ 16, 0x10000, a2, bit e2 2)

/-- The root entry of an address, and the mid entry that a root entry leads to. -/
def rootEntry (s : State) (root va : Nat) : W64 := readEntry s (root + 8 * (va / 2 ^ 34 % 8192))
def rootOk (e0 : W64) : Bool := entryOk e0 && !bit e0 1 && bits e0 8 8 == 0
def midEntry (s : State) (e0 : W64) (va : Nat) : W64 := readEntry s (bits e0 8 34 * 256 + 8 * (va / 2 ^ 21 % 8192))

/-- The page table walk (R172): the page's virtual base and size, its frame, and x. -/
def walk (s : State) (root va : Nat) : Option (Nat × Nat × Nat × Bool) :=
  let e0 := rootEntry s root va
  if rootOk e0 then walkMid s va (midEntry s e0 va) else none

/-- A table entry that the walk cache of a core's die holds (R173). -/
def heldEntry (s : State) (c : Core) (mid : Bool) (va : Nat) : Option W64 :=
  (s.walkCache.find? fun e => e.die == dieOf c.phys && e.ctx == c.cx.ctx && e.mid == mid
    && e.place == va / (if mid then 2 ^ 21 else 2 ^ 34)).map WalkEntry.word

/-- A core's walk, through the entries that its die's cache holds. -/
def coreWalk (s : State) (c : Core) (root va : Nat) : Option (Nat × Nat × Nat × Bool) :=
  match heldEntry s c true va with
  | some e1 => walkMid s va e1
  | none => match heldEntry s c false va with
    | some e0 => walkMid s va (midEntry s e0 va)
    | none => walk s root va

/-- A TLB entry for the address, if the core holds one (R173). -/
def tlbHit (c : Core) (ctx va : Nat) : Option TlbEntry :=
  c.tlb.find? fun e => e.ctx == ctx && e.va ≤ va && va < e.va + e.size

/-- Physical address and x of a translated address, through the core's TLB or by a walk. -/
def translate (s : State) (c : Core) (va : Nat) : Option (Nat × Bool) :=
  match tlbHit c c.cx.ctx va with
  | some e => some (e.pa + (va - e.va), e.x)
  | none =>
    match s.ctx? c.cx.ctx with
    | none => none
    | some x => (coreWalk s c x.root va).map fun (b, _, pa, x) => (pa + (va - b), x)

/-! Regions (R175-R182). -/

def RMode.code : RMode → Nat
  | .opn => 0 | .atomic => 1 | .sealed => 2 | .held => 3

/-- The region entry word (R175). -/
def Region.entry (r : Region) : W64 :=
  BitVec.ofNat 64 (r.mode.code * 2 ^ 62 + r.ctx * 2 ^ 48
    + (if r.mode = .held then r.holder else 0) * 2 ^ 32 + r.units * 2 ^ 16)

def regionAt (s : State) (ctx va : Nat) : Option Region :=
  s.regions.find? fun r => r.ctx == ctx && r.base ≤ va && va < r.base + r.units * 0x10000

def givenMark (c : Core) (base : Nat) : Option W64 :=
  c.cx.marks.findSome? fun m => match m with
    | .given b e _ => if b = base then some e else none
    | .sealed _ _ => none

def sealedMark (c : Core) (base : Nat) : Bool :=
  c.cx.marks.any fun m => match m with
    | .sealed b _ => b == base
    | .given _ _ _ => false

/-- The place in program order from which on a mark binds. -/
def Mark.place : Mark → Nat
  | .given _ _ n | .sealed _ n => n

/-- The core as an access at a place in program order is checked: without the marks of younger CAPGIVEs and SEALs (R54, R180,
R181). -/
def Core.asOf (c : Core) (id : Nat) : Core := { c with cx := { c.cx with marks := c.cx.marks.filter fun m => m.place ≤ id } }

/-- The cause words of R182. -/
def raceFault (a : Nat) (kind : Nat) (reason : Nat) (r : Region) : FaultInfo :=
  { cause := 10, s5 := BitVec.ofNat 64 a, s6 := BitVec.ofNat 64 (r.holder * 2 ^ 16 + reason * 2 ^ 12 + kind), s7 := r.entry }
def capFault (a : Nat) (kind : Nat) (reason : Nat) (entry : W64) : FaultInfo :=
  { cause := 11, s5 := BitVec.ofNat 64 a, s6 := BitVec.ofNat 64 (reason * 2 ^ 12 + kind), s7 := entry }

/-- What an access asks of a region: a load, a store, an atomic, a WATCH's check (R203), or a STMAP (R177). -/
inductive Use
  | load | store | atomic | watch | stmap
  deriving DecidableEq, Repr

/-- R177 for one unit's region, with the core's own marks (R180, R214). Where no region holds the unit there is no entry for s7, which is
0 then (log 94). -/
def regionCheck (s : State) (c : Core) (va : Nat) (u : Use) (kind : Nat) : Option FaultInfo :=
  match regionAt s c.cx.ctx va with
  | none => some (capFault va kind 3 0)
  | some r =>
    match givenMark c r.base with
    | some e => some { raceFault va kind 8 r with
        s6 := BitVec.ofNat 64 (bits e 32 16 * 2 ^ 16 + 8 * 2 ^ 12 + kind), s7 := e }
    | none =>
      if sealedMark c r.base && r.mode != .sealed then
        (match u with
         | .load | .watch | .stmap => none
         | _ => some (capFault va kind 1 { r with mode := .sealed, holder := 0 }.entry))
      else match r.mode with
        | .held => if r.holder = c.cx.lc then none else some (raceFault va kind 0 r)
        | .sealed => (match u with
          | .load | .watch | .stmap => none
          | _ => some (capFault va kind 1 r.entry))
        | .atomic => (match u with
          | .atomic | .watch => none
          | _ => some (capFault va kind 2 r.entry))
        | .opn => none

def AK.use : AK → Use
  | .load | .engRead | .fetch => .load
  | .store | .engWrite => .store
  | .atomic => .atomic
  | .watch => .watch

/-! The parts of an access (R184) and their checks (R193). -/

/-- Addresses of the own alias. -/
def ownOffset (a : Nat) : Option Nat := if rangeOf a = .own then some (a - ownBase) else none

/-- A part of local memory, the core's own or a peer's; a mapped frame is reached through the own alias (R187, R190). -/
def Part.isLocal (p : Part) : Bool := isLocalKey p.key || (ownOffset p.va).isSome

/-- A part of the core's own local memory. -/
def Part.isOwn (phys : Nat) (p : Part) : Bool := (isLocalKey p.key && localOwner p.key == phys) || (ownOffset p.va).isSome

/-- Cut a run of bytes into one part per 16-byte granule, keys not yet known. -/
def partsFrom (a off : Nat) : Nat → Nat → List Part
  | 0, _ => []
  | _, 0 => []
  | fuel + 1, len =>
    let n := min len (16 - a % 16)
    { va := a, key := 0, len := n, off := off, done := false } :: partsFrom (a + n) (off + n) fuel (len - n)

def partsOf (a off len : Nat) : List Part := partsFrom a off (len / 16 + 2) len

/-- A frame of the core mapped at an own-alias offset (R187). -/
def frameAt (c : Core) (off : Nat) : Option Frame :=
  if off < 0x10000 then c.frames.find? fun f => f.n == off / 256 else none

/-- Check 2 of R193, with the grant check of a peer window (R18). The address is taken modulo 2^64. -/
def checkRange (s : State) (c : Core) (k : AK) (size a len : Nat) : Option FaultInfo :=
  let bad (x : Nat) := some (addrFault x k size)
  if 2 ^ 48 ≤ a then bad a
  else match rangeOf a with
    | .unassigned | .mmio => bad a
    | .peer =>
      if rangeOf (a + len - 1) != .peer then bad 0xFE0124000000
      else
        let p := (a - peerBase) / 0x20000
        let ok := ((s.ctx? c.cx.ctx).map fun x => x.grant.contains p).getD false
        if ok && isCompute s.width p then none else some (accessFault a k size)
    | r => if rangeOf (a + len - 1) == r then none else
        bad (match r with
          | .translated => 0x800000000000
          | .own => 0xFF0000020000
          | _ => 0x1000000000000)

/-- Check 3: the key of a part, through a mapped frame where there is one. -/
def keyOf (s : State) (c : Core) (k : AK) (size a : Nat) : Except FaultInfo Nat :=
  match rangeOf a with
  | .translated => match translate s c a with
    | some (pa, _) => .ok pa
    | none => .error (transFault a k size)
  | .own => match frameAt c (a - ownBase) with
    | some f => .ok (f.pa + (a - ownBase) % 256)
    | none => .ok (localKey c.phys (a - ownBase))
  | _ => .ok a

/-- The host die's check (R430), and the link's state (R432): stores to a host that is not there are dropped later. -/
def hostCheck (s : State) (c : Core) (k : AK) (size a : Nat) : Option FaultInfo :=
  if !s.pkg.ucieUp && k != .store && k != .engWrite then some (accessFault a k size)
  else if s.pkg.ucieUp && Config.hostRefuses c.cx.ctx (a - hostBase) then some (accessFault a k size)
  else none

/-- Check 4: R177 for translated memory and frames; the host die's check for the host window. -/
def checkRegion (s : State) (c : Core) (k : AK) (size a : Nat) : Option FaultInfo :=
  match rangeOf a with
  | .translated => regionCheck s c a k.use (akWord k size)
  | .own => match frameAt c (a - ownBase) with
    | some f => (regionCheck s c (f.va + (a - ownBase) % 256) k.use (akWord k size)).map fun i =>
        { i with s5 := BitVec.ofNat 64 a }
    | none => none
  | .host => hostCheck s c k size a
  | _ => none

/-- Check 5 (R104, R167): the inbox, and another core's mapped frames. -/
def checkLocal (s : State) (k : AK) (size a : Nat) : Option FaultInfo :=
  match rangeOf a with
  | .own => if 0x1F000 ≤ a - ownBase then some (accessFault a k size) else none
  | .peer =>
    let off := (a - peerBase) % 0x20000
    if 0x1F000 ≤ off || (frameAt (s.core ((a - peerBase) / 0x20000)) off).isSome then some (accessFault a k size)
    else none
  | _ => none

/-- Give every part its key, or the first that does not translate. -/
def keyParts (s : State) (c : Core) (k : AK) (size : Nat) : List Part → Except FaultInfo (List Part)
  | [] => .ok []
  | p :: ps => match keyOf s c k size p.va with
    | .error e => .error e
    | .ok key => match keyParts s c k size ps with
      | .error e => .error e
      | .ok qs => .ok ({ p with key := key } :: qs)

/-- The checks of R193 on all parts, one check after the other (log 8). -/
def checkParts (s : State) (c : Core) (k : AK) (size : Nat) (ps : List Part) : Except FaultInfo (List Part) :=
  match ps.findSome? fun p => checkRange s c k size p.va p.len with
  | some e => .error e
  | none => match keyParts s c k size ps with
    | .error e => .error e
    | .ok qs => match qs.findSome? fun p => checkRegion s c k size p.va with
      | some e => .error e
      | none => match qs.findSome? fun p => checkLocal s k size p.va with
        | some e => .error e
        | none => .ok qs

/-- One access of len bytes at a, its bytes at place off of the buffer. -/
def access (s : State) (c : Core) (k : AK) (a len off : Nat) : Except FaultInfo (List Part) :=
  checkParts s c k len (partsOf a off len)

/-! Targets (R17, R144). -/

/-- The logical core that an address names; `none` inside for no target. -/
def targetOf (s : State) (c : Core) (a : Nat) : Except FaultInfo (Option Nat) :=
  if 2 ^ 48 ≤ a then .error (addrFault a .load 1) else
  match rangeOf a with
  | .unassigned => .error (addrFault a .load 1)
  | .translated => match translate s c a with
    | none => .error (transFault a .load 1)
    | some (pa, _) =>
      let h := pa / 4096 % 2 ^ 27 % ncores s.width
      match s.ctx? c.cx.ctx with
      | none => .ok none
      | some x => match x.lcOf (physOfCompute s.width h) with
        | some l => .ok (some l)
        | none => .ok (some (h % x.nc))
  | .peer => match s.ctx? c.cx.ctx with
    | none => .ok none
    | some x => .ok (x.lcOf ((a - peerBase) / 0x20000))
  | .own => .ok (some c.cx.lc)
  | .mmio | .host => .ok none

end Sys2Proof.Machine
end

