-- ==== Sys2Proof/Machine/MemOps.lean ====
section
/-! DEFINITION. What one part of an access does to memory: bytes, poison, full-empty bits, watches, start-of-quantum values
(R42, R45, R58, R183, R186, R204, R439). -/

namespace Sys2Proof.Machine

/-! Poison (R439). -/

def poisoned (s : State) (key : Nat) : Bool := nmem s.poison (key / 16)

/-- Die whose error page counts events at a key: the die of local memory or of the line's home; the host's die is 0. -/
def dieOfKey (s : State) (key : Nat) : Nat :=
  if isLocalKey key then dieOf (localOwner key) % 8
  else if key < 0x20000000000 then dieOf (homePhys s.width key) % 8 else 0

def State.modErr (s : State) (d : Nat) (g : ErrPage → ErrPage) : State :=
  if h : d < 8 then { s with errs := s.errs.set d (g s.errs[d]) } else s

def countPois (s : State) (key n : Nat) : State :=
  if n = 0 then s else
  s.modErr (dieOfKey s key) fun e => { e with poiscons := BitVec.ofNat 64 (min (e.poiscons.toNat + n) (2 ^ 64 - 1)) }

/-! Reading. -/

/-- The byte of the later of two writes of one core, each with its place in program order. -/
def laterByte (best : Option (Nat × PByte)) (id : Nat) (b : PByte) : Option (Nat × PByte) :=
  match best with
  | some (n, x) => if id < n then some (n, x) else some (id, b)
  | none => some (id, b)

/-- The byte that runs of a write give a key. -/
def runByte (runs : List (Nat × List PByte)) (key : Nat) : Option PByte :=
  runs.findSome? fun (k, bs) => if k ≤ key then bs[key - k]? else none

/-- A write of the quantum that an access of its core at place `id` in program order follows (R58): no younger one is seen. -/
def Redo.seenBy (reader id : Nat) (r : Redo) : Bool := r.phys == reader && r.id ≤ id && (r.kind == .store || r.kind == .engine)

/-- The youngest byte that a core has written in its quantum before a place in program order, with the place of its write (R58). -/
def redoPlace (s : State) (reader id key : Nat) : Option (Nat × PByte) :=
  s.redo.foldl (fun best r =>
    if r.seenBy reader id then
      (match runByte r.runs key with
       | some b => laterByte best r.id b
       | none => best)
    else best) none

/-- The byte that an access of `reader` at a place in program order sees: in a deterministic context its older writes of the quantum,
and else the start-of-quantum byte of a local word (R58). -/
def viewByte (s : State) (reader id key : Nat) : Byte :=
  match redoPlace s reader id key with
  | some (_, b) => b.b
  | none => match (if isLocalKey key then s.shadow.find? fun c => c.1 == key else none) with
    | some c => c.2
    | none => readCell s.mem key

/-- A granule's poison after a write of these runs: all 16 bytes decide it, fewer can only add to it (R439). -/
def poisAfter (g : Nat) (p : Bool) (runs : List (Nat × List PByte)) : Bool :=
  let here := runs.filter fun (k, _) => k / 16 == g
  if here.any fun (_, bs) => bs.length = 16 then here.any fun (_, bs) => anyOf bs else p || here.any fun (_, bs) => anyOf bs
where
  anyOf (bs : List PByte) : Bool := bs.any PByte.p

/-- Insert by a number, behind equals. -/
def placeBy {α : Type} (key : α → Nat) (x : α) : List α → List α
  | [] => [x]
  | h :: t => if key x < key h then x :: h :: t else h :: placeBy key x t

/-- A list in ascending order of a number, equals in their order. -/
def sortBy {α : Type} (key : α → Nat) (l : List α) : List α := l.foldl (fun acc x => placeBy key x acc) []

/-- The mark of a byte's granule once writes, each with its place in program order, have been made (R439). -/
def poisPast (s : State) (key : Nat) (l : List (Nat × List (Nat × List PByte))) : Bool :=
  (sortBy Prod.fst l).foldl (fun p r => poisAfter (key / 16) p r.2) (poisoned s key)

/-- The writes of the quantum that an access of its core follows (R58). -/
def seenRuns (s : State) (reader id : Nat) : List (Nat × List (Nat × List PByte)) :=
  (s.redo.filter (Redo.seenBy reader id)).map fun r => (r.id, r.runs)

/-- The mark of a byte's granule as the same access sees it. -/
def viewPois (s : State) (reader id key : Nat) : Bool := poisPast s key (seenRuns s reader id)

/-- The bytes of a part with their poison marks, as one step of an access at a place in program order reads them. -/
def readPart (s : State) (reader id : Nat) (p : Part) : List PByte :=
  (List.range p.len).map fun i => { b := viewByte s reader id (p.key + i), p := viewPois s reader id (p.key + i) }

/-- A consumer's view: poisoned bytes read as zero (R439). -/
def consume (l : List PByte) : List Byte := l.map fun x => if x.p then 0 else x.b

/-- Did a part read poison (one consumption a granule, as a part lies in one granule)? -/
def anyPois (l : List PByte) : Bool := l.any PByte.p

/-! Messages in the fabric (R50, R56). -/

/-- Put a message into the fabric; in a deterministic context it waits for the boundary (R118). Nothing leaves for a dead
context (R164). -/
def State.post (s : State) (f : Flight) : State :=
  if s.dead f.ctx then s
  else if s.det f.ctx then s.modCtx f.ctx fun x => { x with outbox := x.outbox ++ [f] }
  else { s with flights := s.flights ++ [f] }

def payload (a b c : W64) : Vector W64 7 := #v[a, b, c, 0, 0, 0, 0]

/-- The header word (R103). -/
def Msg.header (m : Msg) : W64 :=
  BitVec.ofNat 64 (m.tag.toNat * 2 ^ 48 + m.origch.toNat * 2 ^ 32 + boolNat m.spilled * 2 ^ 31 + boolNat m.bounced * 2 ^ 30
    + m.kind.toNat * 2 ^ 26 + m.len.toNat * 2 ^ 20 + m.ch.toNat * 2 ^ 16 + m.sender.toNat)

def mkMsg (kind len : Nat) (ch : BitVec 4) (tag sender : BitVec 16) (pl : Vector W64 7) : Msg :=
  { tag := tag, origch := ch, spilled := false, bounced := false, kind := BitVec.ofNat 4 kind, len := BitVec.ofNat 6 len,
    ch := ch, sender := sender, payload := pl }

/-! Watches (R204). -/

/-- The notification of a watch: status 0 fired, 1 displaced, 2 cancelled. -/
def watchMsg (s : State) (w : Watch) (status : Nat) (writer : BitVec 16) : Flight :=
  let m := mkMsg 5 24 w.ch w.tag writer
    (payload (BitVec.ofNat 64 w.va) (BitVec.ofNat 64 (writer.toNat * 2 ^ 48 + status))
      (if status = 0 then BitVec.ofNat 64 (readWord s.mem w.key 8) else 0))
  { ctx := w.ctx, dst := w.lc, held := { launch := none, msg := m },
    src := .home (if isLocalKey w.key then localOwner w.key else homePhys s.width w.key) }

/-- Fire every watch on a block that a write of len bytes at a key touches; memory already holds the write. `after` names the store
that made it, behind whose older stores the notification stays (R52). -/
def fireWatches (s : State) (writer : BitVec 16) (key len : Nat) (after : Option (Nat × Nat) := none) : State :=
  let hit (w : Watch) : Bool := w.key < key + len && key < w.key + w.size
  (s.watches.filter hit).foldl (fun s w => s.post { watchMsg s w 0 writer with after := after })
    { s with watches := s.watches.filter fun w => !hit w }

/-! Writing. -/

/-- The sender field of a core's writes (R204). -/
def coreSender (s : State) (phys : Nat) : BitVec 16 := BitVec.ofNat 16 (s.core phys).cx.lc

/-- A store of all 16 bytes of a granule clears its poison, a partial one leaves it (R439). -/
def clearPois (s : State) (key len : Nat) : State :=
  if len = 16 && key % 16 == 0 then { s with poison := ndel s.poison (key / 16) } else s

/-- Is the address in host memory while the link is down (R432)? -/
def hostGone (s : State) (key : Nat) : Bool := hostBase ≤ key && !s.pkg.ucieUp

def setBytes (s : State) (key : Nat) (bs : List Byte) : State := { s with mem := writeCells s.mem key bs }

/-- Keep what local bytes held at the start of the quantum, for the other cores (R58). -/
def keepShadow (s : State) (key len : Nat) : State :=
  (List.range len).foldl (fun s i =>
    if (s.shadow.any fun c => c.1 == key + i) then s
    else { s with shadow := s.shadow ++ [(key + i, readCell s.mem (key + i))] }) s

/-- Keep what the DRAM row of a line of device memory holds, before a write to the line. -/
def keepPast (s : State) (key len : Nat) : State :=
  if 0x20000000000 ≤ key || len = 0 || s.past.any fun x => x.1 == key / 128 then s
  else { s with past := (key / 128, readCells s.mem (key / 128 * 128) 128) :: s.past }

def setPois (s : State) (key : Nat) : State := { s with poison := nins s.poison (key / 16) }

/-- The bytes and the poison of one run of a write (R439). -/
def writeRun (s : State) (key : Nat) (bs : List PByte) : State :=
  let s := clearPois (setBytes (keepPast s key bs.length) key (bs.map PByte.b)) key bs.length
  if anyPois bs then setPois s key else s

/-- Apply a write of some runs in one step: bytes, poison, then watches, which see all of it. A store to a host that is not
there is dropped (R432). -/
def applyRuns (s : State) (writer : BitVec 16) (runs : List (Nat × List PByte)) (after : Option (Nat × Nat) := none) : State :=
  if runs.any fun r => hostGone s r.1 then s
  else runs.foldl (fun s r => fireWatches s writer r.1 r.2.length after) (runs.foldl (fun s r => writeRun s r.1 r.2) s)

/-- Bytes without poison. -/
def clean (l : List Byte) : List PByte := l.map fun b => { b := b, p := false }

/-- Apply a write of one run. -/
def applyPart (s : State) (writer : BitVec 16) (key : Nat) (bs : List Byte) (after : Option (Nat × Nat) := none) : State :=
  applyRuns s writer [(key, clean bs)] after

/-- A store to a host that is not there is counted, once for all its parts that find it gone: `store` names the access, or is empty for
one of a single step (R432; log 86). -/
def countDrop (s : State) (key : Nat) (store : List Nat) : State :=
  if !hostGone s key || s.pkg.lost.contains store then s
  else
    let s := s.modErr 0 fun e => { e with hostDrops := e.hostDrops + 1 }
    if store.isEmpty then s else { s with pkg := { s.pkg with lost := store :: s.pkg.lost } }

/-- How an access of a core is named: its place in program order, and its number there. -/
def coreAccess (phys id row : Nat) : List Nat := [0, phys, id, row]

/-- The runs of a core's access that find the host gone. -/
def countRuns (s : State) (phys id row : Nat) (runs : List (Nat × List PByte)) : State :=
  runs.foldl (fun s r => countDrop s r.1 (coreAccess phys id row)) s

/-- The words that a run of local bytes touches. -/
def wordsOf (key len : Nat) : List Nat :=
  if !isLocalKey key || len = 0 then [] else (List.range ((key + len - 1) / 8 + 1 - key / 8)).map fun i => key / 8 + i

/-- The 8-byte words that a run of local bytes touches go full (R183). -/
def setFull (s : State) (key len : Nat) : State := { s with full := (wordsOf key len).foldl nins s.full }

/-- An engine's write: words of local memory go full; poisoned bytes poison their granule (R48, R183, R273). -/
def engRuns (s : State) (writer : BitVec 16) (runs : List (Nat × List PByte)) (after : Option (Nat × Nat) := none) : State :=
  runs.foldl (fun s r => setFull s r.1 r.2.length) (applyRuns s writer runs after)
def engApply (s : State) (writer : BitVec 16) (key : Nat) (bs : List PByte) : State := engRuns s writer [(key, bs)]

/-! Full-empty bits (R58, R183). -/

/-- What the core's own writes of the quantum made of the bit of another core's word: emptied, or filled by its engines. -/
def redoFull (s : State) (reader word : Nat) : Option Bool :=
  s.redo.foldl (fun x r =>
    if r.phys != reader then x
    else match r.kind with
      | .empty => if r.runs.any fun k => k.1 / 8 = word then some false else x
      | .engine => if r.runs.any fun k => k.1 < word * 8 + 8 && word * 8 < k.1 + k.2.length then some true else x
      | _ => x) none

/-- The bit of a word as a core sees it. -/
def viewFull (s : State) (reader word : Nat) : Bool :=
  if localOwner (word * 8) = reader then nmem s.full word
  else match redoFull s reader word with
    | some b => b
    | none => match s.fullShadow.find? fun x => x.1 == word with
      | some x => x.2
      | none => nmem s.full word

/-- Keep the bits that words had at the start of the quantum. -/
def keepFull (s : State) (ws : List Nat) : State :=
  ws.foldl (fun s w =>
    if s.fullShadow.any fun x => x.1 == w then s else { s with fullShadow := s.fullShadow ++ [(w, nmem s.full w)] }) s

def setEmpty (s : State) (word : Nat) : State := { s with full := ndel s.full word }

/-! Writes of cores (R43, R48, R58, R168). -/

/-- A write of a core of a deterministic context: it stands for the boundary, and the core's own local memory holds it at
once. -/
def detWrite (s : State) (phys id : Nat) (kind : RedoKind) (runs : List (Nat × List PByte)) (row : Nat := 0) : State :=
  let x := (s.core phys).cx
  let s := { s with redo := s.redo ++ [{ ctx := x.ctx, lc := x.lc, phys := phys, id := id, kind := kind, runs := runs, row := row }] }
  runs.foldl (fun s (key, bs) =>
    if isLocalKey key && localOwner key == phys && (kind == .store || kind == .engine) then
      let s := setBytes (keepShadow s key bs.length) key (bs.map PByte.b)
      if kind == .engine then setFull (keepFull s (wordsOf key bs.length)) key bs.length else s
    else s) s

/-- A write of some runs by a core's task engine. -/
def coreRuns (s : State) (phys id : Nat) (runs : List (Nat × List PByte)) : State :=
  if s.det (s.core phys).cx.ctx then detWrite s phys id .store runs
  else applyRuns (countRuns s phys id 0 runs) (coreSender s phys) runs (some (phys, id))

/-- A write of one part by a core's task engine. -/
def coreStore (s : State) (phys id key : Nat) (bs : List Byte) : State := coreRuns s phys id [(key, clean bs)]

/-- A write of some runs by one of a core's engines; a notification that it causes stays behind the core's older stores too (R52). -/
def engStore (s : State) (phys id : Nat) (runs : List (Nat × List PByte)) (row : Nat := 0) : State :=
  if s.det (s.core phys).cx.ctx then detWrite s phys id .engine runs row
  else engRuns (countRuns s phys id row runs) (coreSender s phys) runs (some (phys, id))

/-- Empty a word (R202): another core's at the boundary, in a deterministic context. -/
def coreEmpty (s : State) (phys id word : Nat) : State :=
  if s.det (s.core phys).cx.ctx then
    if localOwner (word * 8) = phys then setEmpty (keepFull s [word]) word
    else detWrite s phys id .empty [(word * 8, [])]
  else setEmpty s word

/-! DISCARD (R166, R188, R212). -/

/-- Does a line lie in a region of a context (R166)? -/
def ownsLine (s : State) (x : Ctx) (key : Nat) : Bool :=
  s.regions.any fun r => r.ctx == x.id && (List.range r.units).any fun u =>
    match walk s x.root (r.base + u * 0x10000) with
    | some (b, _, pa, _) => let at_ := pa + (r.base + u * 0x10000 - b); at_ ≤ key && key < at_ + 0x10000
    | none => false

/-- Dead contexts that are not released yet and had the line of a key: a write-back of theirs may be queued toward memory. -/
def deadOwners (s : State) (key : Nat) : List Nat := (s.ctxs.filter fun x => x.dead.isSome && ownsLine s x key).map Ctx.id

/-- A line as it stands, and as its DRAM row holds it. -/
def lineNow (s : State) (line : Nat) : List Byte := readCells s.mem (line * 128) 128
def lineRow (s : State) (line : Nat) : List Byte := ((s.past.find? fun x => x.1 == line).map Prod.snd).getD (lineNow s line)

/-- A line that a stash holds dirty, as it was before its write-back (R188), and the context whose write-back it is. -/
def stashedLine (s : State) (line : Nat) : Option (List Byte × Nat) :=
  s.cores.findSome? fun c => c.frames.findSome? fun f =>
    if f.dirty && f.pa / 256 == line / 2 then some ((f.old.drop (line % 2 * 128)).take 128, c.cx.ctx) else none

/-- A write-back that a DISCARD of the line may race (R166): of a stash, or of a dead context's line in its home's cache. The value
from before it, and whose it is. -/
def queuedBack (s : State) (line : Nat) : Option (List Byte × Nat) :=
  match stashedLine s line, s.past.find? fun x => x.1 == line with
  | some b, _ => some b
  | none, some (_, row) => (deadOwners s (line * 128)).head?.map fun d => (row, d)
  | none, none => none

/-- What R166 leaves of a whole line, where it decides: the value from before the write-back, or the written-back one, as bit 0 of a
free value says. -/
def racedLine (s : State) (line : Nat) (w : W64) : Option (List Byte) :=
  (queuedBack s line).map fun b => if bit w 0 then b.1 else lineNow s line

/-- A line that keeps its older value does so because the DISCARD has cancelled its write-back, which is counted where that was a dead
context's (R166). -/
def countCancel (s : State) (line : Nat) (w : W64) : State :=
  match queuedBack s line with
  | some (_, d) => if bit w 0 && s.dead d then s.modCtx d fun y => { y with dropWb := y.dropWb + 1 } else s
  | none => s

/-- No write-back of the line is queued any more: its DRAM row holds what the line holds. -/
def backDone (s : State) (line : Nat) : State := { s with past := s.past.filter fun x => x.1 != line }

/-- A granule of any other line holds its value, or what its DRAM row was last given, as its own bit of the free value says (R212;
log 5). -/
def rowedGranule (s : State) (g : Nat) (w : W64) : List Byte :=
  ((if bit w (8 + g % 8) then lineRow s (g / 8) else lineNow s (g / 8)).drop (g % 8 * 16)).take 16

/-- A DISCARD of a deterministic context at the boundary: zeros, unless R166 decides the line; a write-back of a dead context need
not be queued. -/
def discardRedo (s : State) (writer : BitVec 16) (key : Nat) : State :=
  let w := Config.freeWord s.fresh
  let s := { s with fresh := s.fresh + 1 }
  let line := key / 128
  match racedLine s line w with
  | some l =>
    if bit w 2 || (stashedLine s line).isSome then backDone (applyRuns (countCancel s line w) writer (pieces l)) line
    else applyRuns s writer (pieces zeros)
  | none => applyRuns s writer (pieces zeros)
where
  zeros : List Byte := List.replicate 128 0
  pieces (l : List Byte) : List (Nat × List PByte) :=
    (List.range 8).map fun i => (key / 128 * 128 + 16 * i, clean ((l.drop (16 * i)).take 16))

/-! The stash (R187, R188, R190). A frame's block is part of memory: what a stash holds of it is in its line's serial order. -/

/-- A frame that holds the block of a key. -/
def Frame.holds (key : Nat) (f : Frame) : Bool := f.pa / 256 == key / 256

/-- The frames of core `phys` and of the others after its access to a part: an access through the own frame fills it, a write makes
it dirty over the block as it was; any other core's frame of the block loses it. -/
def touchFrame (s : State) (phys : Nat) (p : Part) (write : Bool) (c : Core) (f : Frame) : Frame :=
  if !f.holds p.key then f
  else if c.phys != phys then { f with filled := false, dirty := false }
  else if (ownOffset p.va).isSome then
    { f with filled := true, dirty := f.dirty || write, old := if write && !f.dirty then readCells s.mem f.pa 256 else f.old }
  else f

def touchStash (s : State) (phys : Nat) (p : Part) (write : Bool) : State :=
  if isLocalKey p.key || !(s.cores.any fun c => c.frames.any (Frame.holds p.key)) then s
  else { s with cores := s.cores.map fun c => { c with frames := c.frames.map (touchFrame s phys p write c) } }

/-- Every stash gives the block of a key back. -/
def recallKey (s : State) (key : Nat) : State :=
  if isLocalKey key || !(s.cores.any fun c => c.frames.any (Frame.holds key)) then s
  else { s with cores := s.cores.map fun c => { c with frames := mapIf (Frame.holds key) (fun f => { f with filled := false, dirty := false }) c.frames } }

/-- What a write of the quantum does at step 2 of the boundary (R58). The owner's full-empty bits changed when it wrote. -/
def redoApply (s : State) (r : Redo) : State :=
  let writer := BitVec.ofNat 16 r.lc
  let s := countRuns s r.phys r.id r.row r.runs
  match r.kind with
  | .store => applyRuns s writer r.runs
  | .engine =>
    if r.runs.all fun k => isLocalKey k.1 && localOwner k.1 == r.phys then applyRuns s writer r.runs
    else engRuns s writer r.runs
  | .discard => r.runs.foldl (fun s k => recallKey (discardRedo s writer k.1) k.1) s
  | .empty => r.runs.foldl (fun s k => setEmpty s (k.1 / 8)) s

/-- Apply what a context's cores have written in the quantum: by core, then in program order; start-of-quantum values of its
local memories are forgotten (R58). -/
def redoAll (s : State) (ctx : Nat) : State :=
  let grant := ((s.ctx? ctx).map Ctx.grant).getD []
  let mine (r : Redo) : Bool := r.ctx == ctx
  let owned (key : Nat) : Bool := isLocalKey key && grant.contains (localOwner key)
  -- the local memories go back to the quantum's start, so that a notification shows no later write (R204)
  let s0 := (s.shadow.filter fun c => owned c.1).foldl (fun (s : State) c => { s with mem := writeCell s.mem c.1 c.2 }) s
  let s1 := (sortBy Redo.lc (sortBy Redo.id (s.redo.filter mine))).foldl redoApply s0
  { s1 with
    redo := s1.redo.filter fun r => !mine r
    shadow := s1.shadow.filter fun c => !owned c.1
    fullShadow := s1.fullShadow.filter fun w => !owned (w.1 * 8) }

end Sys2Proof.Machine
end

