-- ==== Sys2Proof/Machine/Ops.lean ====
section
/-! DEFINITION. What every instruction shares: code lines and PCs, tracing, freezing a core, ending a task, retiring, and the
order of checks around an instruction's own effect (R61-R63, R71, R74-R78, R98-R101, R115, R150-R153, R423-R427). -/

namespace Sys2Proof.Machine

/-! Code (R61-R63, R363). -/

/-- PC validity, for the byte within the line (R62). -/
def slotOk (pc : W64) : Bool := [0, 12, 24, 36, 48].contains (pc.toNat % 64)

/-- Sequential successor (R62). -/
def succPc (pc : W64) : W64 := if pc.toNat % 64 = 48 then pc + 16 else pc + 12

/-- Target of a relative branch with slot displacement d (R63), as a 64-bit value. -/
def relTarget (pc : W64) (d : Int) : W64 :=
  let g : Int := pc.toNat / 64 * 5 + pc.toNat % 64 / 12 + d
  BitVec.ofInt 64 (g / 5 * 64 + g % 5 * 12)

/-- The residual window of a die (R363). -/
def residualBase (die : Nat) : Nat := 0xFFF400000000 + die * 0x10000000

/-- Key of the code line that holds a PC, or why it cannot be fetched: the s7 of an instruction-fetch fault (R63, R172). -/
def fetchKey (s : State) (c : Core) (pc : W64) : Except Nat Nat :=
  let a := pc.toNat
  if 2 ^ 48 ≤ a then .error 2 else
  match rangeOf a with
  | .unassigned => .error 2
  | .translated => match translate s c (a / 64 * 64) with
    | none => .error 1
    | some (pa, x) => if x then .ok pa else .error 3
  | .mmio =>
    let b := residualBase (dieOf c.phys)
    let mine := (s.spec.toList[dieOf c.phys]?).any fun d => d.entries.any fun e =>
      e.ctx == c.cx.ctx && !e.refused && b + e.line * 64 ≤ a && a < b + (e.line + e.lines) * 64
    if b ≤ a && a < b + 0x10000000 && mine then .ok (a / 64 * 64) else .error 3
  | _ => .error 3

/-- The line word (R61). -/
def lineWord (s : State) (key : Nat) : Nat := readWord s.mem (key + 60) 4

/-- What the back-map says of a PC (R61, R363): residual, original PC, iteration numbers, counts, materialising. An index
outside the table gives the original PC of all ones. -/
structure Origin where
  residual : Bool
  pc : W64
  iters : List Nat
  counts : Bool
  mater : Bool
  deriving DecidableEq, Repr

def originOf (s : State) (c : Core) (pc : W64) : Origin :=
  let plain : Origin := { residual := false, pc := pc, iters := [], counts := true, mater := false }
  match fetchKey s c pc with
  | .error _ => plain
  | .ok key =>
    let lw := lineWord s key
    if lw < 2 ^ 31 then plain else
    let rec? := (if h : dieOf c.phys < 8 then some s.spec[dieOf c.phys] else none).bind fun d =>
      (d.backmap.find? fun e => e.1 == lw - 2 ^ 31).bind fun e => e.2[pc.toNat % 64 / 12]?
    match rec? with
    | some r => { residual := true, pc := r.pc.setWidth 64, iters := r.iters, counts := r.counts, mater := r.mater }
    | none => { residual := true, pc := 0xFFFFFFFFFFFF#64, iters := [], counts := true, mater := false }

/-- The instruction word at a code line's key and a PC. -/
def codeWord (s : State) (key : Nat) (pc : W64) : IWord := IWord.ofBytes (readCells s.mem (key + pc.toNat % 64) 12)

/-! Trace (R426, R427). -/

/-- A record enters the encoder's 8-entry buffer, behind the kind-9 record of those lost before it; one that finds the buffer full is
lost (R427). -/
def Loupe.record (l : Loupe) (w0 w1 : W64) : Loupe :=
  let l := if l.tlost != 0 && l.tq.length < 8 then
      { l with tq := l.tq ++ [(w0 &&& ~~~ 0xFF#64 ||| 9#64, BitVec.ofNat 64 l.tlost)], tlost := 0 }
    else l
  if l.tq.length < 8 then { l with tq := l.tq ++ [(w0, w1)] } else { l with tlost := l.tlost + 1 }

/-- One trace record: kind, bank, channel and original PC, and the payload. -/
def traceRec (s : State) (phys : Nat) (hi : Bool) (pc : W64) (kind : Nat) (w1 : W64) : State :=
  let c := s.core phys
  if !c.loupe.trc.getLsbD 0 then s
  else
    let w0 := kind + boolNat hi * 2 ^ 8 + (c.bankOf hi).task.ch.val * 2 ^ 12 + bits (originOf s c pc).pc 0 48 * 2 ^ 16
    s.setCore { c with loupe := c.loupe.record (BitVec.ofNat 64 w0) w1 }

/-- Trace goes off; what its buffer still holds is not written (log 29). -/
def Loupe.traceOff (l : Loupe) : Loupe := { l with trc := l.trc &&& 6#3, tq := [] }

/-- The encoder writes its oldest record, as a store of the context that wrote LTBASE, into translated memory; a failed check clears
LTRC<0> (R427). The homes drop the store of a dead context (R164). -/
def writeTrace (s : State) (phys : Nat) : State :=
  let c := s.core phys
  let l := c.loupe
  match l.tq with
  | [] => s
  | (w0, w1) :: rest =>
    let size := 2 ^ (bits (l.tbase.setWidth 64) 48 5)
    let a := bits (l.tbase.setWidth 64) 0 48 + l.tptr.toNat % size
    let tool : Core := { c with cx := { c.cx with ctx := l.tctx, lc := 0xFFFF, marks := [] }, tlb := [] }
    match access s tool .store a 16 0 with
    | .ok [p] =>
      if rangeOf a != .translated then s.setCore { c with loupe := l.traceOff }
      else
        let t := if s.dead l.tctx then s
          else writeRun (recallKey s p.key) p.key (clean (toBytes 8 w0.toNat ++ toBytes 8 w1.toNat))
        t.modCore phys fun c =>
          { c with loupe := { c.loupe with tq := rest, tptr := l.tptr + 16, twrap := l.twrap || size ≤ l.tptr.toNat + 16 } }
    | _ => s.setCore { c with loupe := l.traceOff }

/-- Every record in the buffer is written. -/
def flushTrace (s : State) (phys : Nat) : State :=
  (s.core phys).loupe.tq.foldl (fun s _ => writeTrace s phys) s

/-- sys.tick has advanced for these cores (R426). -/
def traceTick (s : State) (ps : List Nat) (v : W64) : State :=
  ps.foldl (fun s p => traceRec s p (s.core p).rb (s.core p).bank.pc 8 v) s

/-- Message records are written under LTRC<2>, memory records under LTRC<1>. -/
def traceIf (s : State) (n : Nat) (phys : Nat) (hi : Bool) (pc : W64) (kind : Nat) (w1 : W64) : State :=
  if (s.core phys).loupe.trc.getLsbD n then traceRec s phys hi pc kind w1 else s

/-! Ending a task (R71, R101, R403). -/

/-- The bank's task ends: its windows close with it, and a launched task's report waits for what it has issued. -/
def endTask (s : State) (phys : Nat) (hi : Bool) : State :=
  let c := s.core phys
  let b := c.bankOf hi
  let launch := b.task.launch
  let s := traceRec s phys hi b.pc 2 c.cx.instret
  let c := s.core phys
  let b := { b with task := { b.task with live := false, windows := [], noCheck := false, conts := [], launch := none } }
  let c := c.setBankOf hi b
  let c := { c with cx := { c.cx with mwin := if hi then c.cx.mwin else 0, sel := true, due := (c.cx.choose true).isSome } }
  let s := s.setCore c
  match launch with
  | some id =>
    let upd (l : Launch) : Launch := { l with ended := true, phys := phys, upTo := c.nextId }
    { s with launches := mapIf (fun l => l.id == id) upd s.launches }
  | none => s

/-! Freezing (R150-R153, R158). -/

/-- What a freeze records. -/
structure Freeze where
  info : FaultInfo
  kind : FreezeKind
  /-- The packet's PC and the PC written to the image. -/
  pc : W64
  imagePc : W64
  code : Nat := 0
  retired : Nat := 0
  deferred : Bool := false
  eng : Option Eng := none
  stopAfter : Bool := false
  /-- The faulting task, where it is not the bank's. -/
  task : Option Nat := none

/-- Iteration numbers as s4 holds them (R152). -/
def itersWord (l : List Nat) : W64 :=
  BitVec.ofNat 64 (min l.length 3 * 2 ^ 48 + l.getD 0 0 % 65536 + l.getD 1 0 % 65536 * 2 ^ 16 + l.getD 2 0 % 65536 * 2 ^ 32)

/-- The packet's seven words (R152). -/
def packetWords (s : State) (c : Core) (hi : Bool) (ch : Fin 16) (seq : BitVec 16) (overflow : Bool) (z : Freeze) :
    Vector W64 7 :=
  let o := originOf s c z.pc
  #v[BitVec.ofNat 64 (seq.toNat * 2 ^ 48 + z.code % 65536 * 2 ^ 32 + min z.retired 255 * 2 ^ 24 + boolNat overflow * 2 ^ 18
      + boolNat o.residual * 2 ^ 17 + boolNat z.deferred * 2 ^ 16 + boolNat hi * 2 ^ 12 + ch.val * 2 ^ 8 + z.info.cause),
    zextW 48 o.pc, zextW 48 z.pc, itersWord o.iters, z.info.s5, z.info.s6, z.info.s7]

/-- A core freezes: both banks stop, the masked window closes, the image PC is written, the packet is made (R150, R152,
R158); it takes the place of one that has not left (log 83). -/
def freezeCore (s : State) (phys : Nat) (hi : Bool) (ch : Fin 16) (z : Freeze) : State :=
  let c := s.core phys
  let seq := c.cx.frz.seq + 1
  let words := packetWords s c hi ch seq c.cx.frz.queueOver z
  let msg := { mkMsg 10 56 13#4 (BitVec.ofNat 16 z.info.cause) (BitVec.ofNat 16 c.cx.lc) words with origch := 13#4 }
  let frz : FreezeSt := { c.cx.frz with
    frozen := true, kind := z.kind, bank := hi, cause := z.info.cause, seq := seq, eng := z.eng, imagePc := z.imagePc
    task := z.task.getD (c.bankOf hi).task.serial
    stopAfter := z.stopAfter, packet := words, refused := false, toSend := some msg, chain := (c.cx.frz.chain ++ [msg]).reverse.take 16 |>.reverse
    accepted := none, queueOver := false }
  let s := traceRec s phys hi z.pc 6 (BitVec.ofNat 64 z.info.cause)
  let c := s.core phys
  let c := c.setBankOf hi { c.bankOf hi with pc := z.imagePc }
  s.setCore { c with cx := { c.cx with frz := frz, mwin := 0 } }

/-- A loupe stop (R423): it completes once every record made before it is written, and closes an open masked window as a freeze does;
in a deterministic context, whose program sees no stop (R425), the window stays open. -/
def loupeStop (s : State) (phys : Nat) (reason : Nat) : State :=
  let s := flushTrace s phys
  let c := s.core phys
  let pc := (c.bankOf c.rb).pc
  let lstat := 1 + reason * 2 + boolNat c.rb * 16 + bits (originOf s c pc).pc 0 48 * 2 ^ 16
  let s := traceRec s phys c.rb pc 7 (BitVec.ofNat 64 lstat)
  s.modCore phys fun c => { c with
    cx := { c.cx with mwin := if s.det c.cx.ctx then c.cx.mwin else 0 }
    loupe := { c.loupe with
      stopped := true, reason := BitVec.ofNat 3 reason, sbank := c.rb, spc := (originOf s c pc).pc, freed := false
      stepping := false, wpHit := false } }

/-- A stop by request: it holds a core that is stopped already, unless LCTL has ended that stop while a freeze keeps the core (R423,
R424). -/
def haltCore (s : State) (phys : Nat) : State :=
  let l := (s.core phys).loupe
  if l.stopped && !l.freed then s else loupeStop s phys 1

/-- The executing instruction has retired or has frozen its core: a watched access stops it, and so does a step (R423, R424; log 88). -/
def stopAfterIssue (s : State) : State :=
  if s.here.loupe.wpHit then loupeStop s s.cur 4 else if s.here.loupe.stepping then loupeStop s s.cur 5 else s

/-- The continuation for which the bank's next instruction is an undone L op that executes again (R76). -/
def Bank.again (b : Bank) : Option Cont :=
  match b.task.conts with
  | k :: _ => if k.lop = b.pc then some k else none
  | [] => none

/-- What is kept of a bank's task when another one starts there. -/
def TaskSt.ended (t : TaskSt) : Ended := { serial := t.serial, retired := t.retired, undone := t.conts.map Cont.at_ }

/-- Instructions that a task has retired after its instruction `at_`, undone L ops not counted. -/
def Ended.since (e : Ended) (at_ : Nat) : Nat := e.retired - at_ - 1 - (e.undone.filter fun n => decide (at_ < n)).length

/-- The same of a bank's task. DESIGN CHOICE (log 96): every younger instruction of the task counts (R152), also where the window of a
late LD fault, of which R76 speaks, has closed. -/
def TaskSt.since (t : TaskSt) (at_ : Nat) : Nat := t.ended.since at_

/-- Younger instructions that a task of the bank, running or ended, has retired (R152, R159). -/
def Core.since (c : Core) (hi : Bool) (task at_ : Nat) : Nat :=
  let t := (c.bankOf hi).task
  if t.serial = task then t.since at_ else ((c.cx.ended.find? fun e => e.serial == task).map fun e => e.since at_).getD 0

/-- A precise fault of the executing instruction; an L op that executes again still has the retired instructions of its window
behind it. -/
def raise (s : State) (info : FaultInfo) (kind : FreezeKind := .other) : State :=
  let b := s.bank
  -- a format fault may carry a free value (log 5)
  let s := if info.cause = 6 then s.drawn else s
  let s := s.setCore { s.here with loupe := { s.here.loupe with skipCheck := false } }
  stopAfterIssue <| freezeCore s s.cur s.here.rb b.task.ch
    { info := info, kind := kind, pc := b.pc, imagePc := b.pc, retired := (b.again.map fun k => b.task.since k.at_).getD 0 }

/-- The illegal-instruction fault of a word (R77, R153). -/
def illegalInfo (w : IWord) : FaultInfo :=
  { cause := 4, s5 := 0, s6 := w.extractLsb' 0 64, s7 := (w.extractLsb' 64 32).setWidth 64 }

/-! Retiring (R71, R74, R76, R98, R115, R117, R149, R366, R423, R424). -/

/-- Where the task goes on after its next instruction: in sequence, or where the continuation of an L op that executes again says. -/
def Bank.seqPc (b : Bank) : W64 :=
  match b.again with
  | some k => k.next
  | none => succPc b.pc

/-- What retiring its next instruction changes of a bank's task: the windows and the count, or, for an L op that executes again, the
continuation (R74, R76). A slot of residual code that stands for no original instruction counts in the windows alone,
where records say so (R364-R366). DESIGN CHOICE (log 103): the exemption that a resume after a lookahead error gives stays until the
instruction retires, also where it raises another fault first (R158). -/
def TaskSt.retire1 (t : TaskSt) (again counts : Bool) (pc : W64) : TaskSt :=
  let t := { t with noCheck := false, producer := pc }
  if again then { t with conts := t.conts.tail }
  else
    let ws := (t.windows.map fun w => { w with left := w.left - 1 }).filter fun w => w.left != 0
    { t with windows := ws, form := if ws.isEmpty then none else t.form, retired := if counts then t.retired + 1 else t.retired }

/-- Counters, windows and masked window of one retired instruction of a bank; the PC moves to `next`. -/
def countRetired (c : Core) (hi : Bool) (counts det : Bool) (next : W64) : Core :=
  let b := c.bankOf hi
  let c := c.setBankOf hi { b with pc := next, task := b.task.retire1 b.again.isSome (counts || !det) b.pc }
  { c with loupe := { c.loupe with skipCheck := false }, cx := { c.cx with
    mwin := if hi || (!counts && det) || c.cx.mwin ≤ 1 then c.cx.mwin else c.cx.mwin - 1
    sel := c.cx.sel && c.cx.mwin != 0 && c.cx.due
    instret := if counts || !det then c.cx.instret + 1 else c.cx.instret
    qret := if counts then c.cx.qret + 1 else c.cx.qret } }

/-- The executing instruction retires and the task goes on at `target`, or in sequence. Stop ends the task without transfer. -/
def retireOnly (s : State) (f : Fields) (target : Option W64) : State :=
  let c := s.here
  let hi := c.rb
  let b := c.bank
  let o := originOf s c b.pc
  let next := if f.stop then succPc b.pc else target.getD b.seqPc
  let s := match target with
    | some t => if f.stop then s else traceRec s s.cur hi b.pc 3 t
    | none => s
  let s := s.setCore (countRetired s.here hi o.counts (s.det c.cx.ctx) next)
  if f.stop then endTask s s.cur hi else s

/-- The same, with the loupe's stop behind it. -/
def retire (s : State) (f : Fields) (target : Option W64) : State := stopAfterIssue (retireOnly s f target)

/-- What an instruction's own effect answers. -/
inductive Eff
  /-- It retires; the state holds its effect. -/
  | done (s : State)
  /-- It retires and transfers. -/
  | jump (s : State) (pc : W64)
  /-- A bounded wait (R9): it issues again. -/
  | stall
  /-- A precise fault; nothing changes but the freeze. -/
  | fault (i : FaultInfo)
  /-- It retires with FP events to accrue (R99). -/
  | fp (s : State) (ev : Events)
  /-- TRAP and BRK (R148): counted as retired, frozen at its own PC. -/
  | trap (s : State) (cause code : Nat)
  /-- BRK with armed breakpoints (R423): the core stops before the next instruction. -/
  | brk (s : State)
  /-- END: it retires and its task ends (R136). -/
  | last (s : State)

/-- The mask that the guard reads (R71, R231). -/
def guardMask (b : Bank) (f : Fields) : PBits := if f.guard.inv then ~~~ b.rp f.guard.p else b.rp f.guard.p

/-- A task-engine guard reads bit 0 (R232). -/
def guard0 (b : Bank) (f : Fields) : Bool := (guardMask b f).getLsbD 0

/-- Registers an instruction names, by field: dst, opa, opb, opc, guard, as s7 of cause 5 numbers them (R75, R153). -/
def namedRegs (f : Fields) : List (Nat × Nat × List Reg) :=
  [(f.dst.code, 0, regOf f.dst), (f.opa.code, 1, regOf f.opa), (f.opb.code, 2, regOf f.opb), (f.opc.code, 3, regOf f.opc),
   (f.guard.p.val + boolNat f.guard.inv * 16, 4, if f.guard.p = 0 then [] else [.p f.guard.p])]

/-- The lookahead violation of R75, if there is one: the first field in that order, the oldest window. An L op that executes again (R76)
is checked against the windows that younger instructions have opened too (log 92). Under a lookahead
state that the supervisor made undefined (R121), a free value says whether there is one, and gives its cause words (log 5). -/
def violation (s : State) (t : TaskSt) (f : Fields) : Option FaultInfo :=
  if t.noCheck then none
  else if t.form.isSome && !t.windows.isEmpty then
    (if (Config.freeWord s.fresh).getLsbD 0 then
      some { cause := 5, s5 := 0, s6 := Config.freeWord (s.fresh + 1), s7 := Config.freeWord (s.fresh + 2) } else none)
  else
  (namedRegs f).findSome? fun (code, k, rs) =>
    (t.windows.find? fun w => rs.any w.regs.contains).map fun w =>
      { cause := 5, s5 := 0, s6 := w.pc, s7 := BitVec.ofNat 64 (code + k * 1024) }

/-- Scalar and predicate registers among pending ones (vector hazards are met in the vector queue). -/
def Reg.scalar : Reg → Bool
  | .s _ | .p _ => true
  | _ => false

/-- Is any of these registers pending in the running bank? -/
def Core.waits (c : Core) (rs : List Reg) : Bool :=
  let p := (c.pending c.rb).filter Reg.scalar
  rs.any p.contains

def fieldRegs (f : Fields) : List Reg := (namedRegs f).flatMap fun x => x.2.2

/-- FP events (R98, R99, R160): accrued when the result is written; an enabled one freezes the core after the
instruction has retired. -/
def retireFp (s : State) (f : Fields) (ev : Events) : State :=
  let b := s.bank
  let pc := b.pc
  let hi := s.here.rb
  let s := s.setBank { b with fflags := b.fflags ||| ev }
  if ev &&& b.fenable = 0#5 then retire s f none
  else
    let s' := s.setCore (countRetired s.here hi (originOf s s.here pc).counts (s.det s.here.cx.ctx) b.seqPc)
    stopAfterIssue <| freezeCore s' s.cur hi b.task.ch
      { info := { cause := 13, s5 := 0, s6 := ev.setWidth 64, s7 := (b.fflags ||| ev).setWidth 64 }, kind := .fpEvent
        pc := pc, imagePc := b.seqPc, stopAfter := f.stop }

/-- Carry out what the effect answers. The stop of a BRK follows its retirement, so LSTAT shows the PC of the next instruction, of which
R148 says nothing (log 88). -/
def settle (f : Fields) (s : State) : Eff → State
  | .done s' => retire s' f none
  | .jump s' pc => retire s' f (some pc)
  | .stall => s
  | .fault i => raise s i
  | .fp s' ev => retireFp s' f ev
  | .trap s' cause code =>
    let b := s'.bank
    let hi := s'.here.rb
    let s'' := s'.setCore (countRetired s'.here hi (originOf s' s'.here b.pc).counts (s'.det s'.here.cx.ctx) b.pc)
    stopAfterIssue <| freezeCore s'' s.cur hi b.task.ch
      { info := { cause := cause, s5 := 0, s6 := 0, s7 := 0 }, kind := .trapBrk, pc := b.pc, imagePc := b.pc
        code := code, stopAfter := f.stop }
  | .last s' => retire s' { f with stop := true } none
  | .brk s' => loupeStop (retireOnly s' f none) s.cur 2

/-- One instruction of the running bank (R75, R78, R9, R71): lookahead check, scoreboard, guard, effect. `active` is what a
true guard means for the instruction. -/
def runWith (active : Bank → Bool) (f : Fields) (eff : State → Eff) (s : State) : State :=
  let c := s.here
  let b := c.bank
  match violation s b.task f with
  | some i => raise s i .lookahead
  | none =>
    if c.waits (fieldRegs f) then s
    else if !active b then retire s f none
    else settle f s (eff s)

/-- `runWith` for a guard that reads bit 0 (R232). -/
def run (f : Fields) (eff : State → Eff) (s : State) : State := runWith (fun b => guard0 b f) f eff s

/-! Outstanding operations (R41, R74). -/

/-- A new operation of the executing instruction, next in program order; nothing of it has happened yet. -/
def newOp (s : State) (ins : Instr) : Op :=
  let c := s.here
  let b := c.bank
  { id := c.nextId, ins := ins, bank := c.rb, task := b.task.serial, ch := b.task.ch, pc := b.pc
    at_ := (b.again.map Cont.at_).getD b.task.retired, st := .pending, dst := [], addr := 0, parts := [], buf := [], b := 0, c := 0
    res := [], ev := 0, late := false, collected := false, mmio := false }

/-- A look value opens a window over the registers that the executing instruction writes (R74), counting from the instruction after
it; an L op that executes again has what was left of its window (R76). -/
def Bank.opened (b : Bank) (f : Fields) (regs : List Reg) (op : Nat) : Bank :=
  let left := (b.again.map Cont.left).getD (f.look.val + 1)
  if f.look = 0 || left = 0 then b
  else { b with task := { b.task with windows := b.task.windows ++ [{ regs := regs, left := left, pc := b.pc, op := op }] } }

/-- Add an operation to the core's list, with its window. -/
def pushOp (s : State) (f : Fields) (o : Op) : State :=
  let c := s.here
  let c := { c with ops := c.ops ++ [o], nextId := c.nextId + 1 }
  s.setCore (c.setBankOf c.rb (c.bank.opened f o.dst o.id))

/-- An L op whose result is known at issue and arrives later (R66, R74). -/
def pushResult (s : State) (ins : Instr) (f : Fields) (res : W128) (ev : Events) : State :=
  pushOp s f { newOp s ins with st := .done, dst := regOf f.dst, res := [res], ev := ev }

end Sys2Proof.Machine
end

