-- ==== Sys2Proof/Machine/Operands.lean ====
section
/-! DEFINITION. Every operand form: immediates (R67), small constants (R68), scalar, predicate and vector sources and
destinations (R64, R84, R123), memory operands (R25, R192). -/

namespace Sys2Proof.Machine

/-! Immediates (R67). -/

/-- i as a 64-bit value, from the 32-bit field or, with c3, from the 22-bit one. -/
def immI (three : Bool) (f : Fields) : Int :=
  if three then toSigned 22 f.imm.toNat else toSigned 32 f.imm.toNat

/-- The binary32 that an immediate holds. -/
def immF32 (three : Bool) (f : Fields) : Nat := if three then f.imm.toNat % 2 ^ 22 * 1024 else f.imm.toNat

/-- The residues of an integer as a .tm24 container (R86, R87). -/
def tm24Of (x : Int) : Nat := lowBits 8 x + (x % 255).toNat * 256 + (x % 253).toNat * 65536

/-- An immediate read by a type, as element bits. -/
def immBits (three : Bool) (f : Fields) (t : Typ) : Nat :=
  match t with
  | .f32 => immF32 three f
  | .f64 => (fpToFp ⟨8, 23⟩ ⟨11, 52⟩ .rne (immF32 three f)).1
  | .f16 => (fpToFp ⟨8, 23⟩ ⟨5, 10⟩ .rne (immF32 three f)).1
  | .bf16 => (fpToFp ⟨8, 23⟩ ⟨8, 7⟩ .rne (immF32 three f)).1
  | .tm24 => tm24Of (immI three f)
  | .t5 => lowBits 8 (immI three f)
  | .untyped => lowBits 64 (immI three f)
  | t => lowBits (8 * t.size) (immI three f)

/-! Small constants (R68). -/

/-- The integer entries. -/
def constInt (n : Nat) : Int :=
  if n ≤ 64 then (n : Int) - 1 else if n ≤ 128 then 64 - (n : Int) else 2 ^ (n - 129)

/-- The FP entries from k:243 on: 1.5, 3.0, 0.75, π, e, ln 2, log2 e, log2 10, log10 2, √2, 1/√2, 1/π, 2/√π, each times
2^192, rounded down; no format keeps more than 53 bits of them. -/
def constTable : List Nat := [
  9415652603080021145753684134811499624153533166696051769344,
  18831305206160042291507368269622999248307066333392103538688,
  4707826301540010572876842067405749812076766583348025884672,
  19720096697726538562396133364228268891463450865190089732560,
  17062931582690352517073033763910857342528359051737534093910,
  4350955369971217654477563090224794165364344896676135745069,
  9055943544797870567083544809312461607371518589544137143473,
  20852080609247232516529069683947278507795213800149139502394,
  1889595908185821346144366738539203194586237552713217407396,
  8877162406579534828678351183397059828045242093918884417689,
  4438581203289767414339175591698529914022621046959442208844,
  1998063538955009263112567031435233387627309877426179393568,
  7082950827949419406546779429796514218173736946937360083502]

/-- A constant read by a format. -/
def constFp (f : Fmt) (n : Nat) : Nat :=
  if n ≤ 191 then (intToFp f .rne (constInt n)).1
  else if n ≤ 223 then (roundRat f .rne false 1 (2 ^ (n - 191)) 0).1
  else if n ≤ 239 then (roundRat f .rne true 1 (2 ^ (n - 223)) 0).1
  else match n with
    | 240 => fpZero f true
    | 241 => fpInf f false
    | 242 => fpInf f true
    | _ => (roundRat f .rne false (constTable.getD (n - 243) 0) 1 (-192)).1

/-- Entry k:n as element bits of a type. -/
def constBits (t : Typ) (n : Nat) : Nat :=
  if t.isFp then constFp (fmtOf t) n
  else match t with
    | .tm24 => tm24Of (constInt n)
    | .untyped => lowBits 64 (constInt n)
    | t => lowBits (8 * t.size) (constInt n)

/-! Scalar sources and destinations. -/

/-- The logical core number, and the number of cores granted to the context (R64). -/
def lcWord (s : State) : W64 := BitVec.ofNat 64 s.here.cx.lc
def ncWord (s : State) : W64 := BitVec.ofNat 64 (s.nc s.here.cx.ctx)

/-- A scalar source read by a type (R64, R67, R68); registers give all 64 bits. DESIGN CHOICE (log 99): in a residual line outside the
back-map, where no original slot is recorded, a pc operand reads 0xFFFF_FFFF_FFFF, as the fault packet does (R61). -/
def rdT (s : State) (three : Bool) (f : Fields) (t : Typ) (o : Operand) : W64 :=
  match o with
  | .s n => s.bank.rs n
  | .ls => s.bank.ls
  | .pc => (originOf s s.here s.bank.pc).pc
  | .lc => lcWord s
  | .nc => ncWord s
  | .imm => BitVec.ofNat 64 (immBits three f t)
  | .k n => BitVec.ofNat 64 (constBits t n.val)
  | _ => 0

/-- A source of a 64-bit integer op, or one that an op reads as a 64-bit integer (log 9). -/
def rd (s : State) (f : Fields) (o : Operand) : W64 := rdT s false f .s64 o
/-- The same where the op requires c3. -/
def rd3 (s : State) (f : Fields) (o : Operand) : W64 := rdT s true f .s64 o

/-- A predicate source, all bits. -/
def rdP (s : State) (o : Operand) : PBits :=
  match o with
  | .p n => s.bank.rp n
  | _ => 0

/-- Write a scalar result to d and ls (R123); a materialising slot leaves ls alone (R357). -/
def wres (s : State) (d : Operand) (x : W64) : State :=
  let b := s.bank
  if (originOf s s.here b.pc).mater then s.setBank (b.wd d x)
  else s.setBank { b.wd d x with ls := x }

/-- Write a predicate destination. -/
def wpred (s : State) (d : Operand) (x : PBits) : State :=
  match d with
  | .p n => s.setBank (s.bank.wp n x)
  | _ => s

/-- Every bit of a predicate set to one result (R232). -/
def splatP (b : Bool) : PBits := if b then BitVec.allOnes 128 else 0

/-! Memory operands (R25, R192). -/

/-- EA := (sB + sX + imm) mod 2^64. -/
def effAddr (s : State) (f : Fields) : Nat :=
  (rd s f f.opa + rd s f f.opb + BitVec.ofInt 64 (immI false f)).toNat
/-- [sB + d], where opb carries another operand. -/
def baseAddr (s : State) (f : Fields) : Nat := (rd s f f.opa + BitVec.ofInt 64 (immI false f)).toNat
def baseAddr3 (s : State) (f : Fields) : Nat := (rd s f f.opa + BitVec.ofInt 64 (immI true f)).toNat

end Sys2Proof.Machine
end

