-- ==== Sys2Proof/Machine/Flags.lean ====
section
/-! DEFINITION. Conditions, saturation and the results of integer and scalar FP arithmetic (R95, R126-R128, R133). -/

namespace Sys2Proof.Machine

/-- Integer conditions 0 to 5 (R126, R242). -/
def intCond (c : Nat) (a b : Int) : Bool :=
  match c with
  | 0 => a == b
  | 1 => a != b
  | 2 => decide (a < b)
  | 3 => decide (b ≤ a)
  | 4 => decide (a ≤ b)
  | _ => decide (b < a)

/-- An exact result wrapped or clamped to n bits of a signed or natural type (R95). -/
def narrow (t : Typ) (sat : Bool) (x : Int) : Nat :=
  let (lo, hi) := intRange t
  lowBits (8 * t.size) (if sat then clamp lo hi x else x)

def narrow64 (sat : Bool) (x : Int) : W64 := BitVec.ofNat 64 (narrow .s64 sat x)

/-- SHL with its clamp (R126): the exact shifted value decides. -/
def shlW (sat : Bool) (a : W64) (n : Nat) : W64 := narrow64 sat (a.toInt * 2 ^ n)

/-- R127. -/
def divW (sat : Bool) (a b : W64) : W64 := if b = 0 then BitVec.allOnes 64 else narrow64 sat (a.toInt.tdiv b.toInt)
def divnW (a b : W64) : W64 := if b = 0 then BitVec.allOnes 64 else BitVec.ofNat 64 (a.toNat / b.toNat)
def remW (a b : W64) : W64 := if b = 0 then a else BitVec.ofInt 64 (a.toInt.tmod b.toInt)
def remnW (a b : W64) : W64 := if b = 0 then a else BitVec.ofNat 64 (a.toNat % b.toNat)

def clzGo (a : Nat) : Nat → Nat
  | 0 => 0
  | n + 1 => if a / 2 ^ n % 2 = 1 then 0 else clzGo a n + 1
def clzW (a : W64) : W64 := BitVec.ofNat 64 (clzGo a.toNat 64)

def ctzGo (a : Nat) : Nat → Nat
  | 0 => 0
  | n + 1 => if a % 2 = 1 then 0 else ctzGo (a / 2) n + 1
def ctzW (a : W64) : W64 := BitVec.ofNat 64 (ctzGo a.toNat 64)

def popGo (a : Nat) : Nat → Nat
  | 0 => 0
  | n + 1 => a % 2 + popGo (a / 2) n
def popW (a : W64) : W64 := BitVec.ofNat 64 (popGo a.toNat 64)

/-- A field specification (R128). -/
def fieldLo (x : W64) : Nat := bits x 0 6
def fieldW (x : W64) : Nat := bits x 8 6 + 1

def bfxW (sx : Bool) (a x : W64) : W64 :=
  let v := a.toNat / 2 ^ fieldLo x % 2 ^ fieldW x
  if sx then BitVec.ofInt 64 (toSigned (fieldW x) v) else BitVec.ofNat 64 v

def bfiW (a b x : W64) : W64 :=
  let lo := fieldLo x
  let mask : W64 := BitVec.ofNat 64 ((2 ^ fieldW x - 1) * 2 ^ lo)
  (a &&& ~~~ mask) ||| (BitVec.ofNat 64 (b.toNat * 2 ^ lo) &&& mask)

/-- PLOG's truth table on one bit, and on all bits (R129, R232). -/
def plogBits (t : Nat) (a b c : PBits) : PBits :=
  let pick (n : Nat) (x y z : PBits) : PBits := if t / 2 ^ n % 2 = 1 then x &&& y &&& z else 0
  pick 7 a b c ||| pick 6 a b (~~~ c) ||| pick 5 a (~~~ b) c ||| pick 4 a (~~~ b) (~~~ c)
    ||| pick 3 (~~~ a) b c ||| pick 2 (~~~ a) b (~~~ c) ||| pick 1 (~~~ a) (~~~ b) c ||| pick 0 (~~~ a) (~~~ b) (~~~ c)

/-- An FP operand's low bits (R84). -/
def fpBits (t : Typ) (w : W64) : Nat := w.toNat % 2 ^ (8 * t.size)

end Sys2Proof.Machine
end

