-- ==== Sys2Proof/Machine/Messages.lean ====
section
/-! DEFINITION. Messages at a core: the inbox and overflow area, bounces, channels, the send buffer and the quantum
collector's intake (R57, R102-R107, R137-R146). -/

namespace Sys2Proof.Machine

/-! Inbox (R104, R105). Slots 60 to 63 are kept for ch15, whose messages may use the others too (log 18). -/

/-- Which free slot an arrival takes is left open; here it is the first of those tried (log 90). -/
def firstFree (x : CtxCore) (l : List Nat) : Option Nat := l.find? fun n => !(x.slots.any fun t => t.n == n)

/-- A free ch15 slot. -/
def freeSlot15 (x : CtxCore) : Option Nat := firstFree x [60, 61, 62, 63]

/-- A free slot that a message may use. -/
def freeSlot (x : CtxCore) (ch15 : Bool) : Option Nat := firstFree x ((if ch15 then [60, 61, 62, 63] else []) ++ List.range 60)

def Held.is15 (h : Held) : Bool := h.msg.ch == 15#4

/-- A message takes a slot; slots are listed oldest first. -/
def takeSlot (x : CtxCore) (n : Nat) (h : Held) : CtxCore := { x with slots := x.slots ++ [{ n := n, held := h }] }

def spill (h : Held) : Held := { h with msg := { h.msg with spilled := true } }

/-- The place of the oldest ch15 message in the overflow area. -/
def first15 : List Held → Option Nat
  | [] => none
  | h :: t => if h.is15 then some 0 else (first15 t).map (· + 1)

/-- One message of the overflow area moves into a free slot, where one may (R105): the oldest ch15 message into a ch15 slot,
else the head. -/
def moveOne (x : CtxCore) : Option CtxCore :=
  let m15 := match first15 x.overflow, freeSlot15 x with
    | some k, some n => (x.overflow[k]?).map fun h => takeSlot { x with overflow := eraseAt x.overflow k } n (spill h)
    | _, _ => none
  match m15 with
  | some y => some y
  | none => match x.overflow with
    | [] => none
    | h :: t => (freeSlot x h.is15).map fun n => takeSlot { x with overflow := t } n (spill h)

def moveAll : Nat → CtxCore → CtxCore
  | 0, x => x
  | n + 1, x => match moveOne x with
    | some y => moveAll n y
    | none => x

/-- Freed slots take what waits in the overflow area. -/
def refill (x : CtxCore) : CtxCore := moveAll 64 x

/-- Place an arriving message (R105); none where the overflow area is full and it bounces: the core has one area of 1,024 messages, of
which those of its other contexts take `others` (R171; log 80). -/
def placeMsg (others : Nat) (x : CtxCore) (h : Held) : Option CtxCore :=
  let direct := if x.overflow.isEmpty then freeSlot x h.is15 else if h.is15 then freeSlot15 x else none
  match direct with
  | some n => some (takeSlot x n h)
  | none => if x.overflow.length + others < 1024 then some { x with overflow := x.overflow ++ [h] } else none

/-- A bounce return (R107). -/
def bounceMsg (m : Msg) (refuser : BitVec 16) : Msg :=
  { m with kind := 9#4, bounced := true, spilled := false, ch := 15#4, origch := m.ch, sender := refuser }

/-! Channels (R102). -/

def chanHandler (e : W64) : W64 := zextW 48 e
def chanEntry (state prio : Nat) (handler : W64) : W64 :=
  BitVec.ofNat 64 (state % 4 * 2 ^ 62 + prio % 8 * 2 ^ 59 + bits handler 0 48)

def Core.chan (c : Core) (n : Nat) : W64 := c.cx.chans.getD n 0
def Core.setChan (c : Core) (n : Nat) (e : W64) : Core :=
  if h : n < 16 then { c with cx := { c.cx with chans := c.cx.chans.set n e } } else c

/-! Sending (R57, R137-R140, R146). -/

/-- Payload registers from d on, cut to len bytes (R137). -/
def payloadOf (b : Bank) (d len : Nat) : Vector W64 7 :=
  Vector.ofFn fun (k : Fin 7) => BitVec.ofNat 64 ((b.rsAt (d + k.val)).toNat % 2 ^ (8 * min 8 (len - 8 * k.val)))

/-- Bytes from registers d on. -/
def regBytes (b : Bank) (d len : Nat) : List Byte :=
  ((List.range ((len + 7) / 8)).flatMap fun k => toBytes 8 (b.rsAt (d + k)).toNat).take len

/-- The register number of a payload field. -/
def regNo : Operand → Nat
  | .s n => n.val
  | _ => 0

/-- Hand a request to the quantum collector (R57). -/
def collect (s : State) (a : Ask) : State :=
  let c := s.here
  let s := s.setCore { c with nextId := c.nextId + 1 }
  s.modCtx c.cx.ctx fun x =>
    { x with collected := x.collected ++ [{ lc := c.cx.lc, phys := c.phys, id := c.nextId, ask := a }] }

/-- A request leaves through the send buffer, or goes to the collector of a deterministic context; a full buffer stalls
(R146). -/
def sendOut (s : State) (o : Out) : Eff :=
  let c := s.here
  if s.det c.cx.ctx then .done (collect s (.out o))
  else if 8 ≤ c.sending.length then .stall
  else .done (s.setCore { c with sending := c.sending ++ [{ id := c.nextId, out := o }], nextId := c.nextId + 1 })

/-- A trace record of a message, offer or collective request (R426). -/
def traceSend (s : State) (dst ch : Nat) : State :=
  traceIf s 2 s.cur s.here.rb s.bank.pc 4 (BitVec.ofNat 64 (dst % 65536 + ch * 65536))

/-- The same for a request to a unit: the manual gives it no destination lc or channel, so a free value stands there (log 5). -/
def traceUnit (s : State) : State :=
  let x := (Config.freeWord s.fresh).toNat
  traceSend s.drawn (x % 65536) (x / 65536 % 16)

/-- A request with a channel and no destination lc. -/
def traceChan (s : State) (ch : Nat) : State := traceSend s.drawn ((Config.freeWord s.fresh).toNat % 65536) ch

/-- The descriptor of SEND and SPAWN is legal (R138). -/
def sendDescOk (b : W64) : Bool :=
  bits b 32 32 == 0 && bits b 10 6 == 0 && bits b 4 6 ≤ 56 && bits b 0 4 != 15

def msgFault (a b : W64) : FaultInfo := { cause := 12, s5 := 0, s6 := a, s7 := b }

/-- Send a message of a kind to a logical core with the fields of R137. -/
def sendTo (s : State) (f : Fields) (kind dst : Nat) (desc : W64) : Eff :=
  let len := bits desc 4 6
  if s.here.waits (sRange (regNo f.dst) ((len + 7) / 8)) then .stall
  else
    let m := mkMsg kind len (BitVec.ofNat 4 (bits desc 0 4)) (BitVec.ofNat 16 (bits desc 16 16))
      (BitVec.ofNat 16 s.here.cx.lc) (payloadOf s.bank (regNo f.dst) len)
    sendOut (traceSend s dst (bits desc 0 4)) (.msg dst m)

end Sys2Proof.Machine
end

