-- ==== Sys2Proof/Machine/Order.lean ====
section
/-! DEFINITION. The ordering machine's conditions on one core's outstanding operations and engine commands: what must have
happened before a load performs, a store leaves or applies, a release takes effect (R41-R53, R183, R200, R389). -/

namespace Sys2Proof.Machine

/-! Kinds of operations, by their instruction. -/

def Op.isLoad (o : Op) : Bool :=
  match o.ins with
  | .ld _ | .ldf _ | .pload _ => true
  | .spqry f => f.mod = 0
  | _ => false
/-- A non-temporal store to local memory is an ordinary store (R190), and a device access is none (R194). -/
def Op.isNt (o : Op) : Bool :=
  match o.ins with
  | .st f => f.mod = 1 && !o.mmio && !(o.parts.all Part.isLocal)
  | .stv _ | .stvs _ | .cpy _ | .cpyg _ | .cpyx _ | .cpyl _ | .cpyset _ => true   -- pool entries of an engine (R190)
  | _ => false
/-- Store queue entries: stores, SETE, DISCARD (R43, R202, R212). -/
def Op.isStore (o : Op) : Bool :=
  match o.ins with
  | .st _ => !o.isNt && !o.collected
  | .sete _ | .discard _ => true
  | _ => false
/-- Stores that have not left the core: those of the queue, and behind them the lines of a DISCARD that are still to enter it (R219). -/
def Core.storesQueued (c : Core) : Nat := c.ops.foldl (fun n o => if o.isStore && o.st == .pending then n + 1 else n) 0

def Op.isSete (o : Op) : Bool :=
  match o.ins with
  | .sete _ => true
  | _ => false
def Op.isSt (o : Op) : Bool :=
  match o.ins with
  | .st _ => true
  | _ => false
def Op.isWatch (o : Op) : Bool :=
  match o.ins with
  | .watch _ => true
  | _ => false
def Op.isAtomic (o : Op) : Bool :=
  match o.ins with
  | .amo _ | .cas _ | .amom _ => true
  | _ => false
def Op.isAmom (o : Op) : Bool :=
  match o.ins with
  | .amom _ => true
  | _ => false
def Op.isPload (o : Op) : Bool :=
  match o.ins with
  | .pload _ => true
  | _ => false
def Op.isClaim (o : Op) : Bool :=
  match o.ins with
  | .claim _ => true
  | _ => false
/-- A store that is a release (R51): ST `.rel`, a kick, a DBG_ACTION write. -/
def Op.isRelStore (o : Op) : Bool :=
  match o.ins with
  | .st f => f.mod = 2 || o.mmio
  | _ => false
/-- Fences that hold back younger accesses (R53, R209): kinds full and acq. -/
def Op.isAcqFence (o : Op) : Bool :=
  match o.ins with
  | .fence f => f.imm ≠ 2#32
  | _ => false
/-- Fences that are releases (R51): kinds full and rel. -/
def Op.isRelFence (o : Op) : Bool :=
  match o.ins with
  | .fence f => f.imm ≠ 1#32
  | _ => false
/-- Acquires that have not completed (R52): such fences, CLAIM, and LDF, but for one that younger accesses have gone before: it acquires
nothing, and holds the value that it can return as empty (R201; log 21). -/
def Op.isAcquire (o : Op) : Bool :=
  o.st != .done && (o.isAcqFence || match o.ins with
    | .claim _ => true
    | .ldf _ => o.res.isEmpty
    | _ => false)
def Op.isNtdrain (o : Op) : Bool :=
  match o.ins with
  | .ntdrain _ => true
  | _ => false

def Op.allDone (o : Op) : Bool := o.parts.all Part.done

/-- Line of a key (R20). -/
def lineOf (key : Nat) : Nat := key / 128

def Op.touchesLine (o : Op) (l : Nat) : Bool := o.parts.any fun p => !p.done && (lineOf p.key ≤ l && l ≤ lineOf (p.key + p.len - 1))

def overlap (p q : Part) : Bool := p.key < q.key + q.len && q.key < p.key + p.len

/-- The same by address, for an access whose keys are not known yet. -/
def overlapVa (p q : Part) : Bool := p.va < q.va + q.len && q.va < p.va + p.len

/-! Engine commands: what they do to memory (R51, R53, R200, R320). -/

/-- Commands that read or write memory. -/
def Cmd.usesMem (k : Cmd) : Bool :=
  match k.ins with
  | .ldv _ | .ldvs _ | .ldvg _ | .stv _ | .stvs _ | .stvx _ | .cpy _ | .cpyg _ | .cpyx _ | .cpyl _ | .cpyset _
  | .wload _ | .wscl _ | .wrun _ | .wdrain _ | .gbld _ | .gmm _ | .gst _ => true
  | _ => false

/-- Memory commands of the vector engine, and of the gear engine. -/
def Cmd.isVecMem (k : Cmd) : Bool :=
  match k.ins with
  | .ldv _ | .ldvs _ | .ldvg _ | .stv _ | .stvs _ | .stvx _ => true
  | _ => false
def Cmd.isGearMem (k : Cmd) : Bool :=
  match k.ins with
  | .gbld _ | .gmm _ | .gst _ => true
  | _ => false

/-- Does some engine command older than a place in program order still have writes to come? Weft and gear commands that
write no memory do not count, nor does the drain buffer's GST once it has ended (its stores are asked for apart). -/
def Cmd.writesMem (k : Cmd) : Bool :=
  match k.ins with
  | .stv _ | .stvs _ | .stvx _ | .cpy _ | .cpyg _ | .cpyx _ | .cpyl _ | .cpyset _ | .wdrain _ | .gst _ => true
  | _ => false

/-- The gear drain buffer holds rows to be stored (R302: drain word 0 <63>). -/
def Core.draining (c : Core) : Bool := bit c.cx.gear.drain0 63

/-- A GST of a pair in its first pass: the second is still to come (R317). -/
def Exec.passLeft (x : Exec) : Bool :=
  match x.cmd.ins with
  | .gst _ => x.cmd.td == 12#4 && x.row == 0
  | _ => false

/-- An executing command has made every write that is not a pool entry; one whose events are not reported yet may have a pass to
come. -/
def Exec.wrote (x : Exec) : Bool := x.phase == .ending || (x.phase == .faulted && !(x.passLeft && x.fault.any fun i => i.cause == 13))

def Core.engWritesBefore (c : Core) (id : Nat) : Bool :=
  let old (k : Cmd) : Bool := k.id < id && k.writesMem
  (engs.any fun e => (c.eng e).waiting.any old || match (c.eng e).run with
    | some x => old x.cmd && !x.wrote
    | none => false) || (c.draining && c.cx.gear.did < id)

/-- Older engine commands of a kind whose reads or writes are still to come, those of a drain buffer's GST among them. -/
def Core.engOpen (c : Core) (id : Nat) (kind : Cmd → Bool) : Bool :=
  engs.any fun e => (c.eng e).waiting.any (fun k => k.id < id && kind k) || match (c.eng e).run with
    | some x => x.cmd.id < id && kind x.cmd && !x.wrote
    | none => false

/-! When a release of the core at a place in program order takes effect (R47, R51, R53, R210). -/

def Core.opsBefore (c : Core) (id : Nat) : List Op := c.ops.filter fun o => o.id < id

/-- Engine commands that may still put entries into the non-temporal pool (R199, R261). -/
def Cmd.mayPool (k : Cmd) : Bool :=
  match k.ins with
  | .stv f | .stvs f => f.mod == 1
  | .cpy _ | .cpyg _ | .cpyx _ | .cpyl _ | .cpyset _ => true
  | _ => false

/-- An NTDRAIN has completed when no older pool entry is left or to come (R210). -/
def Core.ntdrained (c : Core) (id : Nat) : Bool :=
  let old (k : Cmd) : Bool := k.id < id && k.mayPool
  !((c.opsBefore id).any fun o => o.isNt && o.st != .done)
    && engs.all fun e => !((c.eng e).waiting.any old) && match (c.eng e).run with
      | some x => !old x.cmd || x.wrote
      | none => true

/-- Every older store of the core has been applied, every older engine write made, and every older NTDRAIN has completed (R51, R210). -/
def Core.storesDone (c : Core) (id : Nat) : Bool :=
  !((c.opsBefore id).any fun o => o.isStore && o.st != .done)
    && !c.engWritesBefore id
    && (c.opsBefore id).all fun o => !o.isNtdrain || c.ntdrained o.id

/-- An AMOM also follows the core's older loads, AMOs and CASs, but not its older AMOMs (R55, R226; log 67). What the quantum collector
holds is served after every store of the quantum, so that no release waits for it (R56, R57). -/
def Core.releasedAmom (c : Core) (id : Nat) : Bool :=
  !((c.opsBefore id).any fun o => (o.isAtomic && !o.isAmom || o.isLoad) && !o.collected && o.st != .done) && c.storesDone id

/-- Every other release follows all the core's older loads and atomics, so that a program ordered by it is sequentially consistent
(R55; log 67). -/
def Core.released (c : Core) (id : Nat) : Bool :=
  !((c.opsBefore id).any fun o => o.isAmom && !o.collected && o.st != .done) && c.releasedAmom id

/-- A fence of core scope waits for accesses to the core's own local memory and for engine writes (R53, R210). -/
def Core.releasedCore (c : Core) (id : Nat) : Bool :=
  !((c.opsBefore id).any fun o =>
      (o.isStore || o.isAtomic || o.isLoad) && !o.collected && o.st != .done && !o.allDone && o.parts.any (Part.isOwn c.phys))
    && !c.engWritesBefore id
    && (c.opsBefore id).all fun o => !o.isNtdrain || c.ntdrained o.id

/-- The acquire part of a fence completes when every older load and atomic has performed (R52). -/
def Core.loadsDone (c : Core) (id : Nat) : Bool :=
  !((c.opsBefore id).any fun o => (o.isLoad || o.isAtomic) && o.st != .done)

/-- May this fence complete (R51-R53)? Every kind orders the vector engine's older accesses (R200), rel and full the gear
engine's (R320), and no access at all crosses a full one (R53). -/
def Core.fenceReady (c : Core) (o : Op) : Bool :=
  match o.ins with
  | .fence f =>
    let rel := f.imm = 1#32 || (if f.mod = 0 then c.releasedCore o.id else c.released o.id)
    let acq := f.imm = 2#32 || c.loadsDone o.id
    let eng := !c.engOpen o.id fun k => k.isVecMem || (f.imm ≠ 1#32 && k.isGearMem) || (f.imm = 0#32 && k.usesMem)
    rel && acq && eng
  | _ => false

/-- A younger memory instruction stalls at issue behind a fence of kind acq or full (R209). -/
def Core.fenced (c : Core) : Bool := c.ops.any fun o => o.isAcqFence

/-! Loads, stores and atomics (R41-R46). -/

/-- No older acquire of the core is still to complete (R52). -/
def Core.acquired (c : Core) (id : Nat) : Bool := !((c.opsBefore id).any Op.isAcquire)

/-- A memory access issues once its checks have passed, but not behind a CLAIM that is still to be served, and in a deterministic context
behind no acquire that has not completed: so no access that has been checked waits for what a keeper or the collector does later, and
step 2 of a boundary finds nothing held back (R52, R56, R178; log 68). -/
def accessHeld (s : State) : Bool := s.here.ops.any fun o => o.isAcquire && (o.isClaim || s.det s.here.cx.ctx)

/-- The same for a command of a queued engine, which in free mode waits in its queue instead (R209). -/
def commandHeld (s : State) : Bool := s.det s.here.cx.ctx && s.here.ops.any Op.isAcquire

/-- An older fence of kind rel or full keeps its place in the store queue's order: younger stores leave behind it (R51), and the
core's younger atomics stay behind it too (log 67). -/
def Core.relFenced (c : Core) (id : Nat) : Bool := (c.opsBefore id).any Op.isRelFence

/-- The byte that an operation writes at a key, if it is still to write it. -/
def Op.byteAt (o : Op) (key : Nat) : Option PByte :=
  o.parts.findSome? fun p => if !p.done && p.key ≤ key && key < p.key + p.len then o.buf[p.off + (key - p.key)]? else none

/-- The runs of bytes that it is still to write, with its place. -/
def Op.runs (o : Op) : Nat × List (Nat × List PByte) :=
  (o.id, (o.parts.filter fun p => !p.done).map fun p => (p.key, sub o.buf p.off p.len))

def Op.touches (o : Op) (key : Nat) : Bool := o.parts.any fun p => !p.done && p.key ≤ key && key < p.key + p.len

/-- The youngest of some operations that is still to touch a byte. -/
def youngestAt (ops : List Op) (key : Nat) : Option Op := ops.foldl (fun best o =>
  if !o.touches key then best
  else match best with
    | some b => if b.id < o.id then some o else best
    | none => some o) none

def partKeys (p : Part) : List Nat := (List.range p.len).map fun i => p.key + i

/-- The byte that the youngest of some stores is still to write at a key. -/
def storeByte (ops : List Op) (key : Nat) : Option Byte := ((youngestAt ops key).bind fun o => o.byteAt key).map PByte.b

/-- How a part may perform now: from memory, from the store queue by byte, or not yet. -/
inductive Fwd
  | memory | bytes (l : List PByte) | wait
  deriving DecidableEq, Repr

/-- What a load takes from the core's older operations that have not been applied (R44). All its parts `ps` count: where every byte
of it is covered, by stores that are still in the queue, part `p` takes the youngest; otherwise it waits for what it overlaps. -/
def forwardFree (older : List Op) (ps : List Part) (p : Part) : Fwd :=
  let from_ (key : Nat) : Option PByte := (youngestAt older key).bind fun o =>
    if o.isSt && o.st == .pending then o.byteAt key else none
  if !(ps.any fun q => !q.done && (partKeys q).any fun key => older.any fun o => o.touches key) then .memory
  else if ps.all fun q => q.done || (partKeys q).all fun key => (from_ key).isSome then .bytes ((partKeys p).filterMap from_)
  else .wait

/-- The same in a deterministic context (R58): every byte that a store of the quantum covers comes from the youngest such store,
applied or not, and the others at once from what the access sees of memory. -/
def forwardDet (s : State) (c : Core) (id : Nat) (older : List Op) (p : Part) : Fwd :=
  let byte (key : Nat) : Option (Nat × PByte) := (youngestAt older key).bind fun o => (o.byteAt key).map fun b => (o.id, b)
  if (partKeys p).any fun key => older.any fun o => o.touches key && o.isAtomic then .wait
  else if !((partKeys p).any fun key => (byte key).isSome) then .memory
  else .bytes (((partKeys p).zip (readPart s c.phys id p)).map fun (key, m) => match byte key, redoPlace s c.phys id key with
    | some (n, b), some (r, _) => if r < n then b else m
    | some (_, b), none => b
    | none, _ => m)

/-- How part p of an access may read now, `ps` all parts of it. A DISCARD of a deterministic context is not seen in its quantum,
nor an atomic that the collector holds. An atomic of the core to these bytes is waited for, as R55 asks of one core's accesses; a
SETE by an LDF alone, `sync` (R202). A byte taken from a store has the mark that its granule gets: a store of less than the granule
leaves its poison (R439). -/
def forward (s : State) (c : Core) (det : Bool) (id : Nat) (sync : Bool) (ps : List Part) (p : Part) : Fwd :=
  let older := (c.opsBefore id).filter fun o => o.st != .done && !o.mmio
  let hit (o : Op) : Bool := (partKeys p).any o.touches
  if sync && older.any fun o => o.isSete && hit o then .wait
  else match (if det then forwardDet s c id (older.filter fun o => (o.isStore && o.isSt) || o.isNt || (o.isAtomic && !o.collected)) p
      else forwardFree (older.filter fun o => (o.isStore && !o.isSete) || o.isAtomic) ps p) with
    | .bytes l => .bytes (((partKeys p).zip l).map fun (key, b) => { b with p := poisPast s key (seenRuns s c.phys id ++ older.map Op.runs) })
    | w => w

/-- The parts of an access with their keys, those of a late load as its address translates now. -/
def Op.keyed (s : State) (c : Core) (o : Op) : List Part :=
  if o.late then o.parts.map fun p => match keyOf s c .load p.len p.va with
    | .ok key => { p with key := key }
    | .error _ => p
  else o.parts

/-- An older load of the core to some byte of these parts has parts to perform (R41). A single core sees its own accesses in
program order (R55), so it must not read what the core writes after it either. -/
def Core.loadBefore (s : State) (c : Core) (id : Nat) (ps : List Part) : Bool :=
  (c.opsBefore id).any fun q => q.isLoad && q.st != .done && !q.allDone
    && (q.keyed s c).any fun r => ps.any fun p => overlap r p || q.late && overlapVa r p

/-- A load's part may perform: older loads to a byte of the load have performed, older acquires have completed, device accesses
are in order (R41, R194). -/
def Core.mayLoad (s : State) (c : Core) (o : Op) : Bool :=
  c.acquired o.id
    && !c.loadBefore s o.id (o.keyed s c)
    && (!o.mmio || !((c.opsBefore o.id).any fun q => q.mmio && q.st != .done))

/-- The store that leaves next: the oldest store still in the queue (R43). -/
def Core.nextStore (c : Core) : Option Op := c.ops.find? fun o => o.isStore && o.st == .pending

/-- A part of a left store or an atomic may apply: older stores and atomics of the core to its line have applied, its older loads
of the same bytes have performed, older acquires have completed (R43, R46, R52, R55, R389). -/
def Core.mayApply (s : State) (c : Core) (o : Op) (p : Part) : Bool :=
  c.acquired o.id && !c.loadBefore s o.id [p]
    && !(o.isAtomic && c.relFenced o.id && !s.det c.cx.ctx)
    && !((c.opsBefore o.id).any fun q => (q.isStore || q.isAtomic && !q.collected) && q.st != .done && q.touchesLine (lineOf p.key))

/-! Requests to other cores' homes (R219, R390). -/

/-- A key of another core's local memory or home slice. -/
def remoteKey (s : State) (c : Core) (key : Nat) : Bool :=
  if isLocalKey key then localOwner key != c.phys
  else key < 0x20000000000 && homePhys s.width key != c.phys

/-- A part that a request to another core's home serves; the block that fills an own stash frame needs none. -/
def remotePart (s : State) (c : Core) (p : Part) : Bool :=
  remoteKey s c p.key && !((ownOffset p.va).any fun o => (frameAt c o).any Frame.filled)

/-- The requests of some parts: one for each 32-byte sector (R219; log 86). -/
def sectors (ps : List Part) : Nat := (ps.foldl (fun l p => nins l (p.key / 32)) []).length

/-- Requests to other cores' homes for the parts of an access that remain. -/
def remoteParts (s : State) (c : Core) (ps : List Part) : Nat := sectors (ps.filter fun p => !p.done && remotePart s c p)

/-- Requests to a region's keeper (R213). -/
def Op.isCap (o : Op) : Bool :=
  match o.ins with
  | .capgive _ | .sealCap _ | .claim _ | .rmode _ => true
  | _ => false

/-- Such a request goes to the home of the region's first 4 KiB (R175). -/
def keeperPart (s : State) (c : Core) (base : Nat) : List Part :=
  (translate s c base).toList.map fun (pa, _) => { va := base, key := pa, len := 8, off := 0, done := false }

/-- The parts of an operation whose requests wait for their replies: of a store that has left, of a load or atomic that has issued and
that no older access of the core keeps from performing, of pool entries sent, of a WATCH of a free-mode context, and a keeper's request
that has been sent. What the quantum collector holds is not sent. -/
def Op.outstanding (s : State) (c : Core) (o : Op) : List Part :=
  if o.isCap then (if o.st == .left then keeperPart s c o.addr else [])
  else if o.st == .left then o.parts
  else if o.st != .pending || o.collected then []
  else if o.isLoad then
    let ps := o.keyed s c
    if c.mayLoad s o then ps.filter fun p => forward s c (s.det c.cx.ctx) o.id false ps p != .wait else []
  else if o.isAtomic then o.parts.filter (c.mayApply s o)
  else if o.isNt then o.parts.filter Part.sent
  else if o.isWatch && !s.det c.cx.ctx then o.parts
  else []

/-- A core's outstanding requests (R390), those of its engines among them. -/
def netCount (s : State) (c : Core) : Nat :=
  c.ops.foldl (fun n o => n + remoteParts s c (o.outstanding s c)) 0
    + engs.foldl (fun n e => match (c.eng e).run with
      | some x => n + remoteParts s c ((x.rd ++ x.wr).filter Part.sent)
      | none => n) c.cx.gear.dsent.length

/-- A request with these parts finds the window full (R390): own local memory and the own home slice do not count. -/
def netFull (s : State) (c : Core) (ps : List Part) : Bool := remoteParts s c ps != 0 && c.netWindow ≤ netCount s c

/-- The table line that a translation reads last, where the core's TLB misses it (R173): the walk is one request of the core, which the
home of that line answers (log 86). -/
def missPart (s : State) (c : Core) (va : Nat) : List Part :=
  if 0x800000000000 ≤ va || (tlbHit c c.cx.ctx va).isSome then []
  else match s.ctx? c.cx.ctx with
    | none => []
    | some x =>
      let e0 := (heldEntry s c false va).getD (rootEntry s x.root va)
      let e1 := (heldEntry s c true va).getD (midEntry s e0 va)
      let line (a : Nat) : List Part := [{ va := va, key := a, len := 8, off := 0, done := false }]
      if bit e1 0 && !bit e1 1 then line (bits e1 8 34 * 256 + 8 * (va / 2 ^ 16 % 32))
      else if (heldEntry s c true va).isSome then []
      else if (heldEntry s c false va).isSome || rootOk e0 then line (bits e0 8 34 * 256 + 8 * (va / 2 ^ 21 % 8192))
      else line (x.root + 8 * (va / 2 ^ 34 % 8192))

/-- An access at an address waits for room for its walk's request. -/
def walkHeld (s : State) (c : Core) (va : Nat) : Bool := netFull s c (missPart s c va)

/-- What a memory access at an address answers where it is held. -/
def Eff.held (s : State) (va : Nat) : Eff → Eff
  | .done t => if accessHeld s || walkHeld s s.here va then .stall else .done t
  | e => e

/-- The reply to a request that left the core (R390, R422, R428): its delay and its congestion mark are the fabric's, so free
values (log 7). The sum and the count stop at their greatest values. -/
def countReply (s : State) (phys : Nat) (p : Part) : State :=
  let c := s.core phys
  let key := p.key
  if !remotePart s c p then s
  else
    let h := if isLocalKey key then localOwner key else homePhys s.width key
    let i := (h ^^^ (h / 64) ^^^ (h / 4096)) % 64
    let w := vget c.dacc i 0
    let free := Config.freeWord s.fresh
    let w := BitVec.ofNat 64 (min (bits w 0 40 + bits free 48 16) (2 ^ 40 - 1) + min (bits w 40 24 + 1) (2 ^ 24 - 1) * 2 ^ 40)
    let win := if bit free 47 then max 1 (c.netWindow / 2) else min 64 (c.netWindow + 1)
    s.drawn.setCore { c with dacc := vset c.dacc i w, netWindow := win }

/-- The replies to some requests of the core. -/
def countReplies (s : State) (phys : Nat) (ps : List Part) : State := ps.foldl (fun s p => countReply s phys p) s

/-- Of the parts `ks` of a list, is there one whose request has still to leave? -/
def toSend (s : State) (c : Core) (l : List Part) (ks : List Nat) : Bool :=
  ks.any fun j => (l[j]?).any fun p => !p.sent && remotePart s c p

/-- Their requests leave. -/
def sentParts (l : List Part) (ks : List Nat) : List Part :=
  ks.foldl (fun l j => match l[j]? with
    | some p => setAt l j { p with sent := true }
    | none => l) l

/-- With the parts `ks` of a list performed, has every part of this one's sector performed? -/
def lastInSector (l : List Part) (ks : List Nat) (p : Part) : Bool :=
  (List.range l.length).all fun j => ks.contains j || (l[j]?).all fun q => q.done || q.key / 32 != p.key / 32

/-! Changing one operation. -/

def Core.op? (c : Core) (id : Nat) : Option Op := c.ops.find? fun o => o.id == id
def Core.modOp (c : Core) (id : Nat) (g : Op → Op) : Core := { c with ops := mapIf (fun o => o.id == id) g c.ops }
def Core.dropOp (c : Core) (id : Nat) : Core := { c with ops := c.ops.filter fun o => o.id != id }

def Op.markPart (o : Op) (k : Nat) : Op :=
  match o.parts[k]? with
  | some p => { o with parts := setAt o.parts k { p with done := true } }
  | none => o

/-- The quantum collector holds the operation until the boundary (R57). -/
def collectOp (s : State) (id : Nat) : State :=
  let c := s.here
  s.modCtx c.cx.ctx fun x =>
    { x with collected := x.collected ++ [{ lc := c.cx.lc, phys := c.phys, id := id, ask := .op id }] }

end Sys2Proof.Machine
end

