-- ==== Sys2Proof/Machine/MmioMap.lean ====
section
/-! DEFINITION. The MMIO range: which unit an address belongs to and who may reach it (R154, R155, R194, R363, R395, R416,
R420, R440). -/

namespace Sys2Proof.Machine

/-- The units of the MMIO range, with the offset in the unit's page. -/
inductive MUnit
  | queue (n off : Nat)
  | driver (off : Nat)
  | errors (die off : Nat)
  | residual
  | debug (phys off : Nat)
  | nothing
  deriving DecidableEq, Repr

def mmioUnit (a : Nat) : MUnit :=
  if a < mmioBase then .nothing
  else if a < 0xFFF002000000 then .queue ((a - mmioBase) / 4096) (a % 4096)
  else if 0xFFF010000000 ≤ a && a < 0xFFF010001000 then .driver (a % 4096)
  else if 0xFFF020000000 ≤ a && a < 0xFFF020008000 then .errors ((a - 0xFFF020000000) / 4096) (a % 4096)
  else if 0xFFF400000000 ≤ a && a < 0xFFF480000000 then .residual
  else if 0xFFF800000000 ≤ a && a < 0xFFF800000000 + 37376 * 0x10000 then
    .debug ((a - 0xFFF800000000) / 0x10000) (a % 0x10000)
  else .nothing

/-- The image of a core that an accessor's context sees (R155): the running one or a switched-out one. -/
def imageOf (c : Core) (ctx : Nat) : Option CtxCore :=
  if c.cx.ctx = ctx then some c.cx else c.saved.find? fun x => x.ctx == ctx

/-- Is (ctx, lc) the supervisor of the physical core (R151, R155)? -/
def isSupervisor (s : State) (ctx lc phys : Nat) : Bool :=
  match imageOf (s.core phys) ctx with
  | some x => (s.ctx? ctx).isSome && supervisorOf s ctx x.lc == some lc
  | none => false
where
  supervisorOf (s : State) (ctx l : Nat) : Option Nat := (s.ctx? ctx).bind fun x => x.supv[l]?

/-- Does a context hold the core's debug capability by LDELEG (R420)? -/
def delegated (s : State) (ctx phys : Nat) : Bool := (s.core phys).loupe.deleg.toNat == 4096 + ctx

/-- The context and logical core of a party that is a core. -/
def partyCtx (s : State) (p : Nat) : Nat × Nat := ((s.core p).cx.ctx, (s.core p).cx.lc)

/-- May the party read or write the debug window at an offset (R155, R156, R421)? The image view is open only while the core
is frozen or the context switched out; LDELEG is written by the supervisor and firmware alone. The firewall of a selvedge core lets no
context through (R13). -/
def debugRight (s : State) (w : Party) (store : Bool) (phys off : Nat) : Bool :=
  let image (ctx : Nat) : Bool :=
    off ≥ 0xE000 || (if (s.core phys).cx.ctx = ctx then (s.core phys).cx.frz.frozen else (imageOf (s.core phys) ctx).isSome)
  match w with
  | .core p =>
    let (ctx, lc) := partyCtx s p
    let sup := isSupervisor s ctx lc phys
    isCompute s.width phys && (sup || delegated s ctx phys) && image ctx && (!store || off != 0xF850 || sup)
  | .firmware => image (s.core phys).cx.ctx
  | _ => false

/-- May the party access a register (R194, R395, R416, R440)? Queue numbers of one die occupy its 4 MiB, one page each. -/
def mmioRight (s : State) (w : Party) (store : Bool) (a : Nat) : Bool :=
  match mmioUnit a with
  | .queue n off => match w with
    | .core p => (off == 0 || off == 8 || off == 16) && ((s.ctx? (partyCtx s p).1).map fun x => x.kicks.contains n).getD false
    | .host | .driver | .firmware => true
  | .driver _ => match w with
    | .core _ => false
    | _ => true
  | .errors _ _ => match w with
    | .core _ => false
    | _ => !store
  | .debug p off => debugRight s w store p off
  | .residual | .nothing => false

/-- The check of a core's MMIO access at issue (R194): width and alignment, then the right. -/
def mmioCheck (s : State) (phys : Nat) (store : Bool) (size a : Nat) : Option FaultInfo :=
  let k : AK := if store then .store else .load
  if (size != 4 && size != 8) || a % size != 0 then some (addrFault a k size)
  else if mmioRight s (.core phys) store (a / 8 * 8) then none else some (accessFault a k size)

end Sys2Proof.Machine
end

