-- ==== Sys2Proof/Machine/ScalarMem.lean ====
section
/-! DEFINITION. Class 6, the scalar loads and stores (R191-R197). -/

namespace Sys2Proof.Machine

/-- Does an enabled watchpoint of the core cover the access (R423)? -/
def watchpointHit (c : Core) (ea len : Nat) (load store : Bool) : Bool :=
  c.loupe.wp.toList.any fun w =>
    let sz := 2 ^ bits w 48 3
    let base := bits w 0 48 / sz * sz
    bit w 53 && ((load && bit w 51) || (store && bit w 52)) && base < ea + len && ea < base + sz

/-- What every issued task-engine access leaves behind for the loupe (R426). -/
def traceAccess (s : State) (ea : Nat) : State := traceIf s 1 s.cur s.here.rb s.bank.pc 5 (BitVec.ofNat 64 ea)

/-- The same, with the watchpoints of an access to memory (R423). -/
def noteLine (s : State) (ea len : Nat) (load store : Bool) : State :=
  let s := traceAccess s ea
  if watchpointHit s.here ea len load store then
    s.setCore { s.here with loupe := { s.here.loupe with wpHit := true } }
  else s

/-- The reply to the walk of an access that misses the TLB (R173, R390, R428). -/
def walkReply (s : State) (ea : Nat) : State := countReplies s s.cur (missPart s s.here ea)

/-- An access to memory, with its walk. -/
def noteAccess (s : State) (ea len : Nat) (load store : Bool) : State := noteLine (walkReply s ea) ea len load store

/-- The same of an access to MMIO; one to a debug window fires no watchpoint (R423). -/
def noteMmio (s : State) (ea len : Nat) (load store : Bool) : State :=
  match mmioUnit ea with
  | .debug _ _ => traceAccess s ea
  | _ => noteLine s ea len load store

/-- The store queue holds 16 entries (R219), one for each line of a DISCARD (R212). -/
def storeQueueFull (c : Core) : Bool := 16 ≤ c.storesQueued

/-- The registers that a load of a size writes at d (R74, R196). -/
def pairRegs (d : Operand) (q : Bool) : List Reg :=
  match d with
  | .s n => if q then sRange n.val 2 else sRange n.val 1
  | _ => []

/-- The queue whose QKICK an MMIO store would write, with the right to it (R395). -/
def kickStore (s : State) (c : Core) (a : Nat) : Option Nat :=
  match mmioUnit a with
  | .queue n off => if off = 0 && mmioRight s (.core c.phys) true a then some n else none
  | _ => none

def execLd (f : Fields) (s : State) : Res :=
  .next (run f (fun s => .held s (effAddr s f) <|
    let c := s.here
    let ea := effAddr s f
    let size := f.typ.size
    let o := { newOp s (.ld f) with dst := pairRegs f.dst (f.typ == Typ.q), addr := ea }
    if c.waits o.dst then .stall
    else if c.fenced then .stall
    else if ea < 2 ^ 48 && rangeOf ea == .mmio then
      match mmioCheck s c.phys false size ea with
      | some i => .fault i
      | none => .done (pushOp (noteMmio s ea size true false) f
          { o with mmio := true, parts := [{ va := ea, key := ea, len := size, off := 0, done := false }] })
    else if ea < 0x800000000000 && (tlbHit c c.cx.ctx ea).isNone && f.look ≠ 0 && !s.det c.cx.ctx then
      -- the walk outlasts issue, so the checks come when the load performs (R76); no timing decides that in a deterministic context (R162)
      let o := { o with late := true, parts := partsOf ea 0 size }
      if netFull s c (o.keyed s c) then .stall else .done (pushOp (noteAccess s ea size true false) f o)
    else match access s c .load ea size 0 with
      | .error i => .fault i
      | .ok ps =>
        if netFull s c ps then .stall
        else .done (pushOp (noteAccess s ea size true false) f { o with parts := ps })) s)

/-- The data of ST (R197): the low bytes of the field; a pair, or a sign-extended constant, for q. -/
def storeData (s : State) (f : Fields) : Nat :=
  if f.typ = .q then
    match f.dst with
    | .s n => (s.bank.rs n).toNat + (s.bank.rsAt (n.val + 1)).toNat * 2 ^ 64
    | .imm => immBits false f .q
    | .k n => constBits .q n.val
    | _ => 0
  else (rdT s false f f.typ f.dst).toNat

def execSt (f : Fields) (s : State) : Res :=
  .next (run f (fun s => .held s (effAddr s f) <|
    let c := s.here
    let ea := effAddr s f
    let size := f.typ.size
    let pair := if f.typ = .q then pairRegs f.dst true else []
    let o := { newOp s (.st f) with addr := ea, buf := clean (toBytes size (storeData s f)) }
    if c.waits pair || c.fenced then .stall
    else if ea < 2 ^ 48 && rangeOf ea == .mmio then
      match mmioCheck s c.phys true size ea with
      | some i => .fault i
      | none =>
        let kick := (kickStore s c ea).isSome && s.det c.cx.ctx
        let o := { o with mmio := true, collected := kick
                          parts := [{ va := ea, key := ea, len := size, off := 0, done := false }] }
        if !kick && storeQueueFull c then .stall
        else
          let s := noteMmio s ea size false true
          .done (if kick then collectOp (pushOp s f o) o.id else pushOp s f o)
    else match access s c .store ea size 0 with
      | .error i => .fault i
      | .ok ps =>
        let o := { o with parts := ps }
        if o.isStore && storeQueueFull c then .stall
        else .done (pushOp (noteAccess s ea size false true) f o)) s)

end Sys2Proof.Machine
end

