-- ==== Sys2Proof/Machine/Sync.lean ====
section
/-! DEFINITION. Full-empty words and watches (R201-R204). -/

namespace Sys2Proof.Machine

/-- Checks on the address of LDF and SETE (R185, R201): a naturally aligned 8-byte word of own or peer local memory. -/
def syncAccess (s : State) (c : Core) (k : AK) (ea : Nat) : Except FaultInfo (List Part) :=
  if ea % 8 != 0 then .error (addrFault ea k 8)
  else if ea < 2 ^ 48 && (rangeOf ea == .own || rangeOf ea == .peer) then access s c k ea 8 0
  else .error (addrFault ea k 8)

/-- The local word (R183) that an address of own or peer local memory names: its key divided by 8. -/
def wordOf (phys ea : Nat) : Nat := (if rangeOf ea == .own then localKey phys (ea - ownBase) else ea) / 8

def execLdf (f : Fields) (s : State) : Res :=
  .next (run f (fun s => .held s (baseAddr s f) <|
    let c := s.here
    let ea := baseAddr s f
    if c.fenced then .stall
    else match syncAccess s c .load ea with
      | .error i => .fault i
      | .ok ps =>
        -- a peer's word that may be emptied is read and emptied in one step, which the collector makes (R201, R202; log 21)
        let coll := s.det c.cx.ctx && f.mod == 1 && localOwner (wordOf c.phys ea * 8) != c.phys
        if !coll && netFull s c ps then .stall
        else
          let o := { newOp s (.ldf f) with dst := regOf f.dst ++ regOf f.opb, addr := ea, parts := ps, collected := coll }
          let s := pushOp (noteAccess s ea 8 true false) f o
          .done (if coll then collectOp s o.id else s)) s)

def execSete (f : Fields) (s : State) : Res :=
  .next (run f (fun s => .held s (effAddr s f) <|
    let c := s.here
    let ea := effAddr s f
    if c.fenced || storeQueueFull c then .stall
    else match syncAccess s c .store ea with
      | .error i => .fault i
      | .ok ps => .done (pushOp (noteAccess s ea 8 false true) f { newOp s (.sete f) with addr := ea, parts := ps })) s)

/-- WATCH's descriptor is legal (R203). -/
def watchDescOk (b : W64) : Bool :=
  bits b 24 40 == 0 && !bit b 7 && bits b 4 3 ≤ 4 && bits b 0 4 != 15

/-- The core's watches, oldest first, and the rest. -/
def Watch.mine (x : CtxCore) (w : Watch) : Bool := w.ctx == x.ctx && w.lc == x.lc

/-- Arm a watch (R203): the same block's descriptor is replaced, a 17th displaces the oldest. Where no write fired a watch, its
notification names the arming core as the writer (log 95). -/
def armWatch (s : State) (x : CtxCore) (w : Watch) : State :=
  if s.watches.any (fun v => v.mine x && v.key == w.key && v.size == w.size) then
    { s with watches := mapIf (fun v => v.mine x && v.key == w.key && v.size == w.size) (fun _ => w) s.watches }
  else
    let mine := s.watches.filter fun v => v.mine x
    let s := match mine with
      | old :: _ => if 16 ≤ mine.length then
          ({ s with watches := s.watches.erase old }).post (watchMsg s old 1 (BitVec.ofNat 16 x.lc)) else s
      | [] => s
    { s with watches := s.watches ++ [w] }

/-- Cancel the core's watch on exactly a block (R203, R204); the notification names the arming core as the writer (log 95). -/
def cancelWatch (s : State) (x : CtxCore) (key size : Nat) : State :=
  match s.watches.find? fun v => v.mine x && v.key == key && v.size == size with
  | some w => ({ s with watches := s.watches.erase w }).post (watchMsg s w 2 (BitVec.ofNat 16 x.lc))
  | none => s

/-- The watch that an issued WATCH names. -/
def watchOf (x : CtxCore) (ea key : Nat) (b : W64) : Watch :=
  { ctx := x.ctx, lc := x.lc, va := ea, key := key, size := 8 * 2 ^ bits b 4 3, ch := BitVec.ofNat 4 (bits b 0 4)
    tag := BitVec.ofNat 16 (bits b 8 16) }

/-- The checks are made at issue; the watch is armed or cancelled later, by a step at the block's home. -/
def execWatch (f : Fields) (s : State) : Res :=
  .next (run f (fun s => .held s (baseAddr s f) <|
    let c := s.here
    let ea := baseAddr s f
    let b := rd s f f.opb
    let size := 8 * 2 ^ bits b 4 3
    if !watchDescOk b then .fault (illegalInfo (encode (.watch f)))
    else if c.fenced then .stall
    else if ea % size != 0 then .fault (addrFault ea .watch size)
    else match access s c .watch ea size 0 with
      | .error i => .fault i
      | .ok ps =>
        if !s.det c.cx.ctx && netFull s c ps then .stall
        else
          let s := walkReply s ea
          .done (pushOp s f { newOp s (.watch f) with addr := ea, parts := ps, b := b.setWidth 128 })) s)

end Sys2Proof.Machine
end

