-- ==== Sys2Proof/Machine/Atomics.lean ====
section
/-! DEFINITION. Atomics (R46, R57, R80, R205-R208, R439). -/

namespace Sys2Proof.Machine

/-- The new element of AMO and AMOM (R80, R205), on element bits. -/
def amoNew (f : Fields) (old b : Nat) : Nat :=
  let t := f.typ
  let n := 8 * t.size
  let val (x : Nat) : Int := if t.isSigned then toSigned n x else (x : Int)
  match f.mod.val with
  | 0 => if t.isFp then (fadd (fmtOf t) f.rnd old b).1 else narrow t f.sat (val old + val b)
  | 1 => narrow t f.sat (val old - val b)
  | 2 => (BitVec.ofNat n old &&& BitVec.ofNat n b).toNat
  | 3 => (BitVec.ofNat n old ||| BitVec.ofNat n b).toNat
  | 4 => (BitVec.ofNat n old ^^^ BitVec.ofNat n b).toNat
  | 5 => if val b < val old then b else old
  | 6 => if val old < val b then b else old
  | _ => b

/-- The old element as d receives it (R205, R206): sign-extended for .s32, zero-extended otherwise. -/
def widen (t : Typ) (x : Nat) : W64 :=
  if t = .s32 then BitVec.ofInt 64 (toSigned 32 x) else BitVec.ofNat 64 x

/-- Is the value written zero (±0 for FP; R207)? -/
def isZeroElem (t : Typ) (x : Nat) : Bool := if t.isFp then fpMag (fmtOf t) x == 0 else x == 0

/-- Must the quantum collector serve an atomic at these keys (R57, R168, R208)? Own local memory and HELD regions are served
as they issue; the host die's one order of atomics is the collector's too (R194; log 87). -/
def collectedAtomic (s : State) (c : Core) (ea key : Nat) : Bool :=
  s.det c.cx.ctx && (match rangeOf ea with
    | .translated => ((regionAt s c.cx.ctx ea).map fun r => r.mode != .held).getD true
    | .peer => localOwner key != c.phys
    | .host => true
    | .own => match frameAt c (ea - ownBase) with
      | some fr => ((regionAt s c.cx.ctx fr.va).map fun r => r.mode != .held).getD true
      | none => false
    | _ => false)

/-- Check the alignment and the access of an atomic (R185, R193). -/
def atomicAccess (s : State) (c : Core) (ea size : Nat) : Except FaultInfo (List Part) :=
  if ea % size != 0 then .error (addrFault ea .atomic size) else access s c .atomic ea size 0

/-- Issue an atomic whose operation is ready but for its parts. -/
def pushAtomic (s : State) (f : Fields) (o : Op) (ea size : Nat) (always : Bool) : Eff :=
  let c := s.here
  match atomicAccess s c ea size with
  | .error i => .fault i
  | .ok ps =>
    let key := (ps.head?.map Part.key).getD 0
    let coll := (always && s.det c.cx.ctx) || collectedAtomic s c ea key
    let o := { o with addr := ea, parts := ps, collected := coll }
    if !coll && netFull s c ps then .stall
    else
      let s := pushOp (noteAccess s ea size true true) f o
      .done (if coll then collectOp s o.id else s)

def execAmo (f : Fields) (s : State) : Res :=
  .next (run f (fun s => .held s (baseAddr s f) <|
    if s.here.fenced then .stall
    else
      let b := (rdT s false f f.typ f.opb).toNat % 2 ^ (8 * f.typ.size)
      pushAtomic s f { newOp s (.amo f) with dst := regOf f.dst, b := BitVec.ofNat 128 b }
        (baseAddr s f) f.typ.size false) s)

/-- Comparand or new value of CAS (R206): an element, or a pair for q. -/
def casValue (s : State) (f : Fields) (o : Operand) : W128 :=
  if f.typ = .q then
    match o with
    | .s n => BitVec.ofNat 128 ((s.bank.rs n).toNat + (s.bank.rsAt (n.val + 1)).toNat * 2 ^ 64)
    | _ => 0
  else BitVec.ofNat 128 ((rdT s true f f.typ o).toNat % 2 ^ (8 * f.typ.size))

def execCas (f : Fields) (s : State) : Res :=
  .next (run f (fun s => .held s (baseAddr3 s f) <|
    let q := f.typ == Typ.q
    let dst := pairRegs f.dst q
    let more := if q then pairRegs f.dst q ++ pairRegs f.opb q ++ pairRegs f.opc q else []
    if s.here.waits more || s.here.fenced then .stall
    else pushAtomic s f { newOp s (.cas f) with dst := dst, b := casValue s f f.opb, c := casValue s f f.opc }
      (baseAddr3 s f) f.typ.size false) s)

/-- AMOM's notify descriptor: target, tag, channel (R207). -/
def notifyTarget (s : State) (ea : Nat) (imm : BitVec 32) : Nat :=
  let c := s.here
  let t := imm.toNat / 65536
  if t = 0xFFFE then c.cx.lc
  else if t = 0xFFFF then
    match targetOf s c ea with
    | .ok (some l) => l
    | _ => c.cx.lc
  else t

def execAmom (f : Fields) (s : State) : Res :=
  .next (run f (fun s => .held s (rd s f f.opa).toNat <|
    let ea := (rd s f f.opa).toNat
    let b := (rdT s false f f.typ f.opb).toNat % 2 ^ (8 * f.typ.size)
    let t := f.imm.toNat / 65536
    if bits (f.imm.setWidth 64) 4 4 != 0 then .fault (illegalInfo (encode (.amom f)))
    else if ((ncWord s).toNat ≤ t && t ≤ 0xFFFD) || f.imm.toNat % 16 = 15 then
      .fault (msgFault (BitVec.ofNat 64 t) (f.imm.setWidth 64))
    else if s.here.fenced then .stall
    else pushAtomic s f
      { newOp s (.amom f) with
        dst := regOf f.dst, b := BitVec.ofNat 128 b, c := BitVec.ofNat 128 (notifyTarget s ea f.imm) }
      ea f.typ.size true) s)

end Sys2Proof.Machine
end

