-- ==== Sys2Proof/Machine/Fences.lean ====
section
/-! DEFINITION. Fences, the non-temporal drain, hints and DISCARD (R209-R212). -/

namespace Sys2Proof.Machine

def execFence (f : Fields) (s : State) : Res :=
  .next (run f (fun s => if s.here.fenced then .stall else .done (pushOp s f (newOp s (.fence f)))) s)

def execNtdrain (f : Fields) (s : State) : Res :=
  .next (run f (fun s => .done (pushOp s f (newOp s (.ntdrain f)))) s)

/-- PREF changes no value and raises no fault (R211). -/
def execPref (f : Fields) (s : State) : Res := .next (run f (fun s => .done s) s)

/-- The whole 128-byte lines in a range (R212), one part each. -/
def linesIn (a len : Nat) : List Part :=
  let lo := (a + 127) / 128
  let hi := (a + len) / 128
  (List.range (hi - lo)).map fun i => { va := (lo + i) * 128, key := 0, len := 128, off := 0, done := false }

/-- The eight granules of a line (R42, R184). -/
def granulesOf (p : Part) : List Part :=
  (List.range 8).map fun i => { p with va := p.va + 16 * i, key := p.key + 16 * i, len := 16, off := 16 * i }

/-- DISCARD enters the store queue as one store per line (R212, R423, R426), each with a free value of its own (log 5). -/
def pushLines (s : State) (f : Fields) (ea : Nat) (qs : List Part) : State :=
  qs.foldl (fun s q => pushOp (noteLine s q.va 128 false true).drawn f
    { newOp s (.discard f) with addr := ea, parts := granulesOf q, b := BitVec.ofNat 128 s.fresh }) s

def execDiscard (f : Fields) (s : State) : Res :=
  .next (run f (fun s =>
    let c := s.here
    let ea := baseAddr s f
    let ps := linesIn ea (rd s f f.opb).toNat
    -- its first line's address stands for the walk; a range without a whole line accesses nothing
    let first := (ps.head?.map Part.va).getD mmioBase
    .held s first <|
    if c.fenced || storeQueueFull c then .stall
    else match checkParts s c .store 128 ps with
      | .error i => .fault i
      | .ok qs => .done (pushLines (walkReply s first) f ea qs)) s)

end Sys2Proof.Machine
end

