-- ==== Sys2Proof/Machine/Caps.lean ====
section
/-! DEFINITION. Class 8, the capability instructions (R57, R176-R181, R213-R216). -/

namespace Sys2Proof.Machine

/-- The checks on the address that the four share (R213): the region that holds it. The access kind of their cause words is
0, as R153 names none for them. -/
def capRegion (s : State) (c : Core) (a : Nat) : Except FaultInfo Region :=
  let none0 (i : FaultInfo) : FaultInfo := { i with s6 := 0 }
  if 0x800000000000 ≤ a then .error (none0 (addrFault a .load 1))
  else match translate s c a with
    | none => .error (none0 (transFault a .load 1))
    | some _ => match regionAt s c.cx.ctx a with
      | none => .error (capFault a 0 3 0)
      | some r => .ok r

/-- The region as the core's cached entry has it: sealed from its own SEAL on (R214). -/
def capView (c : Core) (r : Region) : Region := if sealedMark c r.base then { r with mode := .sealed, holder := 0 } else r

/-- Does the core hold the region, and not given it away? -/
def capHolds (c : Core) (r : Region) : Bool :=
  r.mode == .held && r.holder == c.cx.lc && (givenMark c r.base).isNone

/-- The context's region authority (R179). -/
def capAuthority (s : State) (c : Core) : Bool :=
  ((s.ctx? c.cx.ctx).map fun x => x.authority.contains c.cx.lc).getD false

/-- R179 for CAPGIVE, SEAL and RMODE: the reason of the fault. DESIGN CHOICE (log 31): a CAPGIVE by a core that does not hold the region
to a core outside the grant reports 4, not 7. -/
def giveReason (s : State) (c : Core) (r : Region) (d : Nat) : Option Nat :=
  if !capHolds c r then some 4 else if s.nc c.cx.ctx ≤ d then some 7 else none
def sealReason (s : State) (c : Core) (r : Region) : Option Nat :=
  match r.mode with
  | .held => if capHolds c r then none else some 4
  | .sealed => some 4
  | _ => if capAuthority s c then none else some 6
def rmodeReason (s : State) (c : Core) (r : Region) : Option Nat :=
  if r.mode == .held && !capHolds c r then some 4 else if capAuthority s c then none else some 6

/-- Send a request to the region's keeper. -/
def askKeeper (s : State) (o : Op) (c : Core) (base : Nat) (k : KAsk) : State :=
  { s with keepers := s.keepers ++ [{ ctx := c.cx.ctx, base := base, lc := c.cx.lc, phys := c.phys, op := o.id, ask := k }] }

/-- The shared course of the four: check, room for the requests (R390), mark, push the operation. In deterministic mode the collector
takes it (R57). -/
def capRun (f : Fields) (i : Instr) (s : State) (why : State → Core → Region → Option Nat)
    (eff : State → Core → Region → Op → State) : State :=
  run f (fun s =>
    let c := s.here
    let a := (rd s f f.opa).toNat
    if c.fenced then .stall
    else match capRegion s c a with
      | .error x => .fault x
      | .ok r =>
        let v := capView c r
        match why s c v with
        | some reason => .fault (capFault a 0 reason v.entry)
        | none =>
          if walkHeld s c a || (!s.det c.cx.ctx && netFull s c (keeperPart s c r.base)) then .stall
          else
            let s := walkReply s a
            .done (eff s c v { newOp s i with addr := r.base, collected := s.det c.cx.ctx })) s

def pushCap (s : State) (f : Fields) (o : Op) : State :=
  let s := pushOp s f o
  if o.collected then collectOp s o.id else s

/-- Add a mark to the core's cached entry. -/
def addMark (s : State) (m : Mark) : State := s.setCore { s.here with cx := { s.here.cx with marks := s.here.cx.marks ++ [m] } }

def execCapgive (f : Fields) (s : State) : Res :=
  .next (capRun f (.capgive f) s (fun s c v => giveReason s c v (rd s f f.opb).toNat)
    fun s _ r o => addMark (pushCap s f { o with b := (rd s f f.opb).setWidth 128 }) (.given r.base r.entry s.here.nextId))

def execSealCap (f : Fields) (s : State) : Res :=
  .next (capRun f (.sealCap f) s sealReason fun s _ r o => addMark (pushCap s f o) (.sealed r.base s.here.nextId))

/-- An older capability request of the core on the region has not been sent to its keeper. -/
def Core.capBefore (c : Core) (o : Op) : Bool := (c.opsBefore o.id).any fun q => q.isCap && q.addr == o.addr && q.st == .pending

/-- A request that is no release issues and goes to its keeper, unless it stands behind one that is still to be sent. -/
def pushAsk (s : State) (f : Fields) (o : Op) (k : KAsk) : State :=
  let c := s.here
  if o.collected || c.capBefore o then pushCap s f o else askKeeper (pushCap s f { o with st := .left }) o c o.addr k

/-- CLAIM waits at the keeper; it is an acquire when it completes (R181, R215). -/
def execClaim (f : Fields) (s : State) : Res :=
  .next (capRun f (.claim f) s (fun _ _ v => if v.mode = .sealed then none else some 5)
    fun s _ _ o => pushAsk s f { o with dst := regOf f.dst } .claim)

/-- RMODE is no release: it goes to the keeper at once (R216). -/
def execRmode (f : Fields) (s : State) : Res :=
  .next (capRun f (.rmode f) s rmodeReason
    fun s _ _ o => pushAsk s f o (.rmode (if f.mod = 0 then .opn else .atomic)))

end Sys2Proof.Machine
end

