-- ==== Sys2Proof/Machine/Sched.lean ====
section
/-! DEFINITION. Arrival of messages, and the selection of tasks (R50, R104-R118). -/

namespace Sys2Proof.Machine

/-- Change the image of a context at a core, running or switched out (R163). -/
def Core.setCx (c : Core) (x : CtxCore) : Core :=
  if c.cx.ctx = x.ctx then { c with cx := x }
  else { c with saved := c.saved.map fun y => if y.ctx = x.ctx then x else y }

/-- The 1,400 cc, or 1 µs, between two tries of what was refused or failed (R107, R151, R398, R401, R405). -/
def retryPeriod : Nat := 1400

/-! Arrival (R105, R107). -/

/-- The fabric keeps the order of two messages of one sender to one channel of one core (R50). -/
def sameRoute (f g : Flight) : Bool :=
  f.ctx == g.ctx && f.dst == g.dst && f.src == g.src && f.held.msg.ch == g.held.msg.ch

/-- Messages of the core's other contexts in its overflow area. -/
def Core.overflowed (c : Core) (ctx : Nat) : Nat :=
  (((c.cx :: c.saved).filter fun x => x.ctx != ctx).map fun x => x.overflow.length).sum

/-- Place a message at its core; none where it is refused. -/
def deliver (s : State) (f : Flight) : Option State :=
  match s.physOf f.ctx f.dst with
  | none => none
  | some p =>
    let c := s.core p
    match imageOf c f.ctx with
    | none => none
    | some x => (placeMsg (c.overflowed f.ctx) x f.held).map fun y =>
      let took (l : Launch) : Launch := { l with bounced := false }
      ({ s with launches := mapIf (fun l => f.held.launch == some l.id) took s.launches }).setCore (c.setCx y)

/-- Change the image of a logical core's context. -/
def modImage (s : State) (ctx lc : Nat) (g : CtxCore → CtxCore) : State :=
  match s.physOf ctx lc with
  | none => s
  | some p => match imageOf (s.core p) ctx with
    | some x => s.setCore ((s.core p).setCx (g x))
    | none => s

/-- The queue number that stands for the queues of other packages. -/
def linkQueue : Nat := 8192

/-- A refused message (R107, R151, R401): a launch goes back to its fetcher, a fault packet to the frozen core that keeps it, in the place of a newer one that has not left (log 83),
a message that names no core to its unit; a bounce return is dropped and counted; any other goes back to its sender's
ch15. -/
def bounce (s : State) (f : Flight) : State :=
  let m := f.held.msg
  match m.kind.toNat with
  -- a launch of another package's front end goes back there
  | 2 => { s with launches := (s.launches.filter fun l => !(f.held.launch == some l.id && l.queue == linkQueue)).map fun l =>
             if f.held.launch == some l.id then { l with bounced := true, again := s.cc + retryPeriod } else l }
  | 9 => modImage s f.ctx f.dst fun x => { x with bounceDrop := x.bounceDrop + 1 }
  | 10 => modImage s f.ctx m.sender.toNat fun x => { x with frz := { x.frz with toSend := some m, refused := true, again := s.cc + retryPeriod } }
  | _ =>
    if 0xFFFE ≤ m.sender.toNat then { s with kept := s.kept ++ [{ f with again := s.cc + retryPeriod }] }
    else s.post { ctx := f.ctx, dst := m.sender.toNat, src := .core f.dst,
                  held := { launch := none, msg := bounceMsg m (BitVec.ofNat 16 f.dst) } }

/-! Rhohimen links (R433). -/

/-- A packet that its link has dropped: a message returns as one that its destination refuses, a request is lost. -/
def dropCross (s : State) : Cross → State
  | .msg f => bounce s f
  | .coll _ => s

/-- A packet leaves over a link that is up, which of them is the routers' (log 16); with none it is dropped. -/
def cross (s : State) (x : Cross) : State :=
  let up := (List.range 8).filter fun d => s.pkg.rhoUp.getLsbD d
  if up.isEmpty then dropCross s x
  else
    let d := up.getD ((Config.freeWord s.fresh).toNat % up.length) 0
    { s.drawn with pkg := { s.pkg with onLink := s.pkg.onLink ++ [(d, x)] } }

/-- Place a message, or refuse it; one to a core of another package leaves this one. -/
def arrive (s : State) (f : Flight) : State :=
  if s.remote f.ctx f.dst then cross s (.msg f) else (deliver s f).getD (bounce s f)

/-- Launches of one queue to one channel of one core arrive in the order they were dispatched (R409): one that an earlier launch has
yet to precede, on its way or refused. -/
def behindLaunch (s : State) (f : Flight) (id : Nat) : Bool :=
  (s.launches.any fun l => l.id < id && l.bounced && l.ctx == f.ctx && .queue l.queue == f.src && l.dst == f.dst && l.msg.ch == f.held.msg.ch)
    || s.flights.any fun g => sameRoute f g && (g.held.launch.any fun n => n < id)

/-- A notification stays behind the older stores of the core whose store fired it (R52), and that of an AMOM behind the core's older
atomics, which the AMOM itself need not follow (R55, R226; log 67). -/
def afterStores (s : State) (f : Flight) : Bool :=
  match f.after with
  | none => true
  | some (p, id) => !(((s.core p).opsBefore id).any fun o => (o.isStore || o.isAtomic && f.held.msg.kind == 3#4) && o.st != .done)

/-- May the message at a place of the fabric arrive: no earlier one of its route is in flight or kept by its unit. -/
def mayArrive (s : State) (k : Nat) (f : Flight) : Bool :=
  afterStores s f && !(s.kept.any (sameRoute f)) && match f.held.launch with
    | some id => !behindLaunch s f id
    | none => !((s.flights.take k).any (sameRoute f))

/-- MESSAGE_ARRIVAL. -/
def execMessageArrival (k : Nat) (s : State) : Res :=
  .next (match s.flights[k]? with
    | none => s
    | some f => if mayArrive s k f then arrive { s with flights := eraseAt s.flights k } f else s)

/-- The oldest kept message of its route goes out once more, over a link where its core is another package's (R433); one that is
refused again waits for the next try. -/
def resendKept (s : State) (k : Nat) (f : Flight) : State :=
  let gone := { s with kept := eraseAt s.kept k }
  let waits := { s with kept := setAt s.kept k { f with again := s.cc + retryPeriod } }
  if s.remote f.ctx f.dst then (if s.pkg.rhoUp = 0 then waits else cross gone (.msg f)) else (deliver gone f).getD waits

/-- UNIT_MESSAGE_RESEND, 1,400 cc after the try before it (R107); a deterministic context's are tried at its boundaries (R118). -/
def unitResend (s : State) (k : Nat) : State :=
  match s.kept[k]? with
  | none => s
  | some f => if (s.kept.take k).any (sameRoute f) || s.det f.ctx || s.cc < f.again then s else resendKept s k f
def execUnitMessageResend (k : Nat) (s : State) : Res := .next (unitResend s k)

/-! Selection (R112-R115). -/

/-- Neither bank runs a task and no channel is selectable. -/
def idleCore (x : CtxCore) : Bool :=
  !x.b0.task.live && !x.b1.task.live && (x.choose true).isNone && (x.choose false).isNone

/-- A fault in the queue stops the task at the next instruction boundary (R158, R159); in a deterministic context it waits for the end
of the quantum (R162; log 45). -/
def State.unreported (s : State) (x : CtxCore) : Bool := !x.frz.queue.isEmpty && !s.det x.ctx

/-- A frozen or stopped core issues nothing and starts nothing (R150, R423). -/
def Core.halted (c : Core) : Bool := c.cx.frz.frozen || c.loupe.stopped

/-- Bank 1 must start before the task engine issues again (R112, R113, R115, R118). -/
def mustSwitch (s : State) (c : Core) : Bool :=
  !c.cx.b1.task.live && (!c.cx.b0.task.live || c.cx.mwin == 0) && (!s.det c.cx.ctx || c.cx.sel) && (c.cx.choose true).isSome

/-- Undefined vector registers (R108; log 5), now a task's. -/
def freeVecs (b : Bank) (n serial : Nat) : Bank :=
  { b with
    v := Vector.ofFn fun (k : Fin 32) => Config.freeVec (n + k.val)
    o := Vector.ofFn fun (k : Fin 16) => Config.freeVec (n + 32 + k.val)
    lv := Config.freeVec (n + 48), vown := serial }

/-- The bank as its running task finds it. -/
def Bank.ofTask (b : Bank) : Bank := if b.vown < b.task.serial then freeVecs b b.vbase b.task.serial else b

/-- Undefined register contents at activation (R108; log 5), but for the vector registers. -/
def freeBank (b : Bank) (n : Nat) : Bank :=
  { b with
    s := Vector.ofFn fun (k : Fin 64) => Config.freeWord (n + k.val)
    p := Vector.ofFn fun (k : Fin 16) => Config.freePred (n + k.val)
    ls := Config.freeWord (n + 64)
    vtag := Vector.replicate 32 0, otag := Vector.replicate 16 0, lvtag := 0, fflags := 0, fenable := 0 }

/-- A bank with no live state: its image is undefined (R120, R121; log 5). -/
def deadBank (b : Bank) (n : Nat) : Bank :=
  { freeVecs (freeBank b n) n 0 with
    pc := Config.freeWord (n + 65), fflags := (Config.freeWord (n + 66)).setWidth 5, fenable := (Config.freeWord (n + 67)).setWidth 5 }

/-- Undefined rows of a tile (R121, R300; log 5). -/
def freeRows (n : Nat) : Vector VBits 32 := Vector.ofFn fun (r : Fin 32) => Config.freeVec (n + r.val)

/-- Payload byte limit: bytes beyond len read zero. -/
def payWord (m : Msg) (k : Nat) : W64 :=
  BitVec.ofNat 64 ((m.payload.toList.getD k 0).toNat % 2 ^ (8 * min 8 (m.len.toNat - 8 * k)))

/-- The bank of an activated task (R108): s1 to s7 the payload, s8 the header. While vector commands of the bank's earlier
tasks are queued, its vector registers stay theirs (R71). -/
def startBank (b : Bank) (h : Held) (n : Nat) (pc : W64) (t : TaskSt) (queued : Bool) : Bank :=
  let b := freeBank b n
  let b := if queued then { b with vbase := n } else freeVecs b n t.serial
  { b with
    s := Vector.ofFn fun (k : Fin 64) =>
      if k.val = 0 then 0 else if k.val ≤ 7 then payWord h.msg (k.val - 1) else if k.val = 8 then h.msg.header else b.s[k]
    pc := pc, task := t }

/-- A capability arrival's activation clears the core's given mark (R180). -/
def clearGiven (x : CtxCore) (m : Msg) : CtxCore :=
  if m.kind = 6#4 then { x with marks := x.marks.filter fun k => match k with
    | .given b _ _ => b != (payWord m 0).toNat
    | .sealed _ _ => true } else x

/-- Something that a task has issued is still under way, or its report waits. -/
def Core.refers (c : Core) (task : Nat) : Bool :=
  (c.ops.any fun o => o.task == task) || (engs.any fun e => (c.eng e).cmds.any fun k => k.task == task)
    || c.cx.gear.dtask == task || c.cx.frz.queue.any fun d => d.task == task

/-- The ended tasks to keep when another one starts in the bank. -/
def Core.endedNow (c : Core) (hi : Bool) : List Ended := ((c.bankOf hi).task.ended :: c.cx.ended).filter fun e => c.refers e.serial

/-- Start the task of a channel in a bank (R106, R108, R112). -/
def startTask (s : State) (phys : Nat) (hi : Bool) (n p : Nat) : State :=
  let c := s.core phys
  let x := c.cx
  match x.slots.find? fun t => t.held.msg.ch.toNat == n with
  | none => s
  | some t =>
    let l := t.held.launch.bind fun id => s.launches.find? fun l => l.id == id
    let pc := ((l.map Launch.pc).getD (chanHandler (x.chans.getD n 0)))
    let task : TaskSt := { TaskSt.reset with
      live := true, serial := c.nextTask, ch := Fin.ofNat 16 n, launch := t.held.launch, block := (l.map Launch.block).getD [], entry := pc }
    let x := refill { x with
      ended := c.endedNow hi
      slots := x.slots.filter fun u => u.n != t.n
      rr := BitVec.ofNat 32 (x.rr.toNat - x.rr.toNat / 2 ^ (4 * p) % 16 * 2 ^ (4 * p) + n * 2 ^ (4 * p)) }
    let x := clearGiven x t.held.msg
    let b := startBank (c.bankOf hi) t.held s.fresh pc task (c.vec.cmds.any fun k => k.bank == hi)
    let c := { c with cx := if hi then { x with b1 := b } else { x with b0 := b, mwin := 0 }, nextTask := c.nextTask + 1 }
    traceRec (({ s with fresh := s.fresh + 128 } : State).setCore c) phys hi pc 1 t.held.msg.header

/-- May the core start a task now? A dead context's cores do nothing (R164); in a deterministic context selection is made at
the start of a quantum and when a task ends (R118). -/
def mayStart (s : State) (c : Core) : Bool :=
  !c.halted && !s.unreported c.cx && s.alive c.cx.ctx && (!s.det c.cx.ctx || c.cx.sel)

/-- TASK_ACTIVATION: an idle core starts the task that R112 chooses. -/
def execTaskActivation (phys : Nat) (s : State) : Res :=
  let c := s.core phys
  .next (if !mayStart s c || c.cx.b0.task.live || c.cx.b1.task.live then s
    else match c.cx.choose true with
      | some (n, p) => startTask s phys true n p
      | none => match c.cx.choose false with
        | some (n, p) => startTask s phys false n p
        | none => s)

/-- PREEMPTION: bank 1 starts while bank 0 runs, no masked window open (R113, R115). -/
def execPreemption (phys : Nat) (s : State) : Res :=
  let c := s.core phys
  .next (if !mayStart s c || !c.cx.b0.task.live || c.cx.b1.task.live || c.cx.mwin != 0 then s
    else match c.cx.choose true with
      | some (n, p) => startTask s phys true n p
      | none => s)

/-- MASKED_WINDOW_CLOSE: its last instruction has retired (R115). -/
def execMaskedWindowClose (phys : Nat) (s : State) : Res :=
  .next (s.modCore phys fun c => if c.cx.mwin = 1 then { c with cx := { c.cx with mwin := 0 } } else c)

end Sys2Proof.Machine
end

