-- ==== Sys2Proof/Machine/ScalarFp.lean ====
section
/-! DEFINITION. Class 2, the scalar floating-point instructions (R84, R131-R135). -/

namespace Sys2Proof.Machine

/-- A source in the op's format. -/
def rdF (s : State) (three : Bool) (f : Fields) (o : Operand) : Nat := fpBits f.typ (rdT s three f f.typ o)

/-- Write an FP result zero-extended, and accrue its events (R84, R132). -/
def fpDone (s : State) (f : Fields) (r : FRes) : Eff := .fp (wres s f.dst (BitVec.ofNat 64 r.1)) r.2

def fp2 (f : Fields) (g : Fmt → Rnd → Nat → Nat → FRes) : State → State :=
  run f fun s => fpDone s f (g (fmtOf f.typ) f.rnd (rdF s false f f.opa) (rdF s false f f.opb))

def execFadd (f : Fields) (s : State) : Res := .next (fp2 f fadd s)
def execFsub (f : Fields) (s : State) : Res := .next (fp2 f fsub s)
def execFmul (f : Fields) (s : State) : Res := .next (fp2 f fmul s)
def execFfma (f : Fields) (s : State) : Res :=
  .next (run f (fun s =>
    fpDone s f (ffma (fmtOf f.typ) f.rnd (rdF s true f f.opa) (rdF s true f f.opb) (rdF s true f f.opc))) s)
def execFdiv (f : Fields) (s : State) : Res :=
  .next (run f (fun s =>
    let r := fdiv (fmtOf f.typ) f.rnd (rdF s false f f.opa) (rdF s false f f.opb)
    .done (pushResult s (.fdiv f) f (BitVec.ofNat 128 r.1) r.2)) s)
def execFsqrt (f : Fields) (s : State) : Res :=
  .next (run f (fun s =>
    let r := fsqrt (fmtOf f.typ) f.rnd (rdF s false f f.opa)
    .done (pushResult s (.fsqrt f) f (BitVec.ofNat 128 r.1) r.2)) s)
def execFmin (f : Fields) (s : State) : Res := .next (fp2 f (fun m _ => fminmax m false) s)
def execFmax (f : Fields) (s : State) : Res := .next (fp2 f (fun m _ => fminmax m true) s)
def execFcmp (f : Fields) (s : State) : Res :=
  .next (run f (fun s =>
    let r := fcmp (fmtOf f.typ) f.mod.val (rdF s false f f.opa) (rdF s false f f.opb)
    .fp (wpred s f.dst (splatP r.1)) r.2) s)

/-- One conversion between a source and a destination type (R134, R95), on element bits. -/
def convert (src dst : Typ) (r : Rnd) (sat : Bool) (x : Nat) : FRes :=
  if src.isFp then
    if dst.isFp then fpToFp (fmtOf src) (fmtOf dst) r x
    else fpToInt (fmtOf src) r sat (intRange dst).1 (intRange dst).2 (8 * dst.size) x
  else
    let v : Int := if src.isSigned then toSigned (8 * src.size) x else (x : Int)
    if dst.isFp then intToFp (fmtOf dst) r v else (narrow dst sat v, 0#5)

/-- FCVT (R134). A source that is the immediate or a small constant is read in the source format too (log 91). -/
def execFcvt (f : Fields) (s : State) : Res :=
  .next (run f (fun s =>
    let src := fcvtFrom f.mod.val
    fpDone s f (convert src f.typ f.rnd f.sat (fpBits src (rdT s false f src f.opa)))) s)
def execFclass (f : Fields) (s : State) : Res :=
  .next (run f (fun s => .done (wres s f.dst (BitVec.ofNat 64 (fclass (fmtOf f.typ) (rdF s false f f.opa))))) s)

/-- FSGN: a with a new sign bit. -/
def fsgn (m : Fmt) (mode : Nat) (a b : Nat) : Nat :=
  let neg := match mode with
    | 0 => fpNeg m b
    | 1 => !fpNeg m b
    | _ => fpNeg m a != fpNeg m b
  fpMag m a + signBit m neg

def execFsgn (f : Fields) (s : State) : Res :=
  .next (run f (fun s =>
    .done (wres s f.dst (BitVec.ofNat 64 (fsgn (fmtOf f.typ) f.mod.val (rdF s false f f.opa) (rdF s false f f.opb))))) s)

end Sys2Proof.Machine
end

