-- ==== Sys2Proof/Machine/Vector.lean ====
section
/-! DEFINITION. What vector instructions share: elements, tags and their checks, masks, the issue of a command to an engine's
queue (R9, R84-R93, R198, R229-R239). -/

namespace Sys2Proof.Machine

/-! Elements (R230). -/

/-- Element i of size s bytes. -/
def elemAt (x : VBits) (s i : Nat) : Nat := x.toNat / 2 ^ (8 * s * i) % 2 ^ (8 * s)
def elemsOf (t : Typ) (x : VBits) : List Nat := (List.range t.elems).map (elemAt x t.size)

/-- The vector of these elements of s bytes, the first lowest. -/
def packElems (s : Nat) : List Nat → Nat
  | [] => 0
  | e :: es => e % 2 ^ (8 * s) + 2 ^ (8 * s) * packElems s es
def vecOf (t : Typ) (es : List Nat) : VBits := BitVec.ofNat 1024 (packElems t.size es)

def vecBytes (x : VBits) : List Byte := toBytes 128 x.toNat
def vecOfBytes (l : List Byte) : VBits := BitVec.ofNat 1024 (ofBytes l)

/-- Is element i of size s active in a mask (R231)? -/
def active (m : PBits) (s i : Nat) : Bool := m.getLsbD (i * s)
/-- Is any element of size s active (R233)? -/
def anyActive (s : Nat) (m : PBits) : Bool := (List.range (128 / s)).any (active m s)

/-- The predicate whose element bits are the results (R231). -/
def predOf (s : Nat) (l : List Bool) : PBits :=
  BitVec.ofNat 128 ((l.zip (List.range l.length)).foldl (fun acc (b, i) =>
    acc + (if b then (2 ^ s - 1) * 2 ^ (i * s) else 0)) 0)

/-! Trimod-24 (R86-R89). -/

/-- The canonical container of residues. -/
def tm24Pack (a b c : Nat) : Nat := a % 256 + b % 255 * 256 + c % 253 * 65536
/-- Channels of a container, canonical. -/
def tm24Chan (x : Nat) : Nat × Nat × Nat := (x % 256, x / 256 % 256 % 255, x / 65536 % 256 % 253)
def tm24Canon (x : Nat) : Nat := let (a, b, c) := tm24Chan x; tm24Pack a b c
def tm24Add (x y : Nat) : Nat :=
  let (a, b, c) := tm24Chan x
  let (a', b', c') := tm24Chan y
  tm24Pack (a + a') (b + b') (c + c')
def tm24Sub (x y : Nat) : Nat :=
  let (a, b, c) := tm24Chan x
  let (a', b', c') := tm24Chan y
  tm24Pack (a + 256 - a') (b + 255 - b') (c + 253 - c')

def tm24Lo : Int := -8257920
def tm24Hi : Int := 8257919

/-- The integer that a container stands for (R88). -/
def tm24Int (x : Nat) : Int :=
  let (a, b, c) := tm24Chan x
  let v := (a * 11032065 + b * 8225536 + c * 13774080) % 16515840
  if 8257920 ≤ v then (v : Int) - 16515840 else v

/-- An integer into .tm24 (R87). -/
def tm24OfInt (sat : Bool) (x : Int) : Nat := tm24Of (if sat then clamp tm24Lo tm24Hi x else x)

/-- A conversion with .tm24 among the formats (R87, R88, R255). -/
def convertV (src dst : Typ) (r : Rnd) (sat : Bool) (x : Nat) : FRes :=
  match src == .tm24, dst == .tm24 with
  | true, true => (tm24Canon x, 0#5)
  | true, false =>
    let y := tm24Int x
    if dst.isFp then intToFp (fmtOf dst) r y else (narrow dst sat y, 0#5)
  | false, true =>
    if src.isFp then
      match unpack (fmtOf src) x with
      | .nan _ => (0, evInvalid)
      | .inf neg => (if sat then tm24Of (if neg then tm24Lo else tm24Hi) else 0, evInvalid)
      | .fin neg m e =>
        let (k, exact) := roundInt r neg m e
        let inRange := tm24Lo ≤ k && k ≤ tm24Hi
        (tm24OfInt sat k, (if exact then 0#5 else evInexact) ||| (if inRange then 0#5 else evInvalid))
    else (tm24OfInt sat (if src.isSigned then toSigned (8 * src.size) x else (x : Int)), 0#5)
  | false, false => convert src dst r sat x

/-! Sources (R65, R92). -/

/-- The tag of a source; none for an immediate, a constant and zv, which take the format the op requires. -/
def tagOf (b : Bank) : Operand → Option (BitVec 4)
  | .v n => some b.vtag[n]
  | .o n => some b.otag[n]
  | .lv => some b.lvtag
  | _ => none

/-- The bits of a vector source read by a type. -/
def vsrc (b : Bank) (three : Bool) (f : Fields) (t : Typ) : Operand → VBits
  | .v n => b.v[n]
  | .o n => b.o[n]
  | .lv => b.lv
  | .imm => vecOf t (List.replicate t.elems (immBits three f t))
  | .k n => vecOf t (List.replicate t.elems (constBits t n.val))
  | _ => 0

/-- The format fault of a field (R92, R153). Field k is 1 opa, 2 opb, 3 opc, 0 dst. -/
def tagFault (o : Operand) (k : Nat) (found required : Nat) : FaultInfo :=
  { cause := 6, s5 := 0, s6 := BitVec.ofNat 64 (o.code + k * 1024), s7 := BitVec.ofNat 64 (found + required * 16) }

/-- A source must carry a tag. -/
def needTag (b : Bank) (o : Operand) (k : Nat) (t : Typ) : Option FaultInfo :=
  match tagOf b o with
  | none => none
  | some x => if x.toNat = t.code then none else some (tagFault o k x.toNat t.code)

/-- A source must carry one of several tags: which one s7 asks for is open (log 5), so a free value stands there. -/
def needOneOf (s : State) (o : Operand) (k : Nat) (ok : Typ → Bool) : Option FaultInfo :=
  match tagOf s.bank o with
  | none => none
  | some x =>
    match Typ.ofCode x.toNat with
    | some t => if t != .untyped && ok t then none else some (tagFault o k x.toNat ((Config.freeWord s.fresh).toNat % 16))
    | none => some (tagFault o k x.toNat ((Config.freeWord s.fresh).toNat % 16))

/-- The type of a tag. -/
def typOfTag (x : BitVec 4) : Typ := (Typ.ofCode x.toNat).getD .untyped
/-- The type that a data source gives an untyped op (R230); .untyped for tag 0. -/
def dataTyp (b : Bank) (o : Operand) : Typ := ((tagOf b o).map typOfTag).getD .untyped

def setTag (b : Bank) (d : Operand) (t : BitVec 4) : Bank :=
  match d with
  | .v n => { b with vtag := b.vtag.set n t }
  | .o n => { b with otag := b.otag.set n t }
  | .lv => { b with lvtag := t }
  | _ => b

/-- Write a vector destination, and lv with it unless the op is long-latency (R66, R229). -/
def wvec (b : Bank) (d : Operand) (long : Bool) (x : VBits) : Bank :=
  match d with
  | .v n => { b.wv n x with lv := if long then b.lv else x }
  | .o n => { b.wo n x with lv := if long then b.lv else x }
  | .lv => { b with lv := x }
  | _ => b

/-- The tag that a command leaves, in its destination and in lv (R91, R237). -/
def retag (b : Bank) (d : Operand) (long : Bool) (t : BitVec 4) : Bank :=
  let b := setTag b d t
  if long then b else setTag b .lv t

/-! Issue to a queue (R9, R74, R234). -/

/-- Two commands wait and one executes (R9). -/
def EngQ.full (q : EngQ) : Bool := 2 ≤ q.waiting.length

/-- A command of the executing instruction, with nothing read yet but tags and the guard. -/
def newCmd (s : State) (i : Instr) (f : Fields) : Cmd :=
  let c := s.here
  let b := c.bank
  let tag (o : Operand) : BitVec 4 := (tagOf b o).getD 0
  { id := c.nextId, ins := i, bank := c.rb, task := b.task.serial, ch := b.task.ch, pc := b.pc, at_ := b.task.retired, addr := 0, a := 0, b := 0,
    mask := guardMask b f, cp := 0, ta := tag f.opa, tb := tag f.opb, tc := tag f.opc, td := tag f.dst }

/-- Put a command into its engine's queue; a full queue stalls, and so does an acquire of a deterministic context (log 68). -/
def pushCmd (s : State) (f : Fields) (e : Eng) (k : Cmd) : Eff :=
  let c := s.here
  let q := c.eng e
  if q.full || commandHeld s then .stall
  else
    let s := s.setCore { c.setEng e { q with waiting := q.waiting ++ [k] } with nextId := c.nextId + 1 }
    .done (s.setBank (s.bank.opened f (regOf f.dst) k.id))

/-- Issue of a vector command. `size` is the element size of the guard, 0 where the data source has no tag; `check` the tag
checks; `tag` the tag of a vector destination. DESIGN CHOICE (log 104): where the data source has tag 0, any mask bit that is 1 makes
an element active, and the op faults (R233, R234). -/
def vecIssue (i : Instr) (f : Fields) (size : Bank → Nat) (check : State → Option FaultInfo)
    (tag : Bank → Option (BitVec 4)) (long : Bool) (prep : State → Cmd → Cmd) (s : State) : State :=
  runWith (fun b => if size b = 0 then guardMask b f != 0#128 else anyActive (size b) (guardMask b f)) f
    (fun s => match check s with
      | some x => .fault x
      | none =>
        if (s.here.eng .vec).full || commandHeld s then .stall
        else
          let k := prep s (newCmd s i f)
          let s := match tag s.bank with
            | some t => s.setBank (retag s.bank f.dst long t)
            | none => s
          pushCmd s f .vec k) s

/-- The same for a guard that reads bit 0 (VGET, VPUT). -/
def vecIssue0 (i : Instr) (f : Fields) (check : State → Option FaultInfo) (tag : Bank → Option (BitVec 4))
    (prep : State → Cmd → Cmd) (s : State) : State :=
  run f (fun s => match check s with
    | some x => .fault x
    | none =>
      if (s.here.eng .vec).full then .stall
      else
        let k := prep s (newCmd s i f)
        let s := match tag s.bank with
          | some t => s.setBank (retag s.bank f.dst false t)
          | none => s
        pushCmd s f .vec k) s

/-- Element size of a data source, 0 for none. -/
def dataSize (b : Bank) (o : Operand) : Nat :=
  let t := dataTyp b o
  if t = .untyped then 0 else t.size

/-- A data source of tag 0 (R230): no tag satisfies it, so what is required is open. -/
def needData (s : State) (o : Operand) (k : Nat) : Option FaultInfo := needOneOf s o k fun _ => true

end Sys2Proof.Machine
end

