-- ==== Sys2Proof/Machine/Sfu.lean ====
section
/-! DEFINITION. VSFU's functions, correctly rounded (R258): a lower and an upper bound in fixed point, closer and closer until
both round alike. -/

namespace Sys2Proof.Machine

/-! Fixed point with P fraction bits, on integers; every function is right to within 2^20 units. -/

/-- Bounds of a value: units of 2^−P. -/
abbrev Bounds := Int × Int

def slack : Int := 2 ^ 30

def fxMul (P : Nat) (a b : Int) : Int := a * b / 2 ^ P
def fxDiv (P : Nat) (a b : Int) : Int := a * 2 ^ P / b

/-- A dyadic number in fixed point. -/
def fxOf (P : Nat) (neg : Bool) (m : Nat) (e : Int) : Int :=
  let v : Int := if 0 ≤ e + P then (m : Int) * 2 ^ (e + P).toNat else (m : Int) / 2 ^ (-(e + P)).toNat
  if neg then -v else v

/-- 2 × atanh z = 2 (z + z³/3 + z⁵/5 + …), for |z| ≤ 1/2. -/
def atanhGo (P : Nat) (z2 : Int) : Nat → Int → Nat → Int → Int
  | 0, _, _, acc => acc
  | n + 1, t, k, acc => if t = 0 || t = -1 then acc else atanhGo P z2 n (fxMul P t z2) (k + 2) (acc + t / k)
def atanh2 (P : Nat) (z : Int) : Int := 2 * atanhGo P (fxMul P z z) P z 1 0

def fxLn2 (P : Nat) : Int := atanh2 P (fxDiv P (2 ^ P) (3 * 2 ^ P))

/-- e^y for 0 ≤ y < 1. -/
def expGo (P : Nat) (y : Int) : Nat → Int → Nat → Int → Int
  | 0, _, _, acc => acc
  | n + 1, t, k, acc => if t = 0 then acc else expGo P y n (fxMul P t y / k) (k + 1) (acc + t)
def fxExp (P : Nat) (y : Int) : Int := expGo P y P (2 ^ P) 1 0

/-- e^−y for y ≥ 0. -/
def fxExpNeg (P : Nat) (y : Int) : Int :=
  let l := fxLn2 P
  let k := y / l + 1
  fxExp P (k * l - y) / 2 ^ k.toNat

/-- atan (1/n) by its series. -/
def atanInvGo (n2 : Int) : Nat → Int → Nat → Bool → Int → Int
  | 0, _, _, _, acc => acc
  | m + 1, t, k, neg, acc =>
    if t = 0 then acc else atanInvGo n2 m (t / n2) (k + 2) (!neg) (if neg then acc - t / k else acc + t / k)
def atanInv (P n : Nat) : Int := atanInvGo ((n : Int) * n) P (2 ^ P / n) 1 false 0
/-- π = 16 atan (1/5) − 4 atan (1/239). -/
def fxPi (P : Nat) : Int := 16 * atanInv P 5 - 4 * atanInv P 239

/-- sin and cos by their series, for |y| ≤ 1. -/
def sinGo (P : Nat) (y2 : Int) : Nat → Int → Nat → Int → Int
  | 0, _, _, acc => acc
  | n + 1, t, k, acc => if t = 0 || t = -1 then acc else sinGo P y2 n (-(fxMul P t y2 / ((k + 1) * (k + 2)))) (k + 2) (acc + t)
def fxSin (P : Nat) (y : Int) : Int := sinGo P (fxMul P y y) P y 1 0
def fxCos (P : Nat) (y : Int) : Int := sinGo P (fxMul P y y) P (2 ^ P) 0 0

/-- sin of a dyadic, or its cos: reduced by the nearest multiple of π/2. -/
def sinCos (P : Nat) (cosine : Bool) (neg : Bool) (m : Nat) (e : Int) : Int :=
  -- 160 more bits, for arguments up to 2^128
  let P' := P + 160
  let x := fxOf P' neg m e
  let h := fxPi P' / 2
  let q := (2 * x + h) / (2 * h)
  let y := (x - q * h) / 2 ^ 160
  let n := (q + (if cosine then 1 else 0)) % 4
  if n = 0 then fxSin P y else if n = 1 then fxCos P y else if n = 2 then -(fxSin P y) else -(fxCos P y)

/-- erf x = 2/√π × Σ (−1)^n x^(2n+1) / (n! (2n+1)). -/
def erfGo (P : Nat) (x2 : Int) : Nat → Int → Nat → Int → Int
  | 0, _, _, acc => acc
  | n + 1, t, k, acc =>
    if t = 0 || t = -1 then acc else erfGo P x2 n (-(fxMul P t x2 / ((k : Int) + 1))) (k + 1) (acc + t / (2 * k + 1))
def fxErf (P : Nat) (x : Int) : Int :=
  -- the terms grow up to e^(x²): 512 more bits, for |x| < 16
  let P' := P + 512
  let s := erfGo P' (fxMul P' (x * 2 ^ 512) (x * 2 ^ 512)) (4 * P') (x * 2 ^ 512) 0 0
  let root := (isqrt ((fxPi P').toNat * 2 ^ P') : Int)
  fxDiv P' (2 * s) root / 2 ^ 512

/-- Bounds of f on a finite non-zero value. Past where tanh or erf differs from ±1 by less than 2^−512, the bounds are
just inside 1. -/
def sfuBounds (fn : Nat) (P : Nat) (neg : Bool) (m : Nat) (e : Int) : Bounds :=
  let x := fxOf P neg m e
  let one : Int := 2 ^ P
  let mid (v : Int) : Bounds := (v - slack, v + slack)
  let near (neg : Bool) : Bounds :=
    let lo := one - one / 2 ^ 400
    let hi := one - one / 2 ^ 500
    if neg then (-hi, -lo) else (lo, hi)
  match fn with
  | 0 => mid (fxExp P (fxMul P (x % one) (fxLn2 P)))  -- of the fraction; the integer part is the result's exponent
  | 1 =>
    let k := Nat.log2 m
    let y := (m : Int) * 2 ^ P / 2 ^ k
    mid (fxDiv P (atanh2 P (fxDiv P (y - one) (y + one))) (fxLn2 P) + (e + k) * one)
  | 4 => mid (sinCos P false neg m e)
  | 5 => mid (sinCos P true neg m e)
  | 6 =>
    if 512 * one ≤ x.natAbs then near neg
    else
      let t := fxExpNeg P (2 * x.natAbs)
      let v := fxDiv P (one - t) (one + t)
      mid (if neg then -v else v)
  | _ => if 16 * one ≤ x.natAbs then near neg else mid (fxErf P x)

/-- Round both bounds, scaled by 2^k; more fraction bits where they differ. -/
def sfuRound (f : Fmt) (r : Rnd) (g : Nat → Bounds) (k : Int) : Nat → Nat → FRes
  | 0, P => roundDy f r ⟨(g P).1, k - P⟩ false
  | n + 1, P =>
    let (lo, hi) := g P
    let a := roundDy f r ⟨lo, k - P⟩ false
    if a = roundDy f r ⟨hi, k - P⟩ false && a.2 != 0#5 then a else sfuRound f r g k n (2 * P)

/-- 1/√x of a positive dyadic, from the integer square root, with a sticky bit. -/
def rsqrtFp (f : Fmt) (r : Rnd) (m : Nat) (e : Int) : FRes :=
  -- an even exponent
  let (m, e) := if e % 2 = 0 then (m, e) else (2 * m, e - 1)
  let k := 2 * Nat.log2 m + 4 * f.m + 16
  let n := 2 ^ (2 * k) / m
  let q := isqrt n
  roundFp f r false q (-(e / 2) - k) (q * q * m != 2 ^ (2 * k))

/-- VSFU (R258) on one element. -/
def sfu (f : Fmt) (r : Rnd) (fn : Nat) (a : Nat) : FRes :=
  match unpack f a with
  | .nan q => if q then (a, 0#5) else genNaN f 1
  | .inf neg =>
    match fn with
    | 0 => if neg then (fpZero f false, 0#5) else (fpInf f false, 0#5)
    | 1 => if neg then genNaN f 5 else (fpInf f false, 0#5)
    | 2 => (fpZero f neg, 0#5)
    | 3 => if neg then genNaN f 5 else (fpZero f false, 0#5)
    | 4 | 5 => genNaN f 5
    | _ => (roundDy f r ⟨if neg then -1 else 1, 0⟩ false)
  | .fin neg m e =>
    let one := roundDy f r ⟨1, 0⟩ false
    if m = 0 then
      match fn with
      | 0 => one
      | 1 => (fpInf f true, evDivZero)
      | 2 => (fpInf f neg, evDivZero)
      | 3 => (fpInf f neg, evDivZero)
      | 5 => one
      | _ => (fpZero f neg, 0#5)
    else
      match fn with
      | 0 =>
        let v := fxOf 0 neg m e
        -- a value below −2^12 or above 2^12 is past every exponent
        if 12 < (Nat.log2 m : Int) + e then roundFp f r false 1 (if neg then -4096 else 4096) true
        else if 0 ≤ e || m % 2 ^ (-e).toNat = 0 then roundDy f r ⟨1, v⟩ false
        else
          let fl : Int := if neg then -((m : Int) / 2 ^ (-e).toNat) - 1 else v
          sfuRound f r (fun P => sfuBounds 0 P neg m e) fl 3 1024
      | 1 =>
        if neg then genNaN f 5
        else if m = 2 ^ Nat.log2 m then intToFp f r (e + Nat.log2 m)
        else sfuRound f r (fun P => sfuBounds 1 P neg m e) 0 3 1024
      | 2 => roundRat f r neg 1 m (-e)
      | 3 => if neg then genNaN f 5 else rsqrtFp f r m e
      | n => sfuRound f r (fun P => sfuBounds n P neg m e) 0 3 1024

end Sys2Proof.Machine
end

