-- ==== Sys2Proof/Machine/VecOps.lean ====
section
/-! DEFINITION. What a vector command computes from its bank when it runs (R100, R229-R260). -/

namespace Sys2Proof.Machine

/-- The result of a vector command. -/
inductive VOut
  | vec (x : VBits)
  | scalar (x : W64)
  | pred (x : PBits)
  | none
  deriving DecidableEq, Repr

abbrev VRes := VOut × Events

/-- Element results to a vector, inactive elements zero (R233), with the events of the active ones. -/
def gather (t : Typ) (m : PBits) (g : Nat → FRes) : VRes :=
  let l := (List.range t.elems).map fun i => if active m t.size i then g i else (0, 0#5)
  (.vec (vecOf t (l.map Prod.fst)), l.foldl (fun ev x => ev ||| x.2) 0#5)

/-! Element operations (R240, R241). -/

def valOf (t : Typ) (x : Nat) : Int := if t.isSigned then toSigned (8 * t.size) x else (x : Int)

/-- The exact integer results, by their FP and integer forms. -/
def addE (f : Fields) (a b : Nat) : FRes :=
  if f.typ.isFp then fadd (fmtOf f.typ) f.rnd a b
  else if f.typ = .tm24 then (tm24Add a b, 0#5)
  else (narrow f.typ f.sat (valOf f.typ a + valOf f.typ b), 0#5)
def subE (f : Fields) (a b : Nat) : FRes :=
  if f.typ.isFp then fsub (fmtOf f.typ) f.rnd a b
  else if f.typ = .tm24 then (tm24Sub a b, 0#5)
  else (narrow f.typ f.sat (valOf f.typ a - valOf f.typ b), 0#5)
def mulE (f : Fields) (a b : Nat) : FRes :=
  if f.typ.isFp then fmul (fmtOf f.typ) f.rnd a b else (narrow f.typ f.sat (valOf f.typ a * valOf f.typ b), 0#5)
def minmaxE (max : Bool) (f : Fields) (a b : Nat) : FRes :=
  if f.typ.isFp then fminmax (fmtOf f.typ) max a b
  else (if decide (valOf f.typ a ≤ valOf f.typ b) != max then a else b, 0#5)
def absE (f : Fields) (a : Nat) : FRes :=
  if f.typ.isFp then (fpMag (fmtOf f.typ) a, 0#5) else (narrow f.typ f.sat (valOf f.typ a).natAbs, 0#5)
def negE (f : Fields) (a : Nat) : FRes :=
  if f.typ.isFp then (fpNegate (fmtOf f.typ) a, 0#5) else (narrow f.typ f.sat (-(valOf f.typ a)), 0#5)
def shlE (f : Fields) (a b : Nat) : FRes := (narrow f.typ f.sat (valOf f.typ a * 2 ^ (b % (8 * f.typ.size))), 0#5)
def shrE (f : Fields) (a b : Nat) : FRes := (a / 2 ^ (b % (8 * f.typ.size)), 0#5)
def sarE (f : Fields) (a b : Nat) : FRes :=
  let n := 8 * f.typ.size
  (lowBits n (toSigned n a / 2 ^ (b % n)), 0#5)

/-- One- and two-source element-wise commands. -/
def vec1 (b : Bank) (k : Cmd) (f : Fields) (g : Fields → Nat → FRes) : VRes :=
  let x := vsrc b false f f.typ f.opa
  gather f.typ k.mask fun i => g f (elemAt x f.typ.size i)
def vec2 (b : Bank) (k : Cmd) (f : Fields) (g : Fields → Nat → Nat → FRes) : VRes :=
  let x := vsrc b false f f.typ f.opa
  let y := vsrc b false f f.typ f.opb
  gather f.typ k.mask fun i => g f (elemAt x f.typ.size i) (elemAt y f.typ.size i)
def vec3 (b : Bank) (k : Cmd) (f : Fields) : VRes :=
  let x := vsrc b true f f.typ f.opa
  let y := vsrc b true f f.typ f.opb
  let z := vsrc b true f f.typ f.opc
  let s := f.typ.size
  gather f.typ k.mask fun i => ffma (fmtOf f.typ) f.rnd (elemAt x s i) (elemAt y s i) (elemAt z s i)

/-- VCMP (R242). -/
def vcmpOut (b : Bank) (k : Cmd) (f : Fields) : VRes :=
  let x := vsrc b false f f.typ f.opa
  let y := vsrc b false f f.typ f.opb
  let s := f.typ.size
  let l := (List.range f.typ.elems).map fun i =>
    if !active k.mask s i then (false, 0#5)
    else if f.typ.isFp then fcmp (fmtOf f.typ) f.mod.val (elemAt x s i) (elemAt y s i)
    else (intCond f.mod.val (valOf f.typ (elemAt x s i)) (valOf f.typ (elemAt y s i)), 0#5)
  (.pred (predOf s (l.map Prod.fst)), l.foldl (fun ev x => ev ||| x.2) 0#5)

/-- A source whose elements are moved as they are; .tm24 ones are reduced to their canonical containers first (R86). -/
def movedBits (t : Typ) (x : VBits) : VBits := if t = .tm24 then vecOf t ((elemsOf t x).map tm24Canon) else x
def moved (b : Bank) (f : Fields) (t : Typ) (o : Operand) : VBits := movedBits t (vsrc b false f t o)

/-- VSEL (R243). -/
def vselOut (b : Bank) (k : Cmd) (f : Fields) : VRes :=
  let t := typOfTag k.ta
  let x := moved b f t f.opa
  let y := moved b f t f.opb
  gather t k.mask fun i => (if active k.cp t.size i then elemAt x t.size i else elemAt y t.size i, 0#5)

/-- VMOV `.v` (R244), and a row of a tile. -/
def vmovOut (b : Bank) (k : Cmd) (f : Fields) (row : VBits) : VRes :=
  let t := typOfTag k.ta
  let x := if f.mod = 0 then moved b f t f.opa else row
  gather t k.mask fun i => (elemAt x t.size i, 0#5)

/-- VSPLAT (R245): `a` holds the scalar's low element bits. -/
def vsplatOut (k : Cmd) (f : Fields) : VRes :=
  let x := k.a.toNat % 2 ^ (8 * f.typ.size)
  gather f.typ k.mask fun _ => (if f.typ = .tm24 then tm24Canon x else x, 0#5)

/-- VIOTA (R247). -/
def viotaOut (k : Cmd) (f : Fields) : VRes :=
  gather f.typ k.mask fun i =>
    (lowBits (8 * f.typ.size) ((k.a.setWidth 64).toInt + (i : Int) * (k.b.setWidth 64).toInt), 0#5)

/-- VGET (R246). -/
def vgetOut (b : Bank) (k : Cmd) (f : Fields) : VRes :=
  let t := typOfTag k.ta
  let i := k.b.toNat
  if t.elems ≤ i then (.scalar 0, 0#5)
  else
    let e := elemAt (moved b f t f.opa) t.size i
    (.scalar (if t.isSigned then BitVec.ofInt 64 (toSigned (8 * t.size) e) else BitVec.ofNat 64 e), 0#5)

/-- VPUT (R246). -/
def vputOut (b : Bank) (k : Cmd) (f : Fields) : VRes :=
  let t := typOfTag k.ta
  let x := moved b f t f.opa
  let i := f.imm.toNat
  let v := k.b.toNat % 2 ^ 64
  let e := if t = .tm24 then tm24Canon (v % 2 ^ 24)
    else if t = .q then lowBits 128 (toSigned 64 v) else v % 2 ^ (8 * t.size)
  (.vec (if t.elems ≤ i then x else vecOf t (setAt (elemsOf t x) i e)), 0#5)

/-! Reductions and scans (R100, R251, R252). -/

/-- The identity of `.add`, `.min`, `.max` (0, 1, 2). -/
def identity (t : Typ) (op : Nat) : Nat :=
  if t.isFp then
    (match op with
     | 0 => fpZero (fmtOf t) true
     | 1 => fpInf (fmtOf t) false
     | _ => fpInf (fmtOf t) true)
  else
    let (lo, hi) := intRange t
    (match op with
     | 0 => 0
     | 1 => lowBits (8 * t.size) hi
     | _ => lowBits (8 * t.size) lo)

def redOp (f : Fields) (op : Nat) (a b : Nat) : FRes :=
  match op with
  | 0 => addE { f with sat := f.sat } a b
  | 1 => minmaxE false f a b
  | _ => minmaxE true f a b

/-- One level of the tree: neighbours combine. -/
def treeLevel (g : Nat → Nat → FRes) : List Nat → List Nat × Events
  | a :: b :: t =>
    let (x, ev) := g a b
    let (l, ev') := treeLevel g t
    (x :: l, ev ||| ev')
  | l => (l, 0#5)

def tree (g : Nat → Nat → FRes) : Nat → List Nat → Events → FRes
  | 0, l, ev => (l.headD 0, ev)
  | n + 1, l, ev => let (l', ev') := treeLevel g l; tree g n l' (ev ||| ev')

/-- The virtual lanes: an active element combines with its lane's identity. A vector has at most 128 elements, so each takes
a lane of its own. -/
def lanes (f : Fields) (op : Nat) (m : PBits) (x : VBits) : List Nat × Events :=
  let id := identity f.typ op
  let l := (List.range f.typ.elems).map fun i =>
    if active m f.typ.size i then redOp f op id (elemAt x f.typ.size i) else (id, 0#5)
  (l.map Prod.fst ++ List.replicate (256 - f.typ.elems) id, l.foldl (fun ev x => ev ||| x.2) 0#5)

/-- A lane's bits extended to 64 (R84, R251). -/
def extend (t : Typ) (x : Nat) : W64 :=
  if t.isSigned then BitVec.ofInt 64 (toSigned (8 * t.size) x) else BitVec.ofNat 64 x

def vredOut (b : Bank) (k : Cmd) (f : Fields) : VRes :=
  let (l, ev) := lanes f f.mod.val k.mask (vsrc b false f f.typ f.opa)
  let (x, ev) := tree (redOp f f.mod.val) 8 l ev
  (.scalar (extend f.typ x), ev)

/-- VSCAN's chain from element i on, `r` so far. -/
def scanGo (f : Fields) (m : PBits) (x : VBits) : Nat → Nat → Nat → Events → List Nat × Events
  | 0, _, _, ev => ([], ev)
  | n + 1, i, r, ev =>
    if active m f.typ.size i then
      let (r', ev') := redOp f (f.mod.val % 4) r (elemAt x f.typ.size i)
      let (l, e) := scanGo f m x n (i + 1) r' (ev ||| ev')
      ((if 4 ≤ f.mod.val then r else r') :: l, e)
    else
      let (l, e) := scanGo f m x n (i + 1) r ev
      (0 :: l, e)

def vscanOut (b : Bank) (k : Cmd) (f : Fields) : VRes :=
  let (l, ev) := scanGo f k.mask (vsrc b false f f.typ f.opa) f.typ.elems 0 (identity f.typ (f.mod.val % 4)) 0#5
  (.vec (vecOf f.typ l), ev)

/-! Permutes (R254). -/

def vpermOut (b : Bank) (k : Cmd) (f : Fields) : VRes :=
  let t := typOfTag k.ta
  let x := moved b f t f.opa
  let y := vsrc b false f (Typ.intOfSize t.size) f.opb
  gather t k.mask fun i =>
    let j := elemAt y t.size i
    (if j < t.elems then elemAt x t.size j else 0, 0#5)

def vcmprOut (b : Bank) (k : Cmd) (f : Fields) : VRes :=
  let t := typOfTag k.ta
  let x := moved b f t f.opa
  (.vec (vecOf t (((List.range t.elems).filter (active k.mask t.size)).map (elemAt x t.size))), 0#5)

/-- Place k of the active elements gets element k. -/
def expandGo (t : Typ) (m : PBits) (x : VBits) : Nat → Nat → Nat → List Nat
  | 0, _, _ => []
  | n + 1, i, j =>
    if active m t.size i then elemAt x t.size j :: expandGo t m x n (i + 1) (j + 1) else 0 :: expandGo t m x n (i + 1) j
def vexpdOut (b : Bank) (k : Cmd) (f : Fields) : VRes :=
  let t := typOfTag k.ta
  (.vec (vecOf t (expandGo t k.mask (moved b f t f.opa) t.elems 0 0)), 0#5)

/-! Conversions (R255-R257). -/

/-- Where the converted elements of part h come from and go to (R255): destination element j takes source element, or is
kept. -/
def partSource (ns nd : Nat) (h : Nat) (j : Nat) : Option Nat :=
  if ns ≤ nd then (if h * ns ≤ j && j < (h + 1) * ns then some (j - h * ns) else none)
  else some (h * nd + j)

/-- A conversion by parts: g on source elements, old destination kept or zero elsewhere. -/
def partsOut (m : PBits) (ts td : Typ) (h : Nat) (x old : VBits) (keep : Bool) (g : Nat → FRes) : VRes :=
  let l := (List.range td.elems).map fun j =>
    match partSource ts.elems td.elems h j with
    | some i => if active m td.size j then g (elemAt x ts.size i) else (0, 0#5)
    | none => (if keep then elemAt old td.size j else 0, 0#5)
  (.vec (vecOf td (l.map Prod.fst)), l.foldl (fun ev x => ev ||| x.2) 0#5)

def vcvtOut (b : Bank) (k : Cmd) (f : Fields) : VRes :=
  match tagOf b f.opa with
  | some _ =>
    let ts := typOfTag k.ta
    partsOut k.mask ts f.typ f.mod.val (vsrc b false f ts f.opa) (moved b f f.typ f.dst) (k.td.toNat == f.typ.code)
      (convertV ts f.typ f.rnd f.sat)
  | none =>
    let x := moved b f f.typ f.opa
    gather f.typ k.mask fun i => (elemAt x f.typ.size i, 0#5)

/-- One element of VQNT (R256): `scale` is binary32. The product is exact. -/
def quant (src dst : Typ) (r : Rnd) (scale x : Nat) : FRes :=
  let f32 : Fmt := fmtOf .f32
  let (lo, hi) := if dst = .t5 then ((-1 : Int), (1 : Int)) else intRange dst
  let n := 8 * dst.size
  match unpack (fmtOf src) x, unpack f32 scale with
  | .nan _, _ => (0, evInvalid)
  | _, .nan _ => (0, evInvalid)
  | .inf a, .inf b => (lowBits n (if a != b then lo else hi), 0#5)
  | .inf a, .fin b m _ => if m = 0 then (0, evInvalid) else (lowBits n (if a != b then lo else hi), 0#5)
  | .fin a m _, .inf b => if m = 0 then (0, evInvalid) else (lowBits n (if a != b then lo else hi), 0#5)
  | .fin a m e, .fin b m' e' =>
    let (q, exact) := roundInt r (a != b) (m * m') (e + e')
    (lowBits n (clamp lo hi q), if exact then 0#5 else evInexact)

/-- The result tag of VQNT. -/
def quantTyp (t : Typ) : Typ := if t = .s16 then .s16 else .s8

/-- The source format of VQNT: an immediate, a constant and zv are read as .f32 (R92; log 71). -/
def vqntOut (b : Bank) (k : Cmd) (f : Fields) : VRes :=
  let ts := if (tagOf b f.opa).isNone then .f32 else typOfTag k.ta
  let td := quantTyp f.typ
  partsOut k.mask ts td f.mod.val (vsrc b false f ts f.opa) (vsrc b false f td f.dst) (k.td.toNat == td.code)
    (quant ts f.typ f.rnd (k.b.toNat % 2 ^ 32))

def vrtagOut (b : Bank) (k : Cmd) (f : Fields) : VRes :=
  let x := vsrc b false f f.typ f.opa
  gather f.typ k.mask fun i => (elemAt x f.typ.size i, 0#5)

/-! Packed trits (R90, R259, R260). -/

/-- Trit q of a byte, as an integer; an illegal byte has none. -/
def tritOf (v q : Nat) : Int := ((v / 3 ^ q % 3 : Nat) : Int) - 1

/-- One packed trit written into the bytes. -/
def packTrit (d : List Nat) (tr : Nat) (w : Int) : List Nat :=
  let j := tr / 5
  let q := tr % 5
  let v := d.getD j 0
  let v := if 243 ≤ v then 121 else v
  setAt d j ((v : Int) + (w - tritOf v q) * 3 ^ q).toNat

def pack5tOut (b : Bank) (k : Cmd) (f : Fields) : VRes :=
  let x := vsrc b false f .s8 f.opa
  let d := if k.td.toNat = Typ.t5.code then elemsOf .t5 (vsrc b false f .t5 f.dst) else List.replicate 128 121
  let out := (List.range 128).foldl (fun d i =>
    let w : Int := if active k.mask 1 i then clamp (-1) 1 (toSigned 8 (elemAt x 1 i)) else 0
    packTrit d (f.mod.val * 128 + i) w) d
  (.vec (vecOf .t5 out), 0#5)

def unpk5tOut (b : Bank) (k : Cmd) (f : Fields) : VRes :=
  let x := vsrc b false f .t5 f.opa
  gather .s8 k.mask fun i =>
    let tr := f.mod.val * 128 + i
    let v := elemAt x 1 (tr / 5)
    (if 243 ≤ v then 0 else lowBits 8 (tritOf v (tr % 5)), 0#5)

/-- What a vector command that accesses no memory computes; `row` is the tile row of VMOV `.row`. -/
def vecCompute (b : Bank) (k : Cmd) (row : VBits) : VRes :=
  match k.ins with
  | .vadd f => vec2 b k f addE
  | .vsub f => vec2 b k f subE
  | .vmul f => vec2 b k f mulE
  | .vfma f => vec3 b k f
  | .vdiv f => vec2 b k f fun f x y => fdiv (fmtOf f.typ) f.rnd x y
  | .vsqrt f => vec1 b k f fun f x => fsqrt (fmtOf f.typ) f.rnd x
  | .vmin f => vec2 b k f (minmaxE false)
  | .vmax f => vec2 b k f (minmaxE true)
  | .vabs f => vec1 b k f absE
  | .vneg f => vec1 b k f negE
  | .vand f => vec2 b k f fun _ x y => (x &&& y, 0#5)
  | .vor f => vec2 b k f fun _ x y => (x ||| y, 0#5)
  | .vxor f => vec2 b k f fun _ x y => (x ^^^ y, 0#5)
  | .vshl f => vec2 b k f shlE
  | .vshr f => vec2 b k f shrE
  | .vsar f => vec2 b k f sarE
  | .vcmp f => vcmpOut b k f
  | .vsel f => vselOut b k f
  | .vmov f => vmovOut b k f row
  | .vsplat f => vsplatOut k f
  | .vred f => vredOut b k f
  | .vscan f => vscanOut b k f
  | .viota f => viotaOut k f
  | .vget f => vgetOut b k f
  | .vput f => vputOut b k f
  | .vperm f => vpermOut b k f
  | .vcmpr f => vcmprOut b k f
  | .vexpd f => vexpdOut b k f
  | .vsfu f => vec1 b k f fun f x => sfu (fmtOf f.typ) f.rnd f.mod.val x
  | .vcvt f => vcvtOut b k f
  | .vqnt f => vqntOut b k f
  | .vrtag f => vrtagOut b k f
  | .pack5t f => pack5tOut b k f
  | .unpk5t f => unpk5tOut b k f
  | _ => (.none, 0#5)

end Sys2Proof.Machine
end

