-- ==== Sys2Proof/Machine/VecMem.lean ====
section
/-! DEFINITION. The vector loads and stores of class 7 (R198-R200): issue, element addresses, and the bytes they read and
write. -/

namespace Sys2Proof.Machine

/-- Typed destination tag. -/
def tagT (t : Typ) : Bank → Option (BitVec 4) := fun _ => some (BitVec.ofNat 4 t.code)

/-- Issue of a vector load. -/
def vloadIssue (i : Instr) (f : Fields) (check : State → Option FaultInfo) (prep : State → Cmd → Cmd) (s : State) : State :=
  vecIssue i f (fun _ => f.typ.size) check (tagT f.typ) true prep s

/-- Issue of a vector store: the data entry carries typ (R92). -/
def vstoreIssue (i : Instr) (f : Fields) (check : State → Option FaultInfo) (prep : State → Cmd → Cmd) (s : State) : State :=
  vecIssue i f (fun _ => f.typ.size)
    (fun s => match needTag s.bank f.dst 0 f.typ with
      | some x => some x
      | none => check s)
    (fun _ => none) true prep s

/-- The index vector of LDVG and STVX (R199). -/
def needIndex (f : Fields) (s : State) : Option FaultInfo :=
  needOneOf s f.opb 2 fun t => t.isInt && t.size == f.typ.size

def unit2 (s : State) (f : Fields) (k : Cmd) : Cmd := { k with addr := effAddr s f }
def strided (s : State) (f : Fields) (k : Cmd) : Cmd := { k with addr := baseAddr s f, a := (rd s f f.opb).setWidth 128 }
def indexed (s : State) (f : Fields) (k : Cmd) : Cmd := { k with addr := baseAddr s f }

def execLdv (f : Fields) (s : State) : Res :=
  .next (vloadIssue (.ldv f) f (fun _ => none) (unit2 · f) s)
def execLdvs (f : Fields) (s : State) : Res :=
  .next (vloadIssue (.ldvs f) f (fun _ => none) (strided · f) s)
def execLdvg (f : Fields) (s : State) : Res :=
  .next (vloadIssue (.ldvg f) f (needIndex f) (indexed · f) s)
def execStv (f : Fields) (s : State) : Res :=
  .next (vstoreIssue (.stv f) f (fun _ => none) (unit2 · f) s)
def execStvs (f : Fields) (s : State) : Res :=
  .next (vstoreIssue (.stvs f) f (fun _ => none) (strided · f) s)
def execStvx (f : Fields) (s : State) : Res :=
  .next (vstoreIssue (.stvx f) f (needIndex f) (indexed · f) s)

/-! What such a command accesses. -/

def Cmd.vecMem (k : Cmd) : Option (Fields × Bool) :=
  match k.ins with
  | .ldv f | .ldvs f | .ldvg f => some (f, false)
  | .stv f | .stvs f | .stvx f => some (f, true)
  | _ => none

/-- Address of element i (R199), modulo 2^64. -/
def vecElemAddr (b : Bank) (k : Cmd) (f : Fields) (i : Nat) : Nat :=
  match k.ins with
  | .ldvs _ | .stvs _ => (BitVec.ofNat 64 k.addr + BitVec.ofInt 64 ((i : Int) * (k.a.setWidth 64).toInt)).toNat
  | .ldvg _ | .stvx _ =>
    let t := if (tagOf b f.opb).isNone then Typ.intOfSize f.typ.size else typOfTag k.tb
    let x := elemAt (vsrc b false f t f.opb) t.size i
    let w : W64 := if t.isSigned then BitVec.ofInt 64 (toSigned (8 * t.size) x) else BitVec.ofNat 64 x
    (BitVec.ofNat 64 k.addr + w <<< f.mod.val).toNat
  | _ => (k.addr + i * f.typ.size) % 2 ^ 64

/-- The parts of the active elements, an element's bytes at its place in the vector. -/
def vecParts (b : Bank) (k : Cmd) (f : Fields) : List Part :=
  let s := f.typ.size
  ((List.range f.typ.elems).filter (active k.mask s)).flatMap fun i => partsOf (vecElemAddr b k f i) (i * s) s

end Sys2Proof.Machine
end

