-- ==== Sys2Proof/Machine/VecPermute.lean ====
section
/-! DEFINITION. Class 10: element moves, permutes, conversions, special functions and packed trits (R246, R254-R260). -/

namespace Sys2Proof.Machine

/-- The tag of the data source, copied (R91). -/
def tagOfA (f : Fields) (b : Bank) : Option (BitVec 4) := tagOf b f.opa

def withA (f : Fields) (s : State) (k : Cmd) : Cmd := { k with a := (rd s f f.opa).setWidth 128 }
def withB (f : Fields) (s : State) (k : Cmd) : Cmd := { k with b := (rd s f f.opb).setWidth 128 }

def execVget (f : Fields) (s : State) : Res :=
  .next (vecIssue0 (.vget f) f (fun s => needData s f.opa 1) (fun _ => none) (withB f) s)
def execVput (f : Fields) (s : State) : Res :=
  .next (vecIssue0 (.vput f) f (fun s => needData s f.opa 1) (tagOfA f) (withB f) s)

/-- The index vector of VPERM: an integer tag of the data's element size. -/
def execVperm (f : Fields) (s : State) : Res :=
  .next (vecIssue (.vperm f) f (fun b => dataSize b f.opa)
    (fun s => match needData s f.opa 1 with
      | some x => some x
      | none => needOneOf s f.opb 2 fun t => t.isInt && t.size == dataSize s.bank f.opa)
    (tagOfA f) false (fun _ k => k) s)
def execVcmpr (f : Fields) (s : State) : Res :=
  .next (vecIssue (.vcmpr f) f (fun b => dataSize b f.opa) (fun s => needData s f.opa 1) (tagOfA f) false (fun _ k => k) s)
def execVexpd (f : Fields) (s : State) : Res :=
  .next (vecIssue (.vexpd f) f (fun b => dataSize b f.opa) (fun s => needData s f.opa 1) (tagOfA f) false (fun _ k => k) s)
def execVsfu (f : Fields) (s : State) : Res :=
  .next (vecIssue (.vsfu f) f (fun _ => f.typ.size) (fun s => needTag s.bank f.opa 1 f.typ) (tagT f.typ) true
    (fun _ k => k) s)

/-- Parts of a conversion from ts to td: the ratio of the sizes (R255). -/
def partRatio (ts td : Typ) : Nat := if ts.size ≤ td.size then td.size / ts.size else ts.size / td.size

/-- The checks of VCVT and VQNT at issue: the source's tag, then the part, then that the rounding means something; a source
without a tag has the format `ts`. -/
def partCheck (i : Instr) (f : Fields) (ok : Typ → Bool) (rounds : Typ → Bool) (ts td : Typ) (s : State) :
    Option FaultInfo :=
  match needOneOf s f.opa 1 ok with
  | some x => some x
  | none =>
    let ts := match tagOf s.bank f.opa with
      | some t => typOfTag t
      | none => ts
    if partRatio ts td ≤ f.mod.val || (f.rnd != .rne && !rounds ts) then some (illegalInfo (encode i)) else none

/-- VCVT rounds where an FP format is among its two (R89, R94, R134, R255). -/
def execVcvt (f : Fields) (s : State) : Res :=
  .next (vecIssue (.vcvt f) f (fun _ => f.typ.size) (partCheck (.vcvt f) f (fun t => t != .t5 && t != .q)
    (fun t => t.isFp || f.typ.isFp) f.typ f.typ)
    (tagT f.typ) false (fun _ k => k) s)
def execVqnt (f : Fields) (s : State) : Res :=
  .next (vecIssue (.vqnt f) f (fun _ => f.typ.size)
    (partCheck (.vqnt f) f (fun t => t == .f32 || t == .f16 || t == .bf16) (fun _ => true) .f32 (quantTyp f.typ))
    (tagT (quantTyp f.typ)) false (fun s k => { k with b := (rdT s false f .f32 f.opb).setWidth 128 }) s)
def execVrtag (f : Fields) (s : State) : Res :=
  .next (vecIssue (.vrtag f) f (fun _ => f.typ.size) (fun _ => none) (tagT f.typ) false (fun _ k => k) s)
def execPack5t (f : Fields) (s : State) : Res :=
  .next (vecIssue (.pack5t f) f (fun _ => 1) (fun s => needTag s.bank f.opa 1 .s8) (tagT .t5) false (fun _ k => k) s)
def execUnpk5t (f : Fields) (s : State) : Res :=
  .next (vecIssue (.unpk5t f) f (fun _ => 1) (fun s => needTag s.bank f.opa 1 .t5) (tagT .s8) false (fun _ k => k) s)

end Sys2Proof.Machine
end

