-- ==== Sys2Proof/Machine/VecArith.lean ====
section
/-! DEFINITION. Class 9, vector arithmetic, moves, reductions and the predicate unit (R235-R252). -/

namespace Sys2Proof.Machine

/-- Issue of an element-wise command of one format: its sources carry typ. -/
def arith (i : Instr) (f : Fields) (long : Bool) (tag : Bank → Option (BitVec 4)) (srcs : List (Operand × Nat))
    (s : State) : State :=
  vecIssue i f (fun _ => f.typ.size) (fun s => srcs.findSome? fun (o, k) => needTag s.bank o k f.typ) tag long
    (fun _ k => k) s

def arith1 (i : Instr) (f : Fields) (s : State) : State := arith i f false (tagT f.typ) [(f.opa, 1)] s
def arith2 (i : Instr) (f : Fields) (s : State) : State := arith i f false (tagT f.typ) [(f.opa, 1), (f.opb, 2)] s

def execVadd (f : Fields) (s : State) : Res := .next (arith2 (.vadd f) f s)
def execVsub (f : Fields) (s : State) : Res := .next (arith2 (.vsub f) f s)
def execVmul (f : Fields) (s : State) : Res := .next (arith2 (.vmul f) f s)
def execVfma (f : Fields) (s : State) : Res :=
  .next (arith (.vfma f) f false (tagT f.typ) [(f.opa, 1), (f.opb, 2), (f.opc, 3)] s)
def execVdiv (f : Fields) (s : State) : Res :=
  .next (arith (.vdiv f) f true (tagT f.typ) [(f.opa, 1), (f.opb, 2)] s)
def execVsqrt (f : Fields) (s : State) : Res := .next (arith (.vsqrt f) f true (tagT f.typ) [(f.opa, 1)] s)
def execVmin (f : Fields) (s : State) : Res := .next (arith2 (.vmin f) f s)
def execVmax (f : Fields) (s : State) : Res := .next (arith2 (.vmax f) f s)
def execVabs (f : Fields) (s : State) : Res := .next (arith1 (.vabs f) f s)
def execVneg (f : Fields) (s : State) : Res := .next (arith1 (.vneg f) f s)
def execVand (f : Fields) (s : State) : Res := .next (arith2 (.vand f) f s)
def execVor (f : Fields) (s : State) : Res := .next (arith2 (.vor f) f s)
def execVxor (f : Fields) (s : State) : Res := .next (arith2 (.vxor f) f s)
def execVshl (f : Fields) (s : State) : Res := .next (arith2 (.vshl f) f s)
def execVshr (f : Fields) (s : State) : Res := .next (arith2 (.vshr f) f s)
def execVsar (f : Fields) (s : State) : Res := .next (arith2 (.vsar f) f s)
def execVcmp (f : Fields) (s : State) : Res :=
  .next (arith (.vcmp f) f false (fun _ => none) [(f.opa, 1), (f.opb, 2)] s)
def execVred (f : Fields) (s : State) : Res := .next (arith (.vred f) f true (fun _ => none) [(f.opa, 1)] s)
def execVscan (f : Fields) (s : State) : Res := .next (arith (.vscan f) f true (tagT f.typ) [(f.opa, 1)] s)

/-- VSEL: both sources carry the same non-zero tag (R243), else the fault names opb (log 79); the mask of c is read at issue. -/
def execVsel (f : Fields) (s : State) : Res :=
  .next (vecIssue (.vsel f) f (fun b => dataSize b f.opa)
    (fun s => match needData s f.opa 1 with
      | some x => some x
      | none => needTag s.bank f.opb 2 (dataTyp s.bank f.opa))
    (tagOfA f) false (fun s k => { k with cp := rdP s f.opc }) s)

/-! Tiles, as the task engine sees them at issue (R244, R315). -/

def tileNo : Operand → Nat
  | .a n => n.val
  | _ => 0

/-- Tiles that a gear command writes: an .f64 GMM and a pair GZERO write two. -/
def Cmd.gmmTiles (k : Cmd) : List Nat :=
  match k.ins with
  | .gmm f => if f.typ = .f64 then [tileNo f.dst, tileNo f.dst + 1] else [tileNo f.dst]
  | _ => []
def Cmd.gzeroTiles (k : Cmd) : List Nat :=
  match k.ins with
  | .gzero f => if f.mod = 1 then [tileNo f.dst, tileNo f.dst + 1] else [tileNo f.dst]
  | _ => []

/-- The tag a tile will hold when every older gear command has run. -/
def tileTag (c : Core) (n : Nat) : BitVec 4 :=
  c.gear.cmds.foldl (fun t k =>
    if k.gmmTiles.contains n then (match k.ins with
      | .gmm f => if f.typ = .f64 then 12#4 else 11#4
      | _ => t)
    else if k.gzeroTiles.contains n then (match k.ins with
      | .gzero f => if f.mod = 1 then 12#4 else 11#4
      | _ => t)
    else t) (if h : n < 8 then c.cx.tiles[n].tag else 0)

/-- GMMs that target a tile, queued or executing, oldest first. -/
def busyGmms (c : Core) (n : Nat) : List Cmd := c.gear.cmds.filter fun k => k.gmmTiles.contains n

/-- The accumulator-busy trap (R315): reader 0 GRD, 1 GST, 2 VMOV `.row`, 3 the GMM itself. -/
def busyFault (reason count reader tile : Nat) (pc : W64) : FaultInfo :=
  { cause := 16, s5 := 0, s6 := BitVec.ofNat 64 (reason * 2 ^ 12 + count * 2 ^ 8 + reader * 2 ^ 4 + tile)
    s7 := BitVec.ofNat 64 (bits pc 0 48) }

def busyCheck (s : State) (reader tile : Nat) : Option FaultInfo :=
  match busyGmms s.here tile with
  | [] => none
  | k :: ks => some (busyFault 0 (ks.length + 1) reader tile (originOf s s.here k.pc).pc)

/-- VMOV `.row` takes its element size from the tile's tag. -/
def rowTag (s : State) (f : Fields) : BitVec 4 := tileTag s.here (tileNo f.opa)

def execVmov (f : Fields) (s : State) : Res :=
  .next (if f.mod = 0 then
    vecIssue (.vmov f) f (fun b => dataSize b f.opa) (fun s => needData s f.opa 1) (tagOfA f) false (fun _ k => k) s
  else
    let t := rowTag s f
    vecIssue (.vmov f) f (fun _ => if t = 0 then 0 else (typOfTag t).size)
      (fun s => match busyCheck s 2 (tileNo f.opa) with
        | some x => some x
        | none => if t = 0 then some (tagFault f.opa 1 0 ((Config.freeWord s.fresh).toNat % 16)) else none)
      (fun _ => some t) false (fun _ k => { k with ta := t }) s)

def execVsplat (f : Fields) (s : State) : Res :=
  .next (vecIssue (.vsplat f) f (fun _ => f.typ.size) (fun _ => none) (tagT f.typ) false
    (fun s k => { k with a := (rdT s false f f.typ f.opa).setWidth 128 }) s)

def execViota (f : Fields) (s : State) : Res :=
  .next (vecIssue (.viota f) f (fun _ => f.typ.size) (fun _ => none) (tagT f.typ) false
    (fun s k => withB f s (withA f s k)) s)

/-! The predicate unit (R235, R248-R250): at issue, and ls stays as it is. -/

/-- Write a scalar destination that leaves ls alone. -/
def wreg (s : State) (d : Operand) (x : W64) : State := s.setBank (s.bank.wd d x)

/-- The condition of VWHILE on exact sums. -/
def whileCond (m : Nat) (a b : W64) (i : Nat) : Bool :=
  match m with
  | 0 => a.toInt + i < b.toInt
  | 1 => a.toInt + i ≤ b.toInt
  | 2 => a.toNat + i < b.toNat
  | _ => a.toNat + i ≤ b.toNat

def execVwhile (f : Fields) (s : State) : Res :=
  .next (run f (fun s =>
    let a := rd s f f.opa
    let b := rd s f f.opb
    .done (wpred s f.dst (predOf f.typ.size ((List.range f.typ.elems).map (whileCond f.mod.val a b))))) s)

def execVlen (f : Fields) (s : State) : Res :=
  .next (run f (fun s => .done (wreg s f.dst (BitVec.ofNat 64 f.typ.elems))) s)

/-- The bits of a predicate at the element size 1, 2, 4 or 8 of mod. -/
def predBits (m : Nat) (p : PBits) : List Bool := (List.range (128 / 2 ^ m)).map (active p (2 ^ m))

def firstTrue : List Bool → Nat
  | [] => 0
  | b :: t => if b then 0 else firstTrue t + 1

def execVpcnt (f : Fields) (s : State) : Res :=
  .next (run f (fun s =>
    .done (wreg s f.dst (BitVec.ofNat 64 ((predBits f.mod.val (rdP s f.opa)).filter id).length))) s)

def execVpfirst (f : Fields) (s : State) : Res :=
  .next (run f (fun s => .done (wreg s f.dst (BitVec.ofNat 64 (firstTrue (predBits f.mod.val (rdP s f.opa)))))) s)

end Sys2Proof.Machine
end

