-- ==== Sys2Proof/Machine/Shuttle.lean ====
section
/-! DEFINITION. Class 11, the shuttle instructions at issue, and the descriptor they read (R261-R270). -/

namespace Sys2Proof.Machine

/-- Own local memory through its alias, below the inbox (R263). -/
def ownRange (a len : Nat) : Bool := ownBase ≤ a && a + len ≤ 0xFF000001F000

/-- The precise address fault of an operand address, with the kind of the engine's read. -/
def operandFault (a len : Nat) : FaultInfo := addrFault a .engRead len

/-- A shuttle command's checks at issue, then its place in the queue. -/
def shuttleEff (i : Instr) (f : Fields) (check : State → Option FaultInfo) (prep : State → Cmd → Cmd) (s : State) : Eff :=
  let a := (rd s f f.opa).toNat
  if a % 32 != 0 || !ownRange a 32 then .fault (operandFault a 32)
  else match check s with
    | some x => .fault x
    | none => pushCmd s f .shu (prep s { newCmd s i f with addr := a })

def issueShuttle (i : Instr) (f : Fields) (check : State → Option FaultInfo) (prep : State → Cmd → Cmd) (s : State) : State :=
  run f (shuttleEff i f check prep) s

/-- The index list of CPYG and CPYX (R267). -/
def indexCheck (f : Fields) (s : State) : Option FaultInfo :=
  let b := (rd s f f.opb).toNat
  if b % 4 != 0 || !ownRange b 4 then some (operandFault b 4) else none

/-- The loop-count block of CPYL (R269): alignment in both modes, own local memory for `.full`. -/
def blockCheck (f : Fields) (s : State) : Option FaultInfo :=
  let b := (rd s f f.opb).toNat
  if b % 16 != 0 || (f.mod = 0 && !ownRange b 16) then some (operandFault b 16) else none

def execCpy (f : Fields) (s : State) : Res := .next (issueShuttle (.cpy f) f (fun _ => none) (fun _ k => k) s)
def execCpyg (f : Fields) (s : State) : Res := .next (issueShuttle (.cpyg f) f (indexCheck f) (withB f) s)
def execCpyx (f : Fields) (s : State) : Res := .next (issueShuttle (.cpyx f) f (indexCheck f) (withB f) s)
def execCpyl (f : Fields) (s : State) : Res := .next (issueShuttle (.cpyl f) f (blockCheck f) (withB f) s)

/-- The fill value (R268). -/
def fillValue (s : State) (f : Fields) : W128 :=
  if f.typ = .q then
    match f.opb with
    | .s n => BitVec.ofNat 128 ((s.bank.rs n).toNat + (s.bank.rsAt (n.val + 1)).toNat * 2 ^ 64)
    | .k n => BitVec.ofInt 128 (constInt n.val)
    | _ => BitVec.ofInt 128 (immI false f)
  else (rdT s false f f.typ f.opb).setWidth 128

/-- A pair of registers holds a .q fill value; both must have arrived. -/
def execCpyset (f : Fields) (s : State) : Res :=
  .next (run f (fun s =>
    if f.typ = .q && s.here.waits (pairRegs f.opb true) then .stall
    else shuttleEff (.cpyset f) f (fun _ => none) (fun s k => { k with b := fillValue s f }) s) s)

/-! CPYC (R270). -/

/-- The token register of a command. -/
def Cmd.tok (k : Cmd) : Operand :=
  match k.ins with
  | .cpy f | .cpyg f | .cpyx f | .cpyl f | .cpyset f => f.dst
  | _ => .s 0

def tokCancelled : W64 := BitVec.ofInt 64 (-32)

/-- Write a token into the bank of a command, if its task still runs there (R71, log 10); ls stays. -/
def writeToken (c : Core) (k : Cmd) (x : W64) : Core :=
  let b := c.bankOf k.bank
  if b.task.serial = k.task then c.setBankOf k.bank (b.wd k.tok x) else c

/-- An executing target starts no further part; the parts whose requests have left, and those in the non-temporal pool (`sent`),
complete before the token is written. One whose parts have all been applied is complete. -/
def cancelExec (sent : Bool) (e : Exec) : Exec :=
  match e.phase with
  | .faulted => e
  | .ending => if sent then { e with token := some tokCancelled, fault := none } else e
  | _ =>
    let away (l : List Part) : List Part := l.filter fun p => p.sent && !p.done
    let gone := (away e.rd).isEmpty && (away e.wr).isEmpty
    { e with phase := if gone then .ending else .running, rd := away e.rd, wr := away e.wr, token := some tokCancelled, fault := none }

def cancelCmds (c : Core) (hit : Cmd → Bool) : Core :=
  let q := c.shu
  let c := (q.waiting.filter hit).foldl (fun c k => writeToken c k tokCancelled) c
  { c with shu := {
      waiting := q.waiting.filter fun k => !hit k
      run := q.run.map fun e => if hit e.cmd then cancelExec (c.ops.any fun o => o.id == e.cmd.id) e else e } }

/-- CPYC never stalls on a pending token (R264): only its guard is waited for. -/
def execCpyc (f : Fields) (s : State) : Res :=
  let c := s.here
  let b := c.bank
  .next (match violation s b.task f with
    | some i => raise s i .lookahead
    | none =>
      if c.waits (if f.guard.p = 0 then [] else [.p f.guard.p]) then s
      else if !guard0 b f then retire s f none
      else settle f s (.done (s.setCore (cancelCmds c fun k => k.bank == c.rb && (f.mod = 1 || k.tok == f.dst)))))

/-! The descriptor (R261, R263). -/

structure Desc where
  src : Nat
  n0 : Nat
  dst : Nat
  n1 : Nat
  quiet : Bool
  nt : Bool
  srs : Int
  drs : Int
  n2 : Nat
  sps : Int
  dps : Int
  deriving DecidableEq, Repr

def descOf (w : List W64) : Desc :=
  let w0 := w.getD 0 0
  let w1 := w.getD 1 0
  let w2 := w.getD 2 0
  let w3 := w.getD 3 0
  { src := bits w0 0 48, n0 := bits w0 48 16 + 1, dst := bits w1 0 48, n1 := bits w1 48 12 + 1, quiet := bit w1 60
    nt := bit w1 61, srs := toSigned 32 (bits w2 0 32), drs := toSigned 32 (bits w2 32 32), n2 := bits w3 0 12 + 1
    sps := toSigned 26 (bits w3 12 26), dps := toSigned 26 (bits w3 38 26) }

/-- The descriptor obeys R261 and its instruction's rules (R267, R268); `b` is the second operand. -/
def descOk (i : Instr) (w : List W64) (b : Nat) : Bool :=
  let d := descOf w
  bits (w.getD 1 0) 62 2 == 0 && (match i with
    | .cpyg _ | .cpyx _ => d.n2 == 1 && d.sps == 0 && d.dps == 0 && ownRange b (4 * d.n1)
    | .cpyset f => d.src == 0 && d.n0 % f.typ.size == 0
    | _ => true)

end Sys2Proof.Machine
end

