-- ==== Sys2Proof/Machine/Weft.lean ====
section
/-! DEFINITION. Class 12, the weft array: its instructions at issue, and what its commands compute (R281-R295). -/

namespace Sys2Proof.Machine

/-- Bytes an operand covers and its alignment (R286). -/
def weftSpan (i : Instr) : Nat × Nat :=
  match i with
  | .wload f => (320 * f.typ.size, f.typ.size)
  | .wscl _ => (256, 2)
  | .wrun _ => (8192, 128)
  | .wdrain _ => (512, 16)
  | _ => (0, 1)

def weftOperandOk (i : Instr) (ea : Nat) : Bool := ownRange ea (weftSpan i).1 && ea % (weftSpan i).2 == 0

/-- Issue of a weft command; those with an operand check it (R286). -/
def issueWeft (i : Instr) (f : Fields) (operand : Bool) (write : Bool) (s : State) : State :=
  run f (fun s =>
    let ea := baseAddr s f
    if operand && !weftOperandOk i ea then
      .fault (addrFault ea (if write then .engWrite else .engRead) (weftSpan i).1)
    else pushCmd s f .weft { newCmd s i f with addr := if operand then ea else 0 }) s

def execWcfg (f : Fields) (s : State) : Res := .next (issueWeft (.wcfg f) f false false s)
def execWload (f : Fields) (s : State) : Res := .next (issueWeft (.wload f) f true false s)
def execWscl (f : Fields) (s : State) : Res := .next (issueWeft (.wscl f) f true false s)
def execWrun (f : Fields) (s : State) : Res := .next (issueWeft (.wrun f) f true false s)
def execWdrain (f : Fields) (s : State) : Res := .next (issueWeft (.wdrain f) f true true s)
def execWzero (f : Fields) (s : State) : Res := .next (issueWeft (.wzero f) f false false s)
def execWstat (f : Fields) (s : State) : Res := .next (issueWeft (.wstat f) f false false s)

/-! What the commands do to the array's state. -/

/-- The status word (R283). -/
def WeftSt.status (w : WeftSt) : W64 :=
  BitVec.ofNat 64 (w.ill.toNat * 2 ^ 48 + w.prow.toNat * 2 ^ 32 + w.ran.toNat * 2 ^ 24 + boolNat w.part * 2 ^ 22
    + w.stop.toNat * 2 ^ 16 + boolNat w.bnd * 2 ^ 9 + boolNat (w.apois != 0) * 2 ^ 8 + boolNat w.pol)

/-- A saturating sum of a 16-bit counter. -/
def sat16 (a : BitVec 16) (n : Nat) : BitVec 16 := BitVec.ofNat 16 (min 65535 (a.toNat + n))

/-- WCFG (R287). -/
def weftCfg (w : WeftSt) (count : Bool) : WeftSt :=
  { w with pol := count, ill := 0, prow := 0, ran := 0, part := false, stop := 0 }
/-- WZERO (R287). -/
def weftZero (w : WeftSt) : WeftSt :=
  { w with acc := Vector.replicate 128 0, apois := 0, bound := 0, bnd := false }

def bitsOf (n : Nat) (l : List Bool) : BitVec n :=
  BitVec.ofNat n ((l.zip (List.range l.length)).foldl (fun acc (b, i) => acc + boolNat b * 2 ^ i) 0)

/-- WLOAD (R288): element k from the bytes read, poisoned where its granule is. -/
def weftLoad (w : WeftSt) (size : Nat) (got : List PByte) : WeftSt :=
  let el (k : Nat) : List PByte := sub got (k * size) size
  { w with
    latch := Vector.ofFn fun (k : Fin 320) =>
      BitVec.ofNat 32 (tm24Of (toSigned (8 * size) (ofBytes ((el k.val).map PByte.b))))
    lpois := bitsOf 320 ((List.range 320).map fun k => anyPois (el k)) }

def xAt (w : WeftSt) (k : Nat) : Nat := (w.latch.toList.getD k 0).toNat

/-- R290: a pick that is not executed. -/
def skippable (w : WeftSt) (j : Nat) (b : List PByte) : Bool :=
  ((List.range 5).all fun i => xAt w (5 * j + i) == 0 && !w.lpois.getLsbD (5 * j + i))
    || b.all fun x => x.b == 121#8 && !x.p

/-- Rows of a pick with an illegal byte; a poisoned byte is applied as 121 and is none. -/
def illegalRows (b : List PByte) : List Nat :=
  (List.range 128).filter fun r => match b[r]? with
    | some x => !x.p && 243 ≤ x.b.toNat
    | none => false

/-- One row's five trits added into its accumulator (R289). -/
def rowSum (w : WeftSt) (j : Nat) (v acc : Nat) : Nat :=
  (List.range 5).foldl (fun acc i =>
    let t := tritOf v i
    if t = 1 then tm24Add acc (xAt w (5 * j + i)) else if t = -1 then tm24Sub acc (xAt w (5 * j + i)) else acc) acc

/-- The weight byte as applied: illegal and poisoned bytes as 121. -/
def weightOf (x : PByte) : Nat := if x.p || 243 ≤ x.b.toNat then 121 else x.b.toNat

/-- An executed pick. -/
def applyPick (w : WeftSt) (j : Nat) (b : List PByte) : WeftSt :=
  let at_ (r : Nat) : PByte := b.getD r { b := 121, p := false }
  { w with
    acc := Vector.ofFn fun (r : Fin 128) => BitVec.ofNat 32 (rowSum w j (weightOf (at_ r.val)) w.acc[r].toNat)
    apois := w.apois ||| bitsOf 128 ((List.range 128).map fun r =>
      (at_ r).p || (List.range 5).any fun i =>
        tritOf (weightOf (at_ r)) i != 0 && w.lpois.getLsbD (5 * j + i)) }

/-- Σ |x_k| of the latch. -/
def latchSum (w : WeftSt) : Nat := w.latch.toList.foldl (fun n x => n + (tm24Int x.toNat).natAbs) 0

/-- The end of a whole WRUN (R289); `ran` picks executed. DESIGN CHOICE (log 107): picks that a rewound resume executes again count
again, and the count wraps at its 7 bits (R283). -/
def endRun (w : WeftSt) (ran : Nat) : WeftSt :=
  let b := min (2 ^ 63 - 1) (w.bound + latchSum w)
  { w with bound := b, bnd := w.bnd || 8257919 < b, part := false, stop := 0, ran := BitVec.ofNat 7 ran }

/-- The cause words of an illegal weight code (R292). -/
def illegalWeight (tile j : Nat) (b : List PByte) (rows : List Nat) : FaultInfo :=
  let r := rows.headD 0
  let v := ((b[r]?).map fun x => x.b.toNat).getD 0
  { cause := 18, s5 := BitVec.ofNat 64 (tile + 128 * j + r)
    s6 := BitVec.ofNat 64 (j + r * 2 ^ 8 + v * 2 ^ 16 + rows.length * 2 ^ 24), s7 := BitVec.ofNat 64 tile }

/-- One drained row (R293): its new FP32 value, its events, and whether it is poisoned. -/
def drainRow (w : WeftSt) (r : Nat) (scale dst : List PByte) : Nat × Events × Bool :=
  let f32 := fmtOf .f32
  let y := tm24Int ((w.acc.toList.getD r 0).toNat)
  let f := (intToFp f32 .rne y).1
  let s := ofBytes (scale.map PByte.b)
  let d := ofBytes (dst.map PByte.b)
  let p := if isNaN (fmtOf .bf16) s then genNaN f32 2 else fmul f32 .rne f (s * 65536)
  let z := fadd f32 .rne d p.1
  (z.1, p.2 ||| z.2, w.apois.getLsbD r || anyPois scale || anyPois dst)

/-- A drain's rows, bytes out with poison by granule, events, poisoned rows; a poisoned row's value is free (log 5). -/
def drainRows (w : WeftSt) (scales dst : List PByte) (fresh : Nat) : List PByte × Events × Nat :=
  let rows := (List.range 128).map fun r =>
    let (v, ev, pz) := drainRow w r (sub scales (2 * r) 2) (sub dst (4 * r) 4)
    ((if pz then (Config.freeWord (fresh + r)).toNat % 2 ^ 32 else v), ev, pz)
  (rows.flatMap fun (v, _, pz) => (toBytes 4 v).map fun b => { b := b, p := pz },
   rows.foldl (fun e x => e ||| x.2.1) 0#5, (rows.filter fun x => x.2.2).length)

end Sys2Proof.Machine
end

