-- ==== Sys2Proof/Machine/Image.lean ====
section
/-! DEFINITION. The context image as memory words (R121, R282, R300, R302): what the debug window shows, and what the firmware
writes into the dump area (R165). Offsets are multiples of 8. -/

namespace Sys2Proof.Machine

/-! Words of wide values. -/

def wordAt {n : Nat} (x : BitVec n) (k : Nat) : W64 := BitVec.ofNat 64 (x.toNat / 2 ^ (64 * k))
def setWordAt {n : Nat} (x : BitVec n) (k : Nat) (v : W64) : BitVec n :=
  BitVec.ofNat n (x.toNat - x.toNat / 2 ^ (64 * k) % 2 ^ 64 * 2 ^ (64 * k) + v.toNat * 2 ^ (64 * k))

/-- Tags of 4 bits, 16 to a word. -/
def tagWord (l : List (BitVec 4)) : W64 :=
  BitVec.ofNat 64 ((l.take 16).reverse.foldl (fun x t => x * 16 + t.toNat) 0)
def tagsOfWord (v : W64) (i : Nat) : BitVec 4 := BitVec.ofNat 4 (bits v (4 * i) 4)

/-! The lookahead state (R121). -/

def Reg.code : Reg → Nat
  | .s n => n.val
  | .p n => 64 + n.val
  | .v n => 80 + n.val
  | .o n => 112 + n.val

/-- The form of a bank's windows, in the implementation's own layout; zero stands for no window, so open windows have
another form. -/
def formOf (t : TaskSt) : W128 :=
  let x := Config.lookaheadForm (t.windows.map fun w => (w.pc, w.left, w.regs.map Reg.code))
  if x = 0 && !t.windows.isEmpty then 1 else x

/-- A write of half of it: what was last read keeps the windows, zero closes them, anything else leaves the checks
undefined. Where no window is open, there is nothing to leave undefined but the window of an L op that issues next (log 93). -/
def writeForm (t : TaskSt) (k : Nat) (v : W64) : TaskSt :=
  let x := setWordAt (t.form.getD (formOf t)) k v
  if x = 0 then { t with windows := [], form := none }
  else if x = formOf t then { t with form := none }
  else { t with form := some x }

/-! A bank (R121): its scalar part from 0x100, its vector part from 0x400, its control words from 0x3800, as in bank 0. -/

def bankWord (b : Bank) (o : Nat) : W64 :=
  if o < 0x300 then b.rsAt ((o - 0x100) / 8)
  else if o < 0x400 then wordAt (b.rp (Fin.ofNat 16 ((o - 0x300) / 16))) (o / 8 % 2)
  else if o < 0x1400 then wordAt (vget b.v ((o - 0x400) / 128) 0) (o / 8 % 16)
  else if o < 0x1C00 then wordAt (vget b.o ((o - 0x1400) / 128) 0) (o / 8 % 16)
  else if o < 0x1C80 then wordAt b.lv (o / 8 % 16)
  else match (o - 0x3800) / 8 with
    | 0 => b.pc
    | 1 => b.ls
    | 2 => b.fflags.setWidth 64
    | 3 => b.fenable.setWidth 64
    | 4 => wordAt (b.task.form.getD (formOf b.task)) 0
    | 5 => wordAt (b.task.form.getD (formOf b.task)) 1
    | 6 => tagWord b.vtag.toList
    | 7 => tagWord (b.vtag.toList.drop 16)
    | 8 => tagWord b.otag.toList
    | _ => b.lvtag.setWidth 64

def setBankWord (b : Bank) (o : Nat) (x : W64) : Bank :=
  if o < 0x300 then (if h : (o - 0x100) / 8 < 64 then b.ws ⟨(o - 0x100) / 8, h⟩ x else b)
  else if o < 0x400 then
    let n := Fin.ofNat 16 ((o - 0x300) / 16)
    b.wp n (setWordAt (b.rp n) (o / 8 % 2) x)
  else if o < 0x1400 then
    { b with v := vset b.v ((o - 0x400) / 128) (setWordAt (vget b.v ((o - 0x400) / 128) 0) (o / 8 % 16) x) }
  else if o < 0x1C00 then
    { b with o := vset b.o ((o - 0x1400) / 128) (setWordAt (vget b.o ((o - 0x1400) / 128) 0) (o / 8 % 16) x) }
  else if o < 0x1C80 then { b with lv := setWordAt b.lv (o / 8 % 16) x }
  else match (o - 0x3800) / 8 with
    | 0 => { b with pc := x }
    | 1 => { b with ls := x }
    | 2 => { b with fflags := x.setWidth 5 }
    | 3 => { b with fenable := x.setWidth 5 }
    | 4 => { b with task := writeForm b.task 0 x }
    | 5 => { b with task := writeForm b.task 1 x }
    | 6 => { b with vtag := Vector.ofFn fun (i : Fin 32) => if i.val < 16 then tagsOfWord x i.val else b.vtag[i] }
    | 7 => { b with vtag := Vector.ofFn fun (i : Fin 32) => if i.val < 16 then b.vtag[i] else tagsOfWord x (i.val - 16) }
    | 8 => { b with otag := Vector.ofFn fun (i : Fin 16) => tagsOfWord x i.val }
    | _ => { b with lvtag := tagsOfWord x 0 }

/-- Which bank an offset belongs to, and the offset as bank 0 has it. -/
def bankPlace (o : Nat) : Option (Bool × Nat) :=
  if 0x100 ≤ o && o < 0x1C80 || 0x3800 ≤ o && o < 0x3850 then some (false, o)
  else if 0x1C80 ≤ o && o < 0x1F80 then some (true, o - 0x1C80 + 0x100)
  else if 0x1F80 ≤ o && o < 0x3800 then some (true, o - 0x1F80 + 0x400)
  else if 0x3880 ≤ o && o < 0x38D0 then some (true, o - 0x80)
  else none

/-! The gear engine's words (R302). -/

def tileOf (x : CtxCore) (n : Nat) : Tile := vget x.tiles n Tile.reset
def setTile (x : CtxCore) (n : Nat) (t : Tile) : CtxCore := { x with tiles := vset x.tiles n t }

def gearWord (x : CtxCore) (o : Nat) : W64 :=
  let g := x.gear
  let poison (m : Nat) : W64 := BitVec.ofNat 64 ((tileOf x (2 * m)).poison.toNat + (tileOf x (2 * m + 1)).poison.toNat * 2 ^ 32)
  match (o - 0x98) / 8 with
  | 0 => g.scale.setWidth 64
  | 1 => g.bias.setWidth 64
  | 2 => poison 0
  | 3 => poison 1
  | 4 => poison 2
  | 5 => poison 3
  | 6 => g.drain0
  | 7 => g.drain1
  | 8 => g.drain2
  | 9 => g.drain3
  | 10 => BitVec.ofNat 64 (x.tiles.toList.reverse.foldl (fun n t => n * 32 + t.events.toNat) 0)
  | 11 => BitVec.ofNat 64 (x.tiles.toList.reverse.foldl (fun n t => n * 16 + t.tag.toNat) 0 + g.ltag.toNat * 2 ^ 32
      + boolNat g.lpois * 2 ^ 36 + g.steps.toNat * 2 ^ 48)
  | _ => 0

def setGearWord (x : CtxCore) (o : Nat) (v : W64) : CtxCore :=
  let g := x.gear
  let poison (m : Nat) : CtxCore :=
    let x := setTile x (2 * m) { tileOf x (2 * m) with poison := v.setWidth 32 }
    setTile x (2 * m + 1) { tileOf x (2 * m + 1) with poison := BitVec.ofNat 32 (bits v 32 32) }
  match (o - 0x98) / 8 with
  | 0 => { x with gear := { g with scale := v.setWidth 48 } }
  | 1 => { x with gear := { g with bias := v.setWidth 48 } }
  | 2 => poison 0
  | 3 => poison 1
  | 4 => poison 2
  | 5 => poison 3
  | 6 => { x with gear := { g with drain0 := v, dhigh := 0 } }
  | 7 => { x with gear := { g with drain1 := v } }
  | 8 => { x with gear := { g with drain2 := zextW 48 v } }
  | 9 => { x with gear := { g with drain3 := zextW 32 v } }
  | 10 => { x with tiles := Vector.ofFn fun (i : Fin 8) => { x.tiles[i] with events := BitVec.ofNat 5 (bits v (5 * i.val) 5) } }
  | 11 => { x with
      tiles := Vector.ofFn fun (i : Fin 8) => { x.tiles[i] with tag := BitVec.ofNat 4 (bits v (4 * i.val) 4) }
      gear := { g with ltag := BitVec.ofNat 4 (bits v 32 4), lpois := bit v 36, steps := BitVec.ofNat 16 (bits v 48 16) } }
  | _ => x

/-! The weft array's words (R281-R283). -/

/-- Fields of which none is used. -/
def blankFields : Fields :=
  { stop := false, bt := false, look := 0, mod := 0, sat := false, rnd := .rne, imm := 0, opc := .s 0, opb := .s 0, opa := .s 0
    dst := .s 0, guard := { inv := false, p := 0 }, typ := .untyped }

/-- A saved queue entry of a weft command (R282). -/
def savedEntry (k : Cmd) : SavedCmd :=
  let f := k.ins.fields?.getD blankFields
  { w0 := BitVec.ofNat 64 (k.addr % 2 ^ 48 + k.ins.opcode % 8 * 2 ^ 48 + f.typ.code % 32 * 2 ^ 51
      + (f.mod.val * 8 + boolNat f.sat * 4 + f.rnd.code) * 2 ^ 56 + boolNat k.bank * 2 ^ 62 + 2 ^ 63)
    w1 := k.pc, cmd := k }

def savedWord (x : CtxCore) (k : Nat) : W64 :=
  match x.savedWeft[k / 2]? with
  | some c => if k % 2 = 0 then c.w0 else c.w1
  | none => 0

def weftWord (x : CtxCore) (o : Nat) : W64 :=
  let w := x.weft
  let pair (v : Nat → Nat) (i : Nat) : W64 := BitVec.ofNat 64 (v (2 * i) % 2 ^ 32 + v (2 * i + 1) % 2 ^ 32 * 2 ^ 32)
  if o < 0xC500 then pair (fun i => (w.latch.toList.getD i 0).toNat) ((o - 0xC000) / 8)
  else if o < 0xC700 then pair (fun i => (w.acc.toList.getD i 0).toNat) ((o - 0xC500) / 8)
  else match (o - 0xC700) / 8 with
    | 0 => w.status
    | 1 => w.sp.setWidth 64
    | 2 => BitVec.ofNat 64 w.bound
    | 3 => BitVec.ofNat 64 (w.suspAddr.toNat + w.suspPick.toNat * 2 ^ 48 + boolNat w.suspBank * 2 ^ 62 + boolNat w.suspended * 2 ^ 63)
    | 4 => w.suspPc
    | n => if n < 10 then wordAt w.lpois (n - 5)
      else if n < 12 then wordAt w.apois (n - 10)
      else if n < 16 then savedWord x (n - 12)
      else 0

/-- The weft command that a saved entry stands for (R282); none where bit 63 is clear or no command has the op. -/
def SavedCmd.weft (e : SavedCmd) : Option Cmd :=
  let w0 := e.w0
  let f : Fields := { (e.cmd.ins.fields?.getD blankFields) with
    mod := Fin.ofNat 8 (bits w0 59 3), sat := bit w0 58, rnd := Rnd.ofCode (bits w0 56 2)
    typ := (Typ.ofCode (bits w0 51 5)).getD .untyped }
  let mk : Option Instr := match bits w0 48 3 with
    | 0 => some (.wcfg f) | 1 => some (.wload f) | 2 => some (.wscl f) | 3 => some (.wrun f) | 4 => some (.wdrain f)
    | 5 => some (.wzero f) | 6 => some (.wstat f) | _ => none
  if bit w0 63 then mk.map fun i => { e.cmd with ins := i, addr := bits w0 0 48, bank := bit w0 62, pc := e.w1 } else none

def blankCmd : Cmd :=
  { id := 0, ins := .wzero blankFields, bank := false, task := 0, ch := 0, pc := 0, at_ := 0, addr := 0, a := 0, b := 0, mask := 0
    cp := 0, ta := 0, tb := 0, tc := 0, td := 0 }

/-- A write of word k of the two saved entries. -/
def setSaved (x : CtxCore) (k : Nat) (v : W64) : CtxCore :=
  let blank : SavedCmd := { w0 := 0, w1 := 0, cmd := blankCmd }
  let at_ (n : Nat) : SavedCmd := (x.savedWeft[n]?).getD blank
  let put (n : Nat) : SavedCmd := if n != k / 2 then at_ n else if k % 2 = 0 then { at_ n with w0 := v } else { at_ n with w1 := v }
  { x with savedWeft := [put 0, put 1] }

/-- A write of a word of the weft part (R282). DESIGN CHOICE (log 106): a Bound of 2^63 or more is cut modulo 2^63. -/
def setWeftWord (x : CtxCore) (o : Nat) (v : W64) : CtxCore :=
  let w := x.weft
  let lo := BitVec.ofNat 32 (tm24Canon (bits v 0 32))
  let hi := BitVec.ofNat 32 (tm24Canon (bits v 32 32))
  let put (w : WeftSt) : CtxCore := { x with weft := w }
  if o < 0xC500 then
    let i := (o - 0xC000) / 8
    put { w with latch := vset (vset w.latch (2 * i) lo) (2 * i + 1) hi }
  else if o < 0xC700 then
    let i := (o - 0xC500) / 8
    put { w with acc := vset (vset w.acc (2 * i) lo) (2 * i + 1) hi }
  else match (o - 0xC700) / 8 with
    | 0 => put { w with
        ill := BitVec.ofNat 16 (bits v 48 16), prow := BitVec.ofNat 16 (bits v 32 16), ran := BitVec.ofNat 7 (bits v 24 7)
        part := bit v 22, stop := BitVec.ofNat 6 (bits v 16 6), bnd := bit v 9, pol := bit v 0 }
    | 1 => put { w with sp := v.setWidth 48 }
    | 2 => put { w with bound := v.toNat % 2 ^ 63 }
    | 3 => put { w with suspAddr := v.setWidth 48, suspPick := BitVec.ofNat 6 (bits v 48 6) }
    | 4 => put { w with suspPc := v }
    | n => if n < 10 then put { w with lpois := setWordAt w.lpois (n - 5) v }
      else if n < 12 then put { w with apois := setWordAt w.apois (n - 10) v }
      else if n < 16 then setSaved x (n - 12) v
      else x

/-! The whole image. -/

/-- Bank status (R121). -/
def bankStatus (x : CtxCore) : W64 :=
  BitVec.ofNat 64 (boolNat x.b0.task.live + boolNat x.b1.task.live * 2 + boolNat x.b1.task.live * 4 + (x.mwin - 1) * 16)

/-- A word of the image (R121). 0x88 counts since the context's last boundary, in free mode since its creation (log 82). -/
def imageWord (x : CtxCore) (o : Nat) : W64 :=
  if o < 0x80 then vget x.chans (o / 8) 0
  else if o = 0x80 then bankStatus x
  else if o = 0x88 then BitVec.ofNat 64 x.qret
  else if o = 0x90 then x.rr.setWidth 64
  else if 0x98 ≤ o && o < 0x100 then gearWord x o
  else match bankPlace o with
    | some (hi, p) => bankWord (if hi then x.b1 else x.b0).ofTask p
    | none =>
      if 0x4000 ≤ o && o < 0xC000 then
        wordAt (vget (tileOf x ((o - 0x4000) / 0x1000)).rows (o % 0x1000 / 128) 0) (o / 8 % 16)
      else if 0xC000 ≤ o && o < 0xC800 then weftWord x o
      else if 0xC800 ≤ o && o < 0xD000 then wordAt x.gear.latch ((o - 0xC800) / 8)
      else if 0xD000 ≤ o && o < 0xE000 then wordAt (vget x.gear.dbuf ((o - 0xD000) / 128) 0) (o / 8 % 16)
      else 0

/-- A supervisor's write of a word: read-only and reserved fields keep their values, a window of more than 64 is cut (log 81). -/
def setImageWord (x : CtxCore) (o : Nat) (v : W64) : CtxCore :=
  if o < 0x80 then { x with chans := vset x.chans (o / 8) (chanEntry (bits v 62 2) (bits v 59 3) v) }
  else if o = 0x80 then
    let n := min 64 (bits v 4 7)
    { x with mwin := if n = 0 then 0 else n + 1 }
  else if o = 0x88 then x
  else if o = 0x90 then { x with rr := v.setWidth 32 }
  else if 0x98 ≤ o && o < 0x100 then setGearWord x o v
  else match bankPlace o with
    | some (hi, p) => if hi then { x with b1 := setBankWord x.b1.ofTask p v } else { x with b0 := setBankWord x.b0.ofTask p v }
    | none =>
      if 0x4000 ≤ o && o < 0xC000 then
        let n := (o - 0x4000) / 0x1000
        let t := tileOf x n
        setTile x n { t with rows := vset t.rows (o % 0x1000 / 128) (setWordAt (vget t.rows (o % 0x1000 / 128) 0) (o / 8 % 16) v) }
      else if 0xC000 ≤ o && o < 0xC800 then setWeftWord x o v
      else if 0xC800 ≤ o && o < 0xD000 then { x with gear := { x.gear with latch := setWordAt x.gear.latch ((o - 0xC800) / 8) v } }
      else if 0xD000 ≤ o && o < 0xE000 then
        let r := (o - 0xD000) / 128
        { x with gear := { x.gear with dbuf := vset x.gear.dbuf r (setWordAt (vget x.gear.dbuf r 0) (o / 8 % 16) v) } }
      else x

/-- The image's 64 KiB as bytes (R120, R165). -/
def imageBytes (x : CtxCore) : List Byte :=
  (List.range 0x2000).flatMap fun i => toBytes 8 (imageWord x (8 * i)).toNat

end Sys2Proof.Machine
end

