-- ==== Sys2Proof/Machine/System.lean ====
section
/-! DEFINITION. Class 5, the system instructions and registers (R119, R147-R149, R171). -/

namespace Sys2Proof.Machine

/-- Compute-core index of a physical core (R2, R13). -/
def computeOfPhys (w phys : Nat) : Nat :=
  let y := rowOf phys / 8
  let x := phys % 4672 % 73 / 8
  let t := rowOf phys % 8
  let p := posOf phys
  dieOf phys * (64 * (73 - w)) + y * (8 * (73 - w)) + (if x < 8 then x * 64 + t * 8 + p else 512 + t * (9 - w) + p)

/-- PA of kept offset o of a core (R171). -/
def keptPa (w phys o : Nat) : Nat := ((1792 + o / 4096) * ncores w + computeOfPhys w phys) * 4096 + o % 4096

/-- The kept-row slot (0 to 4) of a context at a core that it is granted (R171). -/
def Ctx.slotAt (x : Ctx) (phys : Nat) : Nat := ((indexOf x.grant phys).bind fun l => x.slots[l]?).getD 0
def slotOf (s : State) (ctx phys : Nat) : Nat := ((s.ctx? ctx).map fun x => x.slotAt phys).getD 0

/-- The slot's context image and save area (R171). -/
def imagePa (s : State) (ctx phys : Nat) : Nat := keptPa s.width phys (0x10000 + slotOf s ctx phys * 0x30000)

/-- The slot's place of a local-memory offset (R169, R171). -/
def savePa (s : State) (ctx phys off : Nat) : Nat := keptPa s.width phys (0x20000 + slotOf s ctx phys * 0x30000 + off)

/-- sys.tick as the context reads it (R119). -/
def tickOf (s : State) (ctx : Nat) : W64 :=
  match s.ctx? ctx with
  | some x => if x.det then BitVec.ofNat 64 x.quanta else s.tick
  | none => s.tick

/-- The supervisor of a logical core (R151). -/
def supvOf (s : State) (ctx lc : Nat) : Nat := ((s.ctx? ctx).bind fun x => x.supv[lc]?).getD 0

def csrFault (n : Nat) : FaultInfo := { cause := 8, s5 := BitVec.ofNat 64 n, s6 := 0x306#64, s7 := 0 }

/-- A system register's value (R149). DESIGN CHOICE (log 100): the supervisor that may read sys.ctximg is a core whose sys.supv names
itself; that others have it as theirs gives it no right of its own. -/
def readCsr (s : State) (n : Nat) : Except FaultInfo W64 :=
  let c := s.here
  let b := s.bank
  let ctx := c.cx.ctx
  match n with
  | 0x000 => .ok (b.fflags.setWidth 64)
  | 0x001 => .ok (b.fenable.setWidth 64)
  | 0x010 => .ok (tickOf s ctx)
  | 0x011 => .ok c.cx.instret
  | 0x012 => .ok (if s.det ctx then 0 else BitVec.ofNat 64 s.cc)
  | 0x020 => .ok (Config.coreTableAddr ctx)
  | 0x021 => .ok (BitVec.ofNat 64 (((s.ctx? ctx).map fun x => boolNat x.det + x.q * 16).getD 0))
  | 0x022 => .ok (BitVec.ofNat 64 (supvOf s ctx c.cx.lc))
  | 0x023 => .ok (BitVec.ofNat 64 ctx)
  | 0x024 => .ok Config.devRev
  | 0x030 => .ok (BitVec.ofNat 64 (c.cx.slots.length + c.cx.overflow.length * 65536))
  | 0x031 => .ok c.cx.bounceDrop
  | 0x032 => .ok c.cx.msgDrop
  | 0x040 => if supvOf s ctx c.cx.lc = c.cx.lc then .ok (BitVec.ofNat 64 (imagePa s ctx c.phys)) else .error (csrFault n)
  | _ => if c.loupe.deleg.toNat = 4096 + ctx then .ok (BitVec.ofNat 64 c.phys) else .error (csrFault n)

def execCsrr (f : Fields) (s : State) : Res :=
  .next (run f (fun s =>
    match readCsr s f.imm.toNat with
    | .error i => .fault i
    | .ok v => .done (wres s f.dst v)) s)

/-- CSRW's new value (R147). -/
def csrNew (mode : Nat) (old : BitVec 5) (a : W64) : BitVec 5 :=
  let a := a.setWidth 5
  match mode with
  | 0 => a
  | 1 => old ||| a
  | _ => old &&& ~~~ a

def execCsrw (f : Fields) (s : State) : Res :=
  .next (run f (fun s =>
    let a := rd s f f.opa
    .done (s.modBank fun b =>
      if f.imm = 0#32 then { b with fflags := csrNew f.mod.val b.fflags a }
      else { b with fenable := csrNew f.mod.val b.fenable a })) s)

def execTrap (f : Fields) (s : State) : Res := .next (run f (fun s => .trap s 14 f.imm.toNat) s)

def execBrk (f : Fields) (s : State) : Res :=
  .next (run f (fun s => if s.here.loupe.armed then .brk s else .trap s 15 f.imm.toNat) s)

end Sys2Proof.Machine
end

