-- ==== Sys2Proof/Machine/Teardown.lean ====
section
/-! DEFINITION. Teardown of a context (R164-R166, R348, R412). -/

namespace Sys2Proof.Machine

/-! What stands at the dispatcher (R397, R401). -/

/-- The buffer being dispatched. -/
def Queue.cur (q : Queue) : Buf := q.nest.headD q.ring

/-- Has every earlier packet of this buffer completed (R397)? A resumed range does not count itself. -/
def Queue.quiet (q : Queue) : Bool :=
  !(q.open_.any fun p => p.buf == q.cur.packet && some p.id != q.range.map Prod.fst)

/-- A launch of the queue that has bounced holds its later packets (R401). -/
def launchHeld (s : State) (n : Nat) : Bool := s.launches.any fun l => l.queue == n && l.bounced

/-- What a dead context's core loses (R164): its operations, send buffer, engine commands, inbox and overflow area. -/
def scrub (x : CtxCore) : CtxCore :=
  { x with
    slots := [], overflow := [], savedWeft := [], savedRun := none, savedGear := EngQ.reset
    weft := { x.weft with suspended := false }
    gear := { x.gear with drain0 := 0 }
    frz := { x.frz with toSend := none, queue := [], accepted := none } }

def scrubCore (ctx : Nat) (c : Core) : Core :=
  let c := if c.cx.ctx = ctx then
      { c with cx := scrub c.cx, ops := [], sending := [], vec := EngQ.reset, shu := EngQ.reset, weft := EngQ.reset
               gear := EngQ.reset }
    else c
  { c with saved := mapIf (fun x => x.ctx == ctx) scrub c.saved }

/-- A dead context's connectors lose their offers without completions (R348). -/
def dropPorts (u : HUnit) (ctx : Nat) : HUnit :=
  { u with conns := mapIf (fun c => c.ctx == ctx) (fun c => { c with ports := c.ports.map fun p => { p with fifo := [] } }) u.conns }

/-- Mark a context dead: cores stop, and what is under way is dropped (R164 steps 1 to 3). Its queues become DEAD and its
launches end without signals (R412). -/
def markDead (s : State) (ctx : Nat) (cause : BitVec 8) : State :=
  match s.ctx? ctx with
  | none => s
  | some x =>
    if x.dead.isSome then s else
    let mine (f : Flight) : Bool := f.ctx == ctx
    let owned (key : Nat) : Bool := isLocalKey key && (s.core (localOwner key)).cx.ctx == ctx
    { s with
      ctxs := putBy Ctx.id s.ctxs { x with dead := some cause, dying := none, collected := [], outbox := [] }
      cores := s.cores.map (scrubCore ctx)
      flights := s.flights.filter fun f => !mine f
      kept := s.kept.filter fun f => !mine f
      hreqs := s.hreqs.filter fun r => r.ctx != ctx
      creqs := s.creqs.filter fun r => r.ctx != ctx
      qsends := s.qsends.filter fun r => r.ctx != ctx
      redo := s.redo.filter fun r => r.ctx != ctx
      shadow := s.shadow.filter fun c => !owned c.1
      fullShadow := s.fullShadow.filter fun w => !owned (w.1 * 8)
      keepers := s.keepers.filter fun r => r.ctx != ctx
      watches := s.watches.filter fun w => w.ctx != ctx
      hunits := s.hunits.map fun u => dropPorts u ctx
      groups := mapIf (fun g => g.ctx == ctx) (fun g => { g with insts := [], waiting := [] }) s.groups
      launches := s.launches.filter fun l => l.ctx != ctx
      pkg := { s.pkg with onLink := s.pkg.onLink.filter fun x => x.2.ctx != ctx }
      queues := mapIf (fun q => q.ctx == ctx && q.state != 0)
        (fun q => { q with
          late := if q.state = 1 && !launchHeld s q.n && q.cur.skip = 0 then some (s.cc, q.quiet) else none
          state := 4, open_ := [], deferred := [], adds := [], hostKicks := [], kicks := [], range := none, hold := none }) s.queues
      spec := s.spec.map fun d => { d with walks := d.walks.filter fun w => w.ctx != ctx } }

/-- Start a teardown (R164, R165): in dump-first mode the cores stop and what is under way drains first. -/
def tearDown (s : State) (ctx : Nat) (cause : BitVec 8) : State :=
  match s.ctx? ctx with
  | none => s
  | some x =>
    if x.dead.isSome || x.dying.isSome then s
    else if x.dumpFirst then s.setCtx { x with dying := some cause }
    else markDead s ctx cause

/-- Every context is torn down (R437, R438). -/
def tearAll (s : State) (cause : BitVec 8) : State := s.ctxs.foldl (fun s x => tearDown s x.id cause) s

/-! The dump area (R165). -/

def slotBytes (x : CtxCore) (n : Nat) : List Byte :=
  match x.slots.find? fun t => t.n == n with
  | some t => toBytes 8 t.held.msg.header.toNat ++ t.held.msg.payload.toList.flatMap fun w => toBytes 8 w.toNat
  | none => List.replicate 64 0

def msgBytes (m : Msg) : List Byte :=
  toBytes 8 m.header.toNat ++ m.payload.toList.flatMap fun w => toBytes 8 w.toNat

/-- One core's 128 KiB slot. An inbox slot that holds no message keeps what the manual leaves open: it is written as zero. -/
def dumpSlot (x : CtxCore) : List Byte :=
  let pad (n : Nat) (l : List Byte) : List Byte := l ++ List.replicate (n - l.length) 0
  let status := x.frz.chain.length + x.overflow.length * 2 ^ 16 + boolNat x.frz.frozen * 2 ^ 32
  imageBytes x ++ (List.range 64).flatMap (slotBytes x)
    ++ pad 1024 (x.frz.chain.flatMap msgBytes) ++ toBytes 8 status ++ List.replicate (0x20000 - 0x11408) 0

/-- Write a run of bytes as the firmware does, by physical address. The stashes give its blocks back (R188). -/
def writePhys (s : State) (pa : Nat) (bs : List Byte) : State :=
  (partsOf pa 0 bs.length).foldl (fun s p => applyPart (recallKey s p.va) 0xFFFF#16 p.va (sub bs p.off p.len)) (countDrop s pa [])

def writeDump (s : State) (x : Ctx) (cause : BitVec 8) : State :=
  let header := toBytes 8 cause.toNat ++ toBytes 8 x.nc ++ List.replicate 4080 0
  let s := writePhys s x.dump header
  ((List.range x.grant.length).zip x.grant).foldl (fun s (l, p) =>
    match imageOf (s.core p) x.id with
    | some y => writePhys s (x.dump + 0x1000 + (x.before + l) * 0x20000) (dumpSlot y)
    | none => s) s

/-- Nothing of the context is under way at a core but what no step can end while its cores have stopped (R165): a suspended WRUN, a GST
behind a frozen drain buffer, a report without room, and what waits behind them. -/
def engIdle (c : Core) (q : EngQ) : Bool :=
  match q.run with
  | none => q.waiting.isEmpty
  | some e => match e.phase with
    | .suspended => true
    | .waitBuffer => bit c.cx.gear.drain0 62
    | .faulted => decide (4 ≤ c.cx.frz.queue.length)
    | _ => false

def coreIdle (c : Core) : Bool :=
  (c.ops.all fun o => o.st == .done && o.dst.isEmpty) && c.sending.isEmpty && (engs.all fun e => engIdle c (c.eng e))
    && (!c.draining || bit c.cx.gear.drain0 62)

def drained (s : State) (x : Ctx) : Bool :=
  x.collected.isEmpty && x.grant.all fun p => let c := s.core p; c.cx.ctx != x.id || coreIdle c

/-- A released queue is off; the driver may give it to another context (R164, R395, R411). -/
def releaseQueue (q : Queue) : Queue := { q with state := 0 }

/-- A core that ran the context runs none (R164 step 4). -/
def releaseCore (ctx : Nat) (c : Core) : Core :=
  let c := { c with saved := c.saved.filter fun x => x.ctx != ctx, tlb := c.tlb.filter fun e => e.ctx != ctx }
  if c.cx.ctx = ctx then { c with cx := CtxCore.reset noCtx 0, frames := [] } else c

/-- The teardown record, written with a system-scope release (R164, R416). -/
def recordBytes (x : Ctx) (cause : BitVec 8) : List Byte :=
  toBytes 8 cause.toNat ++ toBytes 8 x.dropLaunch ++ toBytes 8 x.dropWb ++ List.replicate 40 0

/-- Release a dead context's cores, regions, connectors, groups and queues, and write its record (R164 steps 4 and 5). -/
def releaseCtx (s : State) (x : Ctx) (cause : BitVec 8) : State :=
  let s := writePhys s x.record (recordBytes x cause)
  { s with
    ctxs := s.ctxs.filter fun y => y.id != x.id
    walkCache := s.walkCache.filter fun e => e.ctx != x.id
    cores := s.cores.map (releaseCore x.id)
    regions := s.regions.filter fun r => r.ctx != x.id
    hunits := s.hunits.map fun u => { u with conns := u.conns.filter fun c => c.ctx != x.id }
    groups := s.groups.filter fun g => g.ctx != x.id
    queues := mapIf (fun q => q.ctx == x.id && q.state != 0) releaseQueue s.queues
    spec := s.spec.map fun d => { (d.without fun e => e.ctx == x.id) with walks := d.walks.filter fun w => w.ctx != x.id }
    masks := s.masks.filter fun m => m.1 != x.id
    versions := s.versions.filter fun v => v.1 != x.id }

/-- What an escapement boundary does for teardowns (R164, R165). -/
def teardownStep (s : State) (x : Ctx) : State :=
  match x.dead, x.dying with
  | some c, _ => releaseCtx s x c
  | none, some c => if drained s x then markDead (writeDump (redoAll s x.id) x c) x.id c else s
  | none, none => s

end Sys2Proof.Machine
end

