-- ==== Sys2Proof/Machine/FaultEvents.lean ====
section
/-! DEFINITION. Fault packets, deferred reports and the supervisor's actions (R151, R152, R157-R160, R162, R291, R319). -/

namespace Sys2Proof.Machine

/-- Where a packet goes: the supervisor's logical core, or none for the firmware (R151). -/
def packetTarget (s : State) (x : CtxCore) : Option Nat :=
  let l := supvOf s x.ctx x.lc
  if l = x.lc then none
  else match (s.physOf x.ctx l).bind fun p => imageOf (s.core p) x.ctx with
    | some y => if y.frz.frozen then none else some l
    | none => some l

/-- Teardown of a context by the firmware; the manual gives its cause no value (log 5). -/
def firmwareTeardown (s : State) (ctx : Nat) : State := tearDown s.drawn ctx ((Config.freeWord s.fresh).setWidth 8)

/-- Send a core's fault packet, which it then no longer keeps. -/
def sendPacket (s : State) (x : CtxCore) (m : Msg) : State :=
  match packetTarget s x with
  | none => firmwareTeardown s x.ctx
  | some l =>
    (modImage s x.ctx x.lc fun y => { y with frz := { y.frz with toSend := none } }).post
      { ctx := x.ctx, dst := l, src := .core x.lc, held := { msg := m, launch := none } }

/-- A packet leaves for the first time, or, with `again`, 1,400 cc after it was refused (R151). In a deterministic context packets are
placed at the boundary (R162). A switched-out context keeps its packet (R163). -/
def packetStep (s : State) (phys : Nat) (again : Bool) : State :=
  let x := (s.core phys).cx
  match x.frz.toSend with
  | some m => if s.det x.ctx || x.frz.refused != again || (again && s.cc < x.frz.again) then s else sendPacket s x m
  | none => s

def execFaultPacketSend (phys : Nat) (s : State) : Res := .next (packetStep s phys false)
def execFaultPacketResend (phys : Nat) (s : State) : Res := .next (packetStep s phys true)

/-! Reports of engines and late results (R159, R160, R162). -/

/-- The gear drain buffer keeps its rows for the supervisor: it is frozen, until the action on its report (R319). -/
def Core.drainHeld (c : Core) : Bool :=
  bit c.cx.gear.drain0 62 || (c.cx.frz.frozen && c.cx.frz.eng == some .gear) || c.cx.frz.queue.any fun d => d.eng == some .gear

/-- An executing command that a boundary need not wait for (R56), or that waits for room in the deferred-fault queue, which it has
found full (R159). -/
def Core.exempts (c : Core) (x : Exec) : Bool :=
  match x.phase with
  | .waitFlag | .waitTrain | .suspended => true
  | .waitBuffer => c.drainHeld
  | .faulted => decide (4 ≤ c.cx.frz.queue.length) && c.cx.frz.told.contains x.cmd.id
  | _ => false

/-- The turn of a report in a deterministic context: nothing older of the core may still report, so that the queue fills in program
order on every run (R162; log 45). -/
def Core.turn (c : Core) (id : Nat) : Bool :=
  (engs.all fun e => match (c.eng e).run with
    | some x => c.exempts x || (decide (id ≤ x.cmd.id) && (c.eng e).waiting.all fun k => decide (id ≤ k.id))
    | none => (c.eng e).waiting.all fun k => decide (id ≤ k.id))
    && (!c.draining || c.drainHeld || decide (id ≤ c.cx.gear.did))
    && c.ops.all fun o => decide (id ≤ o.id)
      || (o.ev == 0#5 && (!o.mmio || !o.isStore || !c.acquired o.id || c.cx.frz.told.contains o.id))

/-- May a report join the deferred-fault queue of four entries (R159)? -/
def Core.roomFor (c : Core) (det : Bool) (id : Nat) : Bool := (!det || c.turn id) && c.cx.frz.queue.length < 4

/-- A report that no longer waits. -/
def Core.untold (c : Core) (id : Nat) : Core :=
  { c with cx := { c.cx with frz := { c.cx.frz with told := c.cx.frz.told.filter fun n => n != id } } }

/-- A report joins the queue, if it may. -/
def Core.pushDeferred (c : Core) (det : Bool) (d : Deferred) : Option Core :=
  if c.roomFor det d.id then
    let c := c.untold d.id
    some { c with cx := { c.cx with frz := { c.cx.frz with queue := c.cx.frz.queue ++ [{ d with behind := c.cx.frz.frozen }] } } }
  else none

/-- A report that finds the queue full sets the overflow bit of the next packet, once (R159); one whose turn has not come has found
nothing yet. -/
def Core.noRoom (c : Core) (det : Bool) (id : Nat) : Core :=
  if (!det || c.turn id) && 4 ≤ c.cx.frz.queue.length && !c.cx.frz.told.contains id then
    { c with cx := { c.cx with frz := { c.cx.frz with queueOver := true, told := id :: c.cx.frz.told } } }
  else c

/-- The report of a command's fault. -/
def Cmd.report (k : Cmd) (info : FaultInfo) (eng : Option Eng) : Deferred :=
  { id := k.id, info := info, bank := k.bank, task := k.task, ch := k.ch, pc := k.pc, retired := k.at_, eng := eng, behind := false }

/-- The oldest queued report freezes the core before it issues anything (R158-R160). An FP event that was raised while the core ran is
not a deferred fault. -/
def reportHead (s : State) (phys : Nat) : State :=
  let c := s.core phys
  if c.cx.frz.frozen || !s.alive c.cx.ctx then s
  else match c.cx.frz.queue with
    | [] => s
    | d :: ds =>
      let n := c.since d.bank d.task d.retired
      let event := d.info.cause == 13 && !d.behind
      let s := s.setCore { c with cx := { c.cx with frz := { c.cx.frz with queue := ds } } }
      freezeCore s phys d.bank d.ch
        { info := d.info, kind := if event then .fpEvent else .deferred, pc := d.pc, imagePc := (c.bankOf d.bank).pc, retired := n
          deferred := !event, eng := d.eng, task := some d.task }

/-- DEFERRED_FAULT_REPORT. In a deterministic context the boundary reports (R162; log 45). -/
def execDeferredFaultReport (phys : Nat) (s : State) : Res :=
  .next (if s.det (s.core phys).cx.ctx then s else reportHead s phys)

/-- The end of a deterministic context's quantum: the first report freezes the core (R162; log 45). -/
def reportQuantum (s : State) (phys : Nat) : State := reportHead s phys

/-- The executing command of an engine. -/
def Core.setRun (c : Core) (e : Eng) (x : Option Exec) : Core := c.setEng e { c.eng e with run := x }

/-- A report that leaves the WRUN in the engine's executing slot, suspended (R291). With no room for it the WRUN waits; `tests` is 2
then. -/
def suspendRun (s : State) (phys : Nat) (x : Exec) (info : FaultInfo) : State :=
  let c := s.core phys
  let k := x.cmd
  match c.pushDeferred (s.det c.cx.ctx) (k.report info (some .weft)) with
  | none => s.setCore ((c.noRoom (s.det c.cx.ctx) k.id).setRun .weft (some { x with phase := .faulted, fault := some info, tests := 2, rd := [], got := [] }))
  | some c =>
    let w := { c.cx.weft with
      suspAddr := BitVec.ofNat 48 k.addr, suspPick := BitVec.ofNat 6 x.row, suspBank := k.bank, suspended := true, suspPc := k.pc }
    let c := { c with cx := { c.cx with weft := w } }
    s.setCore (c.setRun .weft (some { x with phase := .suspended, fault := none, rd := [], got := [] }))

/-! Actions (R157, R158). -/

/-- The tile that a resumed WRUN reads must meet R286: else the address fault of R291. -/
def tileFault (s : State) (c : Core) (k : Cmd) : Option FaultInfo :=
  if k.addr % 128 != 0 || !ownRange k.addr 8192 then some (addrFault k.addr .engRead 8192)
  else match access s (c.asOf k.id) .engRead k.addr 8192 0 with
    | .error i => some (addrFault i.s5.toNat .engRead 8192)
    | .ok _ => none

/-- What an action does to the command that a deferred fault reported: a suspended WRUN (R291) or a frozen drain buffer
(R319). -/
def weftAction (s : State) (phys : Nat) (a : Act) : State :=
  let c := s.core phys
  let w := c.cx.weft
  let put (w : WeftSt) (e : Exec) : State := s.setCore (({ c with cx := { c.cx with weft := w } } : Core).setRun .weft (some e))
  match c.weft.run with
  | some e =>
    if e.phase != .suspended then s
    else match a with
      | .resume =>
        let e := { e with
          cmd := { e.cmd with addr := w.suspAddr.toNat, pc := w.suspPc }, row := w.suspPick.toNat, tests := 1
          phase := .running, rd := [], got := [] }
        match tileFault s c e.cmd with
        | some i => suspendRun s phys e i
        | none => put { w with suspended := false } e
      | _ => put { w with suspended := false, part := true, stop := w.suspPick, ran := BitVec.ofNat 7 e.moved } { e with phase := .ending }
  | none => s

/-- Resume stores the rows again as drain words 0 and 1 now state, with bit 62 cleared; skip and end empty the buffer, whatever the
supervisor has made of bit 62. -/
def gearAction (s : State) (phys : Nat) (a : Act) : State :=
  s.modCore phys fun c =>
    let g := c.cx.gear
    let g := if a == .resume then { g with drain0 := g.drain0 &&& ~~~ (1#64 <<< 62) }
      else { g with drain0 := g.drain0 &&& ~~~ (3#64 <<< 62), drain1 := zextW 32 g.drain1 }
    { c with cx := { c.cx with gear := { g with dparts := [], dsent := [] } } }

/-- The stop bit of the instruction at the image PC, where it can be read (R71). -/
def stopAt (s : State) (c : Core) (pc : W64) : Bool :=
  match fetchKey s c pc with
  | .ok key => slotOk pc && (codeWord s key pc).getLsbD 95
  | .error _ => false

/-- The instruction retires without effect; stop ends the task (R71, R158). An undone L op leaves the task at the first window
instruction that has not retired (R76). -/
def skipOne (s : State) (phys : Nat) (hi : Bool) : State :=
  let c := s.core phys
  let b := c.bankOf hi
  let s1 := s.setCore (countRetired c hi (originOf s c b.pc).counts (s.det c.cx.ctx) b.seqPc)
  if stopAt s c b.pc && b.again.isNone then endTask s1 phys hi else s1

/-- Resume or skip of the task that froze, by the cause of R158; a PC that the supervisor changed is where it starts, with no
continuation and no exemption from R75. -/
def restart (s : State) (phys : Nat) (a : Act) (z : FreezeSt) : State :=
  let c := s.core phys
  let b := c.bankOf z.bank
  let setTask (g : TaskSt → TaskSt) : State := s.setCore (c.setBankOf z.bank { b with task := g b.task })
  if b.pc != z.imagePc then setTask fun t => { t with conts := [], noCheck := false }
  else match z.kind with
    | .lookahead => if a == .resume then setTask fun t => { t with noCheck := true } else skipOne s phys z.bank
    | .fpEvent => if z.stopAfter then endTask s phys z.bank else s
    | .trapBrk => if z.stopAfter then endTask s phys z.bank else s.setCore (c.setBankOf z.bank { b with pc := succPc b.pc })
    | .deferred => s
    | .other => if a == .resume then s else skipOne s phys z.bank

/-- An action takes effect at a core that runs the context (R157, R158). -/
def applyAction (s : State) (phys : Nat) (a : Act) : State :=
  let c := s.core phys
  let z := c.cx.frz
  let s := match z.eng with
    | some .weft => weftAction s phys a
    | some .gear => gearAction s phys a
    | _ => s
  let s := s.modCore phys fun c => { c with cx := { c.cx with frz := { c.cx.frz with frozen := false, accepted := none, eng := none } } }
  let b := c.bankOf z.bank
  if !b.task.live || b.task.serial != z.task then s
  else match a with
    | .stop => endTask s phys z.bank
    | a => restart s phys a z

/-- A core that LCTL has released and that is not frozen leaves its stop; its first instruction is not checked against the breakpoints
(R424). -/
def Core.leaveStop (c : Core) : Core :=
  if c.loupe.stopped && c.loupe.freed && !c.cx.frz.frozen then
    { c with loupe := { c.loupe with stopped := false, reason := 0, sbank := false, spc := 0, freed := false, skipCheck := true } }
  else c

/-- An accepted action takes effect, unless the loupe has stopped the core: a core that is both frozen and stopped leaves neither state
until both are cleared (R424). -/
def takeAction (s : State) (phys : Nat) (a : Act) : State :=
  let l := (s.core phys).loupe
  if l.stopped && !l.freed then s else (applyAction s phys a).modCore phys Core.leaveStop

/-- The context whose image a writer's accesses to the window reach (R155). -/
def windowCtx (s : State) (phys : Nat) (w : Party) : Nat :=
  match w with
  | .core p => (s.core p).cx.ctx
  | _ => (s.core phys).cx.ctx

def Act.code : Act → Nat
  | .resume => 1 | .skip => 2 | .stop => 3

/-- The fault reply to a writer that is a core (R157). -/
def faultReply (s : State) (x : CtxCore) (w : Party) (a : Act) : State :=
  match w with
  | .core p =>
    let m := mkMsg 8 8 15#4 0#16 (BitVec.ofNat 16 x.lc) (payload (BitVec.ofNat 64 (x.frz.seq.toNat * 2 ^ 48 + a.code)) 0 0)
    s.post { ctx := x.ctx, dst := (s.core p).cx.lc, src := .core x.lc, held := { msg := m, launch := none } }
  | _ => s

/-- A write of DBG_ACTION (R157): accepted, or ignored and marked so. It takes effect at once in free mode, at the boundary
in deterministic mode, and once the core runs the context again (R117, R163). DESIGN CHOICE (log 102): a write by a delegated context
that has no image at the core does nothing, and sets no DBG_STATUS<4>. -/
def dbgWrite (s : State) (phys : Nat) (seq : BitVec 16) (a : Option Act) (w : Party) : State :=
  let ctx := windowCtx s phys w
  let c := s.core phys
  match imageOf c ctx with
  | none => s
  | some x =>
    match a with
    | some a =>
      if x.frz.frozen && x.frz.seq == seq && x.frz.accepted.isNone then
        let s := s.setCore (c.setCx { x with frz := { x.frz with accepted := some a, ignored := false } })
        let s := faultReply s x w a
        if c.cx.ctx = ctx && !s.det ctx then takeAction s phys a else s
      else s.setCore (c.setCx { x with frz := { x.frz with ignored := true } })
    | none => s.setCore (c.setCx { x with frz := { x.frz with ignored := true } })

/-- A DBG_ACTION event of a writer with the right to the window (R155). -/
def dbgEvent (s : State) (phys : Nat) (seq : BitVec 16) (a : Act) (w : Party) : State :=
  if debugRight s w true phys 0xF008 then dbgWrite s phys seq (some a) w else s

def execDbgResume (phys : Nat) (seq : BitVec 16) (w : Party) (s : State) : Res := .next (dbgEvent s phys seq .resume w)
def execDbgSkip (phys : Nat) (seq : BitVec 16) (w : Party) (s : State) : Res := .next (dbgEvent s phys seq .skip w)
def execDbgEnd (phys : Nat) (seq : BitVec 16) (w : Party) (s : State) : Res := .next (dbgEvent s phys seq .stop w)

end Sys2Proof.Machine
end

