-- ==== Sys2Proof/Machine/Gear.lean ====
section
/-! DEFINITION. Class 13, the gear engine: its instructions at issue, the matrix step and the epilogue (R300-R319). -/

namespace Sys2Proof.Machine

/-! Issue (R303-R307, R313-R318). -/

/-- Rows of an operand: number and bytes (R304). -/
def gearRows (i : Instr) : Nat × Nat :=
  match i with
  | .gmm f => (32, 8 * f.typ.size)
  | .gbld f => (8, 32 * f.typ.size)
  | _ => (0, 0)

/-- Address of row k of a strided operand, modulo 2^64. -/
def rowAddr (ea : Nat) (stride : Int) (k : Nat) : Nat :=
  (BitVec.ofNat 64 ea + BitVec.ofInt 64 ((k : Int) * stride)).toNat

/-- The first row that breaks R304. -/
def gearOperand (i : Instr) (size ea : Nat) (stride : W64) : Option FaultInfo :=
  let (n, len) := gearRows i
  if ea % size != 0 || stride.toInt % size != 0 then some (addrFault ea .engRead len)
  else ((List.range n).find? fun k => !ownRange (rowAddr ea stride.toInt k) len).map fun k =>
    addrFault (rowAddr ea stride.toInt k) .engRead len

def issueGear (i : Instr) (f : Fields) (check : State → Option FaultInfo) (prep : State → Cmd → Cmd)
    (s : State) : State :=
  run f (fun s => match check s with
    | some x => .fault x
    | none => pushCmd s f .gear (prep s (newCmd s i f))) s

def execGcfg (f : Fields) (s : State) : Res :=
  .next (issueGear (.gcfg f) f (fun _ => none) (fun s k => withB f s (withA f s k)) s)

/-- An operand block: its address and its stride. -/
def block (f : Fields) (s : State) (k : Cmd) : Cmd := { k with addr := baseAddr s f, b := (rd s f f.opb).setWidth 128 }

def execGbld (f : Fields) (s : State) : Res :=
  .next (issueGear (.gbld f) f (fun s => gearOperand (.gbld f) f.typ.size (baseAddr s f) (rd s f f.opb)) (block f) s)

/-- The tile tag that a GMM of a type requires (R307). -/
def gmmTag (t : Typ) : Typ := if t = .f64 then .f64 else .f32

/-- A tile field must carry a tag, and with .f64 both tiles of its pair (R301); k is the field (R92). -/
def needTile (s : State) (o : Operand) (k : Nat) (t : Typ) : Option FaultInfo :=
  let x := (tileTag s.here (tileNo o)).toNat
  let y := (tileTag s.here (tileNo o / 2 * 2 + 1 - tileNo o % 2)).toNat
  if x != t.code then some (tagFault o k x t.code)
  else if t = .f64 && y != t.code then some (tagFault o k y t.code)
  else none

def execGmm (f : Fields) (s : State) : Res :=
  .next (issueGear (.gmm f) f
    (fun s => match needTile s f.dst 0 (gmmTag f.typ) with
      | some x => some x
      | none => gearOperand (.gmm f) f.typ.size (baseAddr s f) (rd s f f.opb)) (block f) s)

def execGzero (f : Fields) (s : State) : Res := .next (issueGear (.gzero f) f (fun _ => none) (fun _ k => k) s)

/-- The busy trap on a tile, or on either tile of a pair (R315). -/
def busyPair (s : State) (reader n : Nat) (pair : Bool) : Option FaultInfo :=
  match busyCheck s reader n with
  | some x => some x
  | none => if pair then busyCheck s reader (n / 2 * 2 + 1 - n % 2) else none

def execGrd (f : Fields) (s : State) : Res :=
  .next (issueGear (.grd f) f
    (fun s =>
      if 1024 ≤ (rd s f f.opb).toNat then some (illegalInfo (encode (.grd f)))
      else match busyPair s 0 (tileNo f.opa) (f.typ == Typ.f64) with
        | some x => some x
        | none => needTile s f.opa 1 f.typ) (withB f) s)

/-- GST takes an .f32 tile or an .f64 pair (R317); its stride lies in the signed 32-bit range. -/
def gstCheck (f : Fields) (s : State) : Option FaultInfo :=
  let t := tileTag s.here (tileNo f.dst)
  let b := (rd s f f.opb).toInt
  if b < -2147483648 || 2147483647 < b then some (illegalInfo (encode (.gst f)))
  else match busyPair s 1 (tileNo f.dst) (t == 12#4) with
    | some x => some x
    | none =>
      if t = 11#4 then none
      else if t = 12#4 then needTile s f.dst 0 .f64
      else some (tagFault f.dst 0 t.toNat ((Config.freeWord s.fresh).toNat % 16))

/-- The command carries the tile's tag in td. -/
def execGst (f : Fields) (s : State) : Res :=
  .next (issueGear (.gst f) f (gstCheck f) (fun s k => { block f s k with td := tileTag s.here (tileNo f.dst) }) s)

/-- A GST of the core has stores that have not applied. -/
def gstPending (c : Core) : Bool := c.draining || c.gear.cmds.any fun k => match k.ins with
  | .gst _ => true
  | _ => false

def execGwait (f : Fields) (s : State) : Res :=
  .next (run f (fun s =>
    let c := s.here
    let n := tileNo f.dst
    let busy := if f.mod = 0 then c.gear.cmds.any fun k => k.gmmTiles.contains n || k.gzeroTiles.contains n
      else !c.gear.cmds.isEmpty || gstPending c
    if busy then .stall else .done s) s)

/-! The matrix step (R100, R307). -/

/-- A value of a narrower format in a wider one, a signalling NaN kept signalling. -/
def widenRaw (src dst : Fmt) (x : Nat) : Nat :=
  if src = dst then x
  else match unpack src x with
    | .nan q => if q then (fpToFp src dst .rne x).1 else infBits dst + 1
    | _ => (fpToFp src dst .rne x).1

/-- One element: `ab` the eight pairs. -/
def gmmElem (t : Typ) (r : Rnd) (c : Nat) (ab : List (Nat × Nat)) : FRes :=
  match t with
  | .bf16 | .f16 =>
    let f32 := fmtOf .f32
    let ab := ab.map fun (a, b) => (widenRaw (fmtOf t) f32 a, widenRaw (fmtOf t) f32 b)
    fusedSum f32 r (c :: ab.flatMap fun (a, b) => [a, b]) ab [c]
  | _ => ab.foldl (fun (c, ev) (a, b) => let (x, e) := ffma (fmtOf t) r a b c; (x, ev ||| e)) (c, 0#5)

/-- Element of a block of bytes: row k of n elements. -/
def blockElem (size n : Nat) (bs : List Byte) (k j : Nat) : Nat := ofBytes (sub bs ((k * n + j) * size) size)

/-- The tile element (R301): of the tile, or of the pair by columns. -/
def tileElem (t : Typ) (even odd : Tile) (i j : Nat) : Nat :=
  if t = .f64 then
    (if j < 16 then elemAt (even.rows.toList.getD i 0) 8 j else elemAt (odd.rows.toList.getD i 0) 8 (j - 16))
  else elemAt (even.rows.toList.getD i 0) 4 j

/-- One row of the step: the new elements and their events. -/
def gmmRow (t : Typ) (r : Rnd) (even odd : Tile) (latch : List Byte) (a : List Nat) (i : Nat) : List Nat × Events :=
  let l := (List.range 32).map fun j =>
    gmmElem t r (tileElem t even odd i j) (a.zip ((List.range 8).map fun k => blockElem t.size 32 latch k j))
  (l.map Prod.fst, l.foldl (fun ev x => ev ||| x.2) 0#5)

/-- The step on a tile or pair; `got` is the A block, 32 rows of 8 elements. The held events are kept with the first tile. -/
def gmmStep (f : Fields) (g : GearSt) (even odd : Tile) (got : List PByte) : Tile × Tile :=
  let size := f.typ.size
  let latch := toBytes 2048 g.latch.toNat
  let rows := (List.range 32).map fun i =>
    let a := (List.range 8).map fun k => ofBytes (consume (sub got ((i * 8 + k) * size) size))
    gmmRow f.typ f.rnd even odd latch a i
  let ev := rows.foldl (fun e x => e ||| x.2) 0#5
  let pz := bitsOf 32 ((List.range 32).map fun i => g.lpois || anyPois (sub got (i * 8 * size) (8 * size)))
  let row (i : Nat) (lo n : Nat) (s : Nat) : VBits :=
    BitVec.ofNat 1024 (packElems s (sub ((rows.getD i ([], 0#5)).1) lo n))
  if f.typ = .f64 then
    ({ even with rows := Vector.ofFn fun (i : Fin 32) => row i.val 0 16 8, poison := even.poison ||| pz
                 events := even.events ||| ev },
     { odd with rows := Vector.ofFn fun (i : Fin 32) => row i.val 16 16 8, poison := odd.poison ||| pz })
  else
    ({ even with rows := Vector.ofFn fun (i : Fin 32) => row i.val 0 32 4, poison := even.poison ||| pz
                 events := even.events ||| ev }, odd)

/-- GZERO (R313). -/
def zeroTile (t : BitVec 4) : Tile := { rows := Vector.replicate 32 0, tag := t, poison := 0, events := 0 }

/-! The epilogue (R317). -/

def epiScl (m : Nat) : Bool := m / 2 % 2 == 1
def epiBias (m : Nat) : Bool := m / 4 % 2 == 1
def epiRelu (m : Nat) : Bool := m % 2 == 1

/-- One element through the epilogue; `s` and `b` are the f32 words of the scale and bias vectors. -/
def epilogue (f : Fields) (wide : Bool) (x s b : Nat) : FRes :=
  let t : Typ := if wide then .f64 else .f32
  let m := fmtOf t
  let f32 := fmtOf .f32
  let e := f.mod.val
  let (x, ev) := if epiScl e then
      (if isNaN f32 s then genNaN m 2 else fmul m f.rnd x (widenRaw f32 m s)) else (x, 0#5)
  let (x, ev1) := if epiBias e then fadd m f.rnd x (widenRaw f32 m b) else (x, 0#5)
  let x := if epiRelu e && !isNaN m x && fpNeg m x then 0 else x
  let (y, ev2) := convert t f.typ f.rnd f.sat x
  (y, ev ||| ev1 ||| ev2)

/-- One pass: the rows of the buffer, packed, and the events. `lo` is the first column; scales and biases are 32 f32 words. -/
def gstPass (f : Fields) (wide : Bool) (t : Tile) (lo : Nat) (scales biases : List Byte) : List Nat × Events :=
  let n := if wide then 16 else 32
  let s := if wide then 8 else 4
  let rows := (List.range 32).map fun i =>
    (List.range n).map fun j =>
      epilogue f wide (elemAt (t.rows.toList.getD i 0) s j) (ofBytes (sub scales (4 * (lo + j)) 4))
        (ofBytes (sub biases (4 * (lo + j)) 4))
  (rows.map fun r => packElems f.typ.size (r.map Prod.fst),
   rows.foldl (fun e r => r.foldl (fun e x => e ||| x.2) e) 0#5)

/-- The destination of row i of the buffer (R318), from the drain words. -/
def drainRowAddr (g : GearSt) (i : Nat) : Nat :=
  rowAddr (bits g.drain0 0 48 + g.dhigh * 2 ^ 48) (toSigned 32 (bits g.drain1 0 32)) i
/-- Output type and row bytes of the buffer: its pass of a pair stores 16 elements. -/
def drainTyp (g : GearSt) : Typ := (Typ.ofCode (bits g.drain0 52 4)).getD .f32

end Sys2Proof.Machine
end

