-- ==== Sys2Proof/Machine/EngMem.lean ====
section
/-! DEFINITION. What the queued engines share: reports of their faults and FP events, their reads and writes, and the local
words that their commands have as destinations (R48, R99, R159, R160, R183, R200, R271, R296, R320). -/

namespace Sys2Proof.Machine

/-! Reports. -/

/-- A command ends with a fault: its report, then its queue entry; with no room for the report it waits (R159). -/
def endFault (s : State) (phys : Nat) (e : Eng) (x : Exec) (info : FaultInfo) : State :=
  let c := s.core phys
  match c.pushDeferred (s.det c.cx.ctx) (x.cmd.report info none) with
  | some c => s.setCore (c.setRun e none)
  | none => s.setCore ((c.noRoom (s.det c.cx.ctx) x.cmd.id).setRun e (some { x with phase := .faulted, fault := some info, rd := [], wr := [] }))

/-- Events of a command or late result reach the issuing task's sys.fflags at once, if it still runs (R99, R160). An enabled one
freezes the core, or is queued behind a freeze, and in a deterministic context for the end of the quantum; what is left is the
report that has found the queue full. -/
def accrue (s : State) (phys : Nat) (d : Deferred) (ev : Events) : State × Option Deferred :=
  let c := s.core phys
  let b := c.bankOf d.bank
  if b.task.serial != d.task || !b.task.live then (s, none)
  else
    let fl := b.fflags ||| ev
    let c := c.setBankOf d.bank { b with fflags := fl }
    let s := s.setCore c
    let info : FaultInfo := { cause := 13, s5 := 0, s6 := ev.setWidth 64, s7 := fl.setWidth 64 }
    if ev &&& b.fenable = 0#5 then (s, none)
    else if !s.det c.cx.ctx && !c.cx.frz.frozen && c.cx.frz.queue.isEmpty then
      (freezeCore s phys d.bank d.ch
        { info := info, kind := .fpEvent, pc := d.pc, imagePc := b.pc, retired := b.task.since d.retired }, none)
    else match c.pushDeferred (s.det c.cx.ctx) { d with info := info } with
      | some c => (s.setCore c, none)
      | none => (s.setCore (c.noRoom (s.det c.cx.ctx) d.id), some { d with info := info })

/-- The report of a command's events. -/
def Cmd.events (k : Cmd) : Deferred := k.report { cause := 13, s5 := 0, s6 := 0, s7 := 0 } none

/-- A command whose result is written keeps its engine until its report has found room (R159, R160). -/
def keepReport (phys : Nat) (e : Eng) (x : Exec) (r : State × Option Deferred) : State :=
  match r with
  | (s, none) => s
  | (t, some d) => t.modCore phys fun c => c.setRun e (some { x with phase := .faulted, fault := some d.info, rd := [], wr := [] })

/-- A result for a task that still runs in its bank (R71). -/
def Core.bankResult (c : Core) (hi : Bool) (task : Nat) (g : Bank → Bank) : Core :=
  let b := c.bankOf hi
  if b.task.serial = task then c.setBankOf hi (g b) else c

/-! Reads and writes. -/

/-- One part of an engine's read, no older than the core's older stores to its bytes; none while it must wait. -/
def engRead (s : State) (c : Core) (id : Nat) (p : Part) : Option (List PByte) :=
  match forward s c (s.det c.cx.ctx) id false [p] p with
  | .memory => some (readPart s c.phys id p)
  | .bytes l => some l
  | .wait => none

/-- Several parts in one step. -/
def engReadAll (s : State) (c : Core) (id : Nat) : List Part → Option (List PByte)
  | [] => some []
  | p :: ps => (engRead s c id p).bind fun a => (engReadAll s c id ps).map fun b => a ++ b

/-- An engine writes after the core's older stores and atomics to the same bytes have applied. R48 leaves open which value remains where
a store and an engine command of any kind write one word; here the engine's does (log 85). In a deterministic context an older LDF of
the word comes before the write too, so that no timing decides what it sees (R58). -/
def engMayWrite (s : State) (c : Core) (id : Nat) (p : Part) : Bool :=
  !((c.opsBefore id).any fun o => (o.isStore || o.isAtomic && !o.collected || s.det c.cx.ctx && isLdf o) && o.st != .done
    && o.parts.any fun q => !q.done && overlap q p)
where
  isLdf (o : Op) : Bool := match o.ins with
    | .ldf _ => true
    | _ => false

/-- A write of some parts of one granule in one step; a word of a mapped frame goes full like the rest of local memory (R183, R187). -/
def engWriteAll (s : State) (phys id : Nat) (l : List (Part × List PByte)) (row : Nat := 0) : State :=
  l.foldl (fun s (p, _) => match ownOffset p.va with
    | some o => if isLocalKey p.key then s else setFull s (localKey phys o) p.len
    | none => s) (engStore s phys id (joinRuns (l.map fun (p, bs) => (p.key, bs))) row)
where
  joinRuns : List (Nat × List PByte) → List (Nat × List PByte)
    | [] => []
    | (k, a) :: t => match joinRuns t with
      | [] => [(k, a)]
      | (m, b) :: u => if k + a.length = m then (k, a ++ b) :: u else (k, a) :: (m, b) :: u

/-- A write of one part. -/
def engWrite (s : State) (phys id : Nat) (p : Part) (bs : List PByte) (row : Nat := 0) : State := engWriteAll s phys id [(p, bs)] row

/-- The parts that perform in one step with part k: of a vector access to consecutive elements, all of its granule (R184, R186). -/
def mates (unit : Bool) (ps : List Part) (k : Nat) : List Nat :=
  (List.range ps.length).filter fun j => j == k || (unit && match ps[j]?, ps[k]? with
    | some q, some p => !q.done && q.key / 16 == p.key / 16
    | _, _ => false)

/-- LDV and STV. -/
def Cmd.unitStride (k : Cmd) : Bool :=
  match k.ins with
  | .ldv _ | .stv _ => true
  | _ => false

/-- Writes that the engine's command makes at once when it performs them, or that enter the non-temporal pool (R47, R190). -/
def poolAdd (c : Core) (k : Cmd) (p : Part) (bs : List PByte) : Core :=
  let part (n : Nat) : Part := { p with off := n, done := false }
  match c.ops.find? fun o => o.id == k.id with
  | some o => c.modOp k.id fun _ => { o with parts := o.parts ++ [part o.buf.length], buf := o.buf ++ bs, st := .pending }
  | none => { c with ops := c.ops ++ [
      { id := k.id, ins := k.ins, bank := k.bank, task := k.task, ch := k.ch, pc := k.pc, at_ := k.at_, st := .pending, dst := [], addr := k.addr
        parts := [part 0], buf := bs, b := 0, c := 0, res := [], ev := 0, late := false, collected := false, mmio := false }] }

/-- An access of a core reaches its bytes: the reply, if it is the last of its request, and the stashes. -/
def reach (s : State) (phys : Nat) (p : Part) (write : Bool) (last : Bool := true) : State :=
  touchStash (if last then countReply s phys p else s) phys p write

/-- Parts that a unit of the core reads in one step, for a consumer (R439): `bs` are their bytes. -/
def tookParts (s : State) (phys : Nat) (ps : List Part) (bs : List PByte) : State :=
  (List.range ps.length).foldl (fun s k => match ps[k]? with
    | some p => countPois (reach s phys p false (lastInSector ps (List.range (k + 1)) p)) p.key (boolNat (anyPois (sub bs (p.off - off0) p.len)))
    | none => s) s
where
  off0 : Nat := (ps.head?.map Part.off).getD 0

/-! Destinations (R183). -/

/-- Does a run of bytes at a generic address cover a word of the core's own local memory? -/
def coversWord (phys a len word : Nat) : Bool :=
  let a := a % 2 ^ 64
  let key := match rangeOf a with
    | .own => some (localKey phys (a - ownBase))
    | .peer => some a
    | _ => none
  match key with
  | some k => k < word * 8 + 8 && word * 8 < k + len
  | none => false

/-- The bytes at an own address, with the core's older stores to them (R263). -/
def peekBytes (s : State) (c : Core) (id a len : Nat) : List Byte :=
  match access s (c.asOf id) .engRead a len 0 with
  | .error _ => List.replicate len 0
  | .ok ps =>
    let older := (c.opsBefore id).filter fun o => o.isSt && o.isStore && o.st != .done && !o.mmio
    ps.flatMap fun p => ((List.range p.len).zip (readPart s c.phys id p)).map fun (i, m) =>
      (storeByte older (p.key + i)).getD (if m.p then 0 else m.b)

def wordsOfBytes (bs : List Byte) : List W64 := (List.range (bs.length / 8)).map fun i => BitVec.ofNat 64 (ofBytes (sub bs (8 * i) 8))

/-- The descriptor of a shuttle command: as it was read, or as the command would read it now. -/
def cmdDesc (s : State) (c : Core) (k : Cmd) (x : Option Exec) : List W64 :=
  match x with
  | some e => e.desc
  | none => wordsOfBytes (peekBytes s c k.id k.addr 32)

/-- Row and plane counts, and the index list's entry of a row. -/
def cmdCounts (s : State) (c : Core) (k : Cmd) (x : Option Exec) (d : Desc) : Nat × Nat :=
  match k.ins with
  | .cpyl _ => match x with
    | some e => if e.phase = .waitFlag then blockCounts else (e.rows, e.planes)
    | none => blockCounts
  | _ => (d.n1, d.n2)
where
  blockCounts : Nat × Nat :=
    let b := peekBytes s c k.id (k.b.toNat % 2 ^ 64) 16
    let n := ofBytes (sub b 8 4)
    let m := ofBytes (sub b 12 4)
    if 4096 < n || 4096 < m then (0, 0) else (n, m)

def indexEntry (s : State) (c : Core) (k : Cmd) (row : Nat) : Nat :=
  ofBytes (peekBytes s c k.id (k.b.toNat % 2 ^ 64 + 4 * row) 4)

/-- Destination address of a row and plane. -/
def rowDst (d : Desc) (pl row : Nat) : Nat :=
  (BitVec.ofNat 64 d.dst + BitVec.ofInt 64 ((pl : Int) * d.dps + (row : Int) * d.drs)).toNat
def rowSrc (d : Desc) (pl row : Nat) : Nat :=
  (BitVec.ofNat 64 d.src + BitVec.ofInt 64 ((pl : Int) * d.sps + (row : Int) * d.srs)).toNat

/-- Bytes of a row of the drain buffer (R318). -/
def drainLen (g : GearSt) : Nat := (if g.dwide then 16 else 32) * (drainTyp g).size

/-- Runs of bytes that a shuttle command reads and writes, as its descriptor, counts and index list stand now: generic addresses and
lengths. -/
def shuSpans (s : State) (c : Core) (k : Cmd) (x : Option Exec) : List (Nat × Nat) × List (Nat × Nat) :=
  let d := descOf (cmdDesc s c k x)
  let (n1, n2) := cmdCounts s c k x d
  let rows (g : Nat → Nat → Nat) : List (Nat × Nat) :=
    (List.range n2).flatMap fun pl => (List.range n1).map fun row => (g pl row, d.n0)
  let indexed (g : Nat → Nat) : List (Nat × Nat) :=
    (List.range n1).filterMap fun row =>
      let i := indexEntry s c k row
      if i = 0xFFFFFFFF then none else some (g i, d.n0)
  let list := k.b.toNat % 2 ^ 64
  match k.ins with
  | .cpy _ => ((k.addr, 32) :: rows (rowSrc d), rows (rowDst d))
  | .cpyl _ => ((k.addr, 32) :: (list, 16) :: rows (rowSrc d), rows (rowDst d))
  | .cpyset _ => ([(k.addr, 32)], rows (rowDst d))
  | .cpyg _ => ((k.addr, 32) :: (list, 4 * n1) :: indexed (rowSrc d 0), rows fun _ row => rowDst d 0 row)
  | .cpyx _ => ((k.addr, 32) :: (list, 4 * n1) :: rows (fun _ row => rowSrc d 0 row), indexed (rowDst d 0))
  | _ => ([], [])

/-- Runs of bytes that a command reads and writes; none while the index vector of a LDVG or STVX that has not started may still
change. -/
def Cmd.spans (s : State) (c : Core) (k : Cmd) (x : Option Exec) : Option (List (Nat × Nat) × List (Nat × Nat)) :=
  let elems (f : Fields) : List (Nat × Nat) := ((List.range f.typ.elems).filter (active k.mask f.typ.size)).map fun i =>
    (vecElemAddr (c.bankOf k.bank) k f i, f.typ.size)
  let block (n len : Nat) : List (Nat × Nat) := (List.range n).map fun i => (rowAddr k.addr (k.b.setWidth 64).toInt i, len)
  let parts (l : List Part) : List (Nat × Nat) := l.map fun p => (p.va, p.len)
  match k.ins with
  | .ldv f | .ldvs f => some (elems f, [])
  | .stv f | .stvs f => some ([], elems f)
  | .ldvg _ | .stvx _ => x.map fun e => (parts e.rd, parts e.wr)
  | .cpy _ | .cpyg _ | .cpyx _ | .cpyl _ | .cpyset _ => some (shuSpans s c k x)
  | .wload f => some ([(k.addr, 320 * f.typ.size)], [])
  | .wrun _ => some ([(k.addr, 8192)], [])
  | .wdrain _ => some ([(c.cx.weft.sp.toNat, 256)], [(k.addr, 512)])
  | .gbld _ | .gmm _ => some (block (gearRows k.ins).1 (gearRows k.ins).2, [])
  | .gst f => some ([(c.cx.gear.scale.toNat, 128), (c.cx.gear.bias.toNat, 128)], block 32 (32 * f.typ.size))
  | _ => some ([], [])

/-- Rows of the drain buffer that are still to be stored (R318). -/
def drainSpans (g : GearSt) : List (Nat × Nat) :=
  ((List.range 32).filter fun i => bit g.drain1 (32 + i)).map fun i => (drainRowAddr g i, drainLen g)

/-- Has the command a word of own local memory in its destination? One whose destination may still change counts as having every
word. -/
def Cmd.hasWord (s : State) (c : Core) (word : Nat) (k : Cmd) (x : Option Exec) : Bool :=
  match k.spans s c x with
  | none => k.writesMem
  | some (_, wr) => wr.any fun (a, len) => coversWord c.phys a len word

/-- R183: an engine write of the core is pending for a word, by commands older than a place in program order. -/
def pendingWord (s : State) (c : Core) (id word : Nat) : Bool :=
  let g := c.cx.gear
  (engs.any fun e =>
    (match (c.eng e).run with
     | some x => x.cmd.id < id && x.cmd.hasWord s c word (some x)
     | none => false)
    || (c.eng e).waiting.any fun k => k.id < id && k.hasWord s c word none)
  || (c.draining && g.did < id && (drainSpans g).any fun (a, len) => coversWord c.phys a len word)

end Sys2Proof.Machine
end

