-- ==== Sys2Proof/Machine/EngRun.lean ====
section
/-! DEFINITION. Vector and shuttle commands as they run: their start, their reads and writes, their end (R198-R200, R233-R238,
R261-R275). -/

namespace Sys2Proof.Machine

def mkExec (k : Cmd) : Exec :=
  { cmd := k, phase := .running, since := 0, tests := 0, row := 0, rows := 0, planes := 0, desc := [], rd := [], wr := [], got := []
    out := [], moved := 0, token := none, fault := none }

def zeroBytes (n : Nat) : List PByte := List.replicate n { b := 0, p := false }

def Exec.readsDone (x : Exec) : Bool := x.rd.all Part.done
def Exec.partsDone (x : Exec) : Bool := x.rd.all Part.done && x.wr.all Part.done
def Exec.takeRead (x : Exec) (k : Nat) (p : Part) (bs : List PByte) : Exec :=
  { x with rd := setAt x.rd k { p with done := true }, got := setFrom x.got p.off bs }
def Exec.tookWrite (x : Exec) (k : Nat) (p : Part) : Exec := { x with wr := setAt x.wr k { p with done := true } }

/-! Vector commands. -/

/-- STV and STVS `.nt` (R199). -/
def Cmd.vecNt (k : Cmd) : Bool :=
  match k.ins with
  | .stv f | .stvs f => f.mod == 1
  | _ => false

/-- A vector store's parts: those that enter the non-temporal pool at once, and the rest. -/
def startStore (s : State) (phys : Nat) (x : Exec) (f : Fields) (ps : List Part) : State :=
  let c := s.core phys
  let k := x.cmd
  let out := clean (vecBytes (vsrc (c.bankOf k.bank) false f f.typ f.dst))
  let far (p : Part) : Bool := k.vecNt && !p.isLocal
  let c := (ps.filter far).foldl (fun c p => poolAdd c k p (sub out p.off p.len)) c
  s.setCore (c.setRun .vec (some { x with wr := ps.filter fun p => !far p, out := out }))

/-- The first command of a task behind an earlier task's commands finds vector registers that are undefined (R71, R108). -/
def ownVecs (s : State) (phys : Nat) (k : Cmd) : State :=
  let c := s.core phys
  let b := c.bankOf k.bank
  if b.vown < k.task && k.task = b.task.serial then s.setCore (c.setBankOf k.bank (freeVecs b b.vbase k.task))
  else if b.vown < k.task then
    ({ s with fresh := s.fresh + 128 } : State).setCore (c.setBankOf k.bank (freeVecs b s.fresh k.task))
  else s

/-- Start of a vector command; a memory command checks every part of every active element first (R185, R193). -/
def startVec (s : State) (phys : Nat) (x : Exec) : State :=
  let s := ownVecs s phys x.cmd
  let c := s.core phys
  let k := x.cmd
  match k.vecMem with
  | none => s.setCore (c.setRun .vec (some x))
  | some (f, store) =>
    match checkParts s (c.asOf k.id) (if store then .engWrite else .engRead) f.typ.size (vecParts (c.bankOf k.bank) k f) with
    | .error i => endFault s phys .vec x i
    | .ok ps =>
      if store then startStore s phys x f ps
      else s.setCore (c.setRun .vec (some { x with rd := ps, got := zeroBytes 128 }))

/-- Commands whose result comes late and leaves lv as it is (R66). -/
def Cmd.vecLong (k : Cmd) : Bool :=
  match k.ins with
  | .ldv _ | .ldvs _ | .ldvg _ | .vdiv _ | .vsqrt _ | .vscan _ | .vsfu _ => true
  | _ => false

def Cmd.fields (k : Cmd) : Fields := (k.ins.fields?).getD blankFields

/-- The tile row that VMOV `.row` copies. -/
def cmdRow (c : Core) (k : Cmd) : VBits :=
  match k.ins with
  | .vmov f => vget (tileOf c.cx (tileNo f.opa)).rows (f.imm.toNat % 32) 0
  | _ => 0

/-- What a finished vector command writes: its register, its events. -/
def vecResult (c : Core) (x : Exec) : VRes :=
  let k := x.cmd
  match k.vecMem with
  | some (_, false) => (.vec (vecOfBytes (consume x.got)), 0#5)
  | some (_, true) => (.none, 0#5)
  | none => vecCompute (c.bankOf k.bank) k (cmdRow c k)

def writeVOut (k : Cmd) (v : VOut) (b : Bank) : Bank :=
  match v with
  | .vec x => wvec b k.fields.dst k.vecLong x
  | .scalar x => b.wd k.fields.dst x
  | .pred x => (match k.fields.dst with
    | .p n => b.wp n x
    | _ => b)
  | .none => b

/-- A vector result goes to the contents that its task's commands see (R71, R238), another one to a task that still runs. -/
def Core.vecBank (c : Core) (k : Cmd) (v : VOut) : Core :=
  match v with
  | .vec _ =>
    let b := c.bankOf k.bank
    if b.vown = k.task then c.setBankOf k.bank (writeVOut k v b) else c
  | _ => c.bankResult k.bank k.task (writeVOut k v)

/-- End of a vector command (R233-R238). -/
def finishVec (s : State) (phys : Nat) (x : Exec) : State :=
  let c := s.core phys
  let k := x.cmd
  let (v, ev) := vecResult c x
  let c1 := (c.vecBank k v).setRun .vec none
  keepReport phys .vec x (accrue (s.setCore c1) phys k.events ev)

/-! Shuttle commands: rows are opened in traversal order, their reads and writes then perform in any order that R262, R267
and R272 allow. -/

def Cmd.list (k : Cmd) : Nat := k.b.toNat % 2 ^ 64

/-- Bytes in a row, and rows in all. -/
def Exec.n0 (x : Exec) : Nat := (descOf x.desc).n0
def Exec.total (x : Exec) : Nat := x.rows * x.planes

/-- End of the moves: the token and, later, the report. -/
def shuEnd (x : Exec) (t : W64) : Exec := { x with phase := .ending, rd := [], wr := [], token := some t }

/-- The token of a memory fault (R273). -/
def shuFault (x : Exec) (i : FaultInfo) : Exec :=
  { shuEnd x (BitVec.ofInt 64 (-(i.cause : Int))) with fault := if bit (x.desc.getD 1 0) 60 then none else some i }

/-- What remains once the opened rows have moved: nothing, a fault, or further rows; the token of a cancelled command (R270). -/
def shuSettle (x : Exec) : Exec :=
  if !x.partsDone then x
  else match x.token with
  | some t => { shuEnd x t with fault := none }
  | none =>
    let x := { x with rd := [], wr := [], got := [], out := [] }
    match x.fault with
    | some i => shuFault x i
    | none => if x.row < x.total then x else shuEnd x (BitVec.ofNat 64 x.moved)

/-! The flag of a CPYL (R269, R275). -/

/-- Clock of a bounded wait: cc, or the context's boundaries. -/
def waitClock (s : State) (ctx : Nat) : Nat := if s.det ctx then ((s.ctx? ctx).map Ctx.bounds).getD 0 else s.cc

/-- One test: whether it ended the wait, with what follows. A read that an older store of the core holds back (R44) has not found the
flag (log 89). DESIGN CHOICE (log 105): a block of `.nz` may also lie in the host window (R430). -/
def flagTest (s : State) (phys : Nat) (x : Exec) : Bool × State :=
  let c := s.core phys
  let k := x.cmd
  let a := k.list
  let put (s : State) (x : Exec) : State := s.setCore ((s.core phys).setRun .shu (some x))
  let full := k.fields.mod == 0
  let word := wordOf phys a
  match access s (c.asOf k.id) .engRead a 16 0 with
  | .error i => (true, put s (shuFault x i))
  | .ok ps =>
    if full && !viewFull s phys word then (false, s)
    else match engReadAll s c k.id ps with
    | none => (false, s)
    | some bs =>
      let s := tookParts s phys ps bs
      let bs := consume bs
      if !full && ofBytes (bs.take 8) = 0 then (false, s)
      else
        let s := if full then coreEmpty s phys k.id word else s
        let n1 := ofBytes (sub bs 8 4)
        let n2 := ofBytes (sub bs 12 4)
        (true, put s (if 4096 < n1 || 4096 < n2 then shuEnd x (BitVec.ofInt 64 (-34))
          else if n1 = 0 || n2 = 0 then shuEnd x 0
          else { x with phase := .running, rows := n1, planes := n2 }))

/-- CPYL's timeout in tests' clock ticks. -/
def Cmd.limit (k : Cmd) (det : Bool) : Nat := k.fields.imm.toNat % 65536 * (if det then 1 else 1024)

/-- One test at its place: the first, one in between, or the last, which ends the command when it fails. -/
def testStep (s : State) (phys : Nat) (x : Exec) (last : Bool) : State :=
  match flagTest s phys x with
  | (true, s') => s'
  | (false, s') =>
    let c := s'.core phys
    if last then s'.setCore (c.setRun .shu (some (shuEnd x (BitVec.ofInt 64 (-33)))))
    else if x.tests != 0 && x.cmd.fields.mod == 0 && !s.det c.cx.ctx then s
    else s'.setCore (c.setRun .shu (some { x with
      since := if x.tests = 0 then waitClock s c.cx.ctx else x.since, tests := x.tests + 1 }))

/-- Start: the descriptor is read in one step (R263); none while an older store to it is on its way. -/
def startShu (s : State) (phys : Nat) (x : Exec) : Option State :=
  let c := s.core phys
  let k := x.cmd
  let put (x : Exec) : State := s.setCore (c.setRun .shu (some x))
  match access s (c.asOf k.id) .engRead k.addr 32 0 with
  | .error i => some (put (shuFault x i))
  | .ok ps => (engReadAll s c k.id ps).map fun bs =>
    let s := tookParts s phys ps bs
    let put (x : Exec) : State := s.setCore ((s.core phys).setRun .shu (some x))
    let d := wordsOfBytes (consume bs)
    let x := { x with desc := d, rows := (descOf d).n1, planes := (descOf d).n2 }
    if !descOk k.ins d k.list then put (shuEnd x (BitVec.ofInt 64 (-35)))
    else match k.ins with
      | .cpyl _ =>
        -- the first test of a free-mode context is made in this cc (R269, R275)
        let x := { x with phase := .waitFlag }
        if s.det c.cx.ctx then put x else testStep (put x) phys x (x.cmd.limit false == 0)
      | _ => put x

/-- The fill pattern of a row (R268). -/
def fillRow (t : Typ) (v : W128) (n : Nat) : List PByte :=
  let bs := toBytes t.size v.toNat
  (List.range n).map fun j => { b := bs.getD (j % t.size) 0, p := false }

/-- The next row: source address or bytes, destination address; none of it for a row that CPYX skips. -/
def rowPlan (k : Cmd) (d : Desc) (r idx : Nat) : Option ((Nat ⊕ List PByte) × Nat) :=
  let pl := r / d.n1
  let row := r % d.n1
  match k.ins with
  | .cpyset f => some (.inr (fillRow f.typ k.b d.n0), rowDst d pl row)
  | .cpyg _ =>
    if idx = 0xFFFFFFFF then some (.inr (zeroBytes d.n0), rowDst d 0 row)
    else some (.inl (rowSrc d 0 idx), rowDst d 0 row)
  | .cpyx _ => if idx = 0xFFFFFFFF then none else some (.inl (rowSrc d 0 row), rowDst d 0 idx)
  | _ => some (.inl (rowSrc d pl row), rowDst d pl row)

/-- The parts of a run before the first that fails its check, and the failure (R193, R273). The parts of one row are checked
as the row is reached. -/
def checkedParts (s : State) (c : Core) (k : AK) (a len off : Nat) : List Part × Option FaultInfo :=
  (partsFrom a off (len / 16 + 2) len).foldl (fun (ok, bad) p =>
    match bad with
    | some _ => (ok, bad)
    | none => match checkParts s c k p.len [{ p with va := p.va % 2 ^ 64 }] with
      | .ok q => (ok ++ q, none)
      | .error i => (ok, some i)) ([], none)

/-- Read the index list's entry of the next row (R267), after the writes of earlier rows to it (R262). -/
def readIndex (s : State) (c : Core) (x : Exec) : Option (Except FaultInfo Nat × State) :=
  let k := x.cmd
  match access s (c.asOf k.id) .engRead (k.list + 4 * x.row) 4 0 with
  | .error i => some (.error i, s)
  | .ok ps =>
    if x.wr.any fun q => !q.done && ps.any (overlap q) then none
    else (engReadAll s c k.id ps).map fun bs => (.ok (ofBytes (consume bs)), tookParts s c.phys ps bs)

/-- Open the next row, in the state that the read of its index entry leaves; none while that cannot be read yet. -/
def openRow (s : State) (phys : Nat) (x : Exec) : Option (Exec × State) :=
  let c := s.core phys
  let k := x.cmd
  let d := { descOf x.desc with n1 := x.rows, n2 := x.planes }
  let idx : Option (Except FaultInfo Nat × State) := match k.ins with
    | .cpyg _ | .cpyx _ => readIndex s c x
    | _ => some (.ok 0, s)
  match idx with
  | none => none
  | some (.error i, s) => some (shuSettle { x with fault := some i }, s)
  | some (.ok i, s) =>
    let c := s.core phys
    let y := { x with row := x.row + 1 }
    match rowPlan k d x.row i with
    | none => some (shuSettle y, s)
    | some (src, dst) =>
      let off := y.got.length
      let (rd, bad) := match src with
        | .inl a => checkedParts s (c.asOf k.id) .engRead a d.n0 off
        | .inr _ => ([], none)
      let bytes := match src with
        | .inl _ => zeroBytes d.n0
        | .inr l => l
      match bad with
      | some i => some (shuSettle { y with rd := y.rd ++ rd, got := y.got ++ bytes, fault := some i, moved := y.moved + d.n0 }, s)
      | none =>
        let (wr, bad) := checkedParts s (c.asOf k.id) .engWrite dst d.n0 off
        some (shuSettle { y with rd := y.rd ++ rd, wr := y.wr ++ wr, got := y.got ++ bytes, fault := bad, moved := y.moved + d.n0 }, s)

/-- A read waits for the earlier rows' writes to the same bytes, where they lie in own local memory or are reached through a frame of it
(R167, R262). -/
def shuMayRead (c : Core) (x : Exec) (p : Part) : Bool :=
  !p.isOwn c.phys || x.wr.all fun q => q.done || !overlap q p || x.n0 = 0 || p.off / x.n0 ≤ q.off / x.n0

/-- A write waits for its row's reads, and for the reads of earlier rows from its bytes: no row sees what a later row writes (R262). A
write to a word of local memory waits for every earlier write, entries of the non-temporal pool among them (R272). Of two writes to one
byte of local memory the later row's stays. -/
def shuMayWrite (s : State) (c : Core) (x : Exec) (k : Nat) (p : Part) : Bool :=
  (x.rd.all fun q => q.done || x.n0 = 0 || (q.off / x.n0 != p.off / x.n0 && !(q.off / x.n0 < p.off / x.n0 && overlap q p)))
    && (!p.isLocal || ((x.wr.take k).all Part.done && (c.op? x.cmd.id).isNone)) && engMayWrite s c x.cmd.id p

/-- A destination write of parts k: an ordinary engine write, or an entry of the non-temporal pool (R261, R272). -/
def Exec.pools (x : Exec) (p : Part) : Bool := bit (x.desc.getD 1 0) 61 && !p.isLocal
def shuWrite (s : State) (phys : Nat) (x : Exec) (k : Nat) (p : Part) : State :=
  let bs := sub x.got p.off p.len
  if x.pools p then s.setCore (poolAdd (s.core phys) x.cmd p bs)
  else engWrite (reach s phys p true (lastInSector x.wr [k] p)) phys x.cmd.id p bs ((x.moved - x.got.length + p.off) / max 1 x.n0 + 1)

/-- A read that finds the host gone (R432): the vector command writes nothing (R193); the shuttle goes no further than the parts before
it: the earlier rows' writes, none of its own row's (R262, R273). -/
def hostLost (s : State) (phys : Nat) (e : Eng) (x : Exec) (k : Nat) (p : Part) : State :=
  match e with
  | .shu => s.setCore ((s.core phys).setRun .shu (some (shuSettle { x with
      rd := x.rd.take k, wr := x.wr.filter fun q => q.off / max 1 x.n0 < p.off / max 1 x.n0, fault := some (accessFault p.va .engRead p.len) })))
  | _ => endFault s phys e x (accessFault p.va .engRead x.cmd.fields.typ.size)

/-- TOKEN_WRITE: the command has ended, its pool entries have applied, its fault is reported (R264, R273). -/
def tokenWrite (s : State) (phys : Nat) (x : Exec) : State :=
  let c := s.core phys
  let k := x.cmd
  if x.phase != .ending || (c.ops.any fun o => o.id == k.id) then s
  else
    let c1 := (writeToken c k (x.token.getD 0)).setRun .shu none
    match x.fault with
    | none => s.setCore c1
    | some i => match c1.pushDeferred (s.det c.cx.ctx) (k.report i none) with
      | some c2 => s.setCore c2
      | none => s.setCore (c.noRoom (s.det c.cx.ctx) k.id)

end Sys2Proof.Machine
end

