-- ==== Sys2Proof/Machine/Heddle.lean ====
section
/-! DEFINITION. Class 14, the heddle instructions at issue, and what a heddle unit does: images, offers, cancels, lifts
(R322-R348). -/

namespace Sys2Proof.Machine

/-! Issue (R339-R346). -/

/-- A request to the unit, of a register content found legal. -/
def heddleSend (i : Instr) (f : Fields) (s : State) (legal : W64 → Bool) (ask : State → W64 → HAsk) (regs : W64 → List Reg) :
    State :=
  run f (fun s =>
    let b := rd s f f.opb
    if !legal b then .fault (illegalInfo (encode i))
    else if s.here.waits (regs b) then .stall
    else sendOut (traceUnit s)
      (.heddle { ctx := s.here.cx.ctx, lc := s.here.cx.lc, handle := rd s f f.opa, ask := ask s b })) s

/-- The offer descriptor (R344); GET and PCANCEL take no len and typ. -/
def offerPort (b : W64) : Nat := bits b 0 6
def offerLen (b : W64) : Nat := bits b 8 6
def offerTyp (b : W64) : Nat := bits b 16 4
def offerTag (b : W64) : BitVec 16 := BitVec.ofNat 16 (bits b 48 16)
def offerOk (put : Bool) (b : W64) : Bool :=
  bits b 20 28 == 0 && bits b 14 2 == 0 && bits b 6 2 == 0 && offerLen b ≤ 32
    && (put || (offerLen b == 0 && offerTyp b == 0))
/-- The binding descriptor (R343). -/
def bindOk (b : W64) : Bool := bits b 12 52 == 0 && bits b 6 2 == 0 && bits b 8 4 != 15
/-- The selector of PSTAT (R346). -/
def pstatOk (b : W64) : Bool := bits b 8 56 == 0 && !bit b 6

def execPfree (f : Fields) (s : State) : Res :=
  .next (heddleSend (.pfree f) f s (fun _ => true) (fun _ _ => .pfree) (fun _ => []))
def execPopen (f : Fields) (s : State) : Res :=
  .next (heddleSend (.popen f) f s (fun b => b.toNat < 64) (fun _ b => .popen b.toNat) (fun _ => []))
def execPclose (f : Fields) (s : State) : Res :=
  .next (heddleSend (.pclose f) f s (fun b => b.toNat < 64) (fun _ b => .pclose b.toNat) (fun _ => []))
def execPut (f : Fields) (s : State) : Res :=
  .next (heddleSend (.put f) f s (offerOk true)
    (fun s b => .put b (regBytes s.bank (regNo f.dst) (offerLen b)))
    (fun b => sRange (regNo f.dst) ((offerLen b + 7) / 8)))
def execGet (f : Fields) (s : State) : Res :=
  .next (heddleSend (.get f) f s (offerOk false) (fun _ b => .get b) (fun _ => []))
def execPcancel (f : Fields) (s : State) : Res :=
  .next (heddleSend (.pcancel f) f s (offerOk false) (fun _ b => .pcancel b) (fun _ => []))
def execPbind (f : Fields) (s : State) : Res :=
  .next (heddleSend (.pbind f) f s bindOk (fun _ b => .pbind b) (fun _ => []))

/-- PLOAD: the image is read by the memory path, as a load (R340). -/
def execPload (f : Fields) (s : State) : Res :=
  .next (run f (fun s => .held s (rd s f f.opa).toNat <|
    let c := s.here
    let a := (rd s f f.opa).toNat
    if a % 64 != 0 then .fault (addrFault a .load 8192)
    else if c.fenced then .stall
    else match access s c .load a 8192 0 with
      | .error i => .fault i
      | .ok ps =>
        let o := { newOp s (.pload f) with dst := regOf f.dst, addr := a, parts := ps, collected := s.det c.cx.ctx }
        if netFull s c ps then .stall
        else
          let s := pushOp (noteAccess s a 8192 true false) f o
          .done (if o.collected then collectOp s o.id else s)) s)

/-- PSTAT: the word is read at the home when its answer is made (R346). -/
def execPstat (f : Fields) (s : State) : Res :=
  .next (run f (fun s =>
    let b := rd s f f.opb
    if !pstatOk b then .fault (illegalInfo (encode (.pstat f)))
    else
      let o := { newOp s (.pstat f) with
        dst := regOf f.dst, b := (rd s f f.opa).setWidth 128, c := b.setWidth 128, collected := s.det s.here.cx.ctx }
      let s := pushOp s f o
      .done (if o.collected then collectOp s o.id else s)) s)

/-! Images (R328, R329). -/

def imgWord (bs : List Byte) (off : Nat) : W64 := BitVec.ofNat 64 (ofBytes (sub bs off 8))

def zeroRange (bs : List Byte) (lo hi : Nat) : Bool := (sub bs lo (hi - lo)).all (· == 0#8)

def linkOf (bs : List Byte) (k : Nat) : Link :=
  let w1 := imgWord bs (0x240 + 16 * k + 8)
  { kind := bits w1 0 8, n := bits w1 8 5, fop := bits w1 13 3, fp := bit w1 16, c := imgWord bs (0x240 + 16 * k)
    src := bits w1 24 7, dst := bits w1 32 7 }
def ruleOf (bs : List Byte) (k : Nat) : Rule :=
  { ports := imgWord bs (0x640 + 32 * k), entries := imgWord bs (0x640 + 32 * k + 8), exits := imgWord bs (0x640 + 32 * k + 16) }

def linkOk (outs : List Bool) (w1 : W64) (l : Link) : Bool :=
  bits w1 39 25 == 0 && !bit w1 31 && bits w1 17 7 == 0 && l.kind ≤ 3
    && (if l.kind = 1 then 1 ≤ l.n && l.n ≤ 16 else l.n == 0)
    && (if l.kind = 3 then l.fop ≤ 4 else l.fop == 0 && !l.fp && l.c == 0)
    && (64 ≤ l.src || outs[l.src]? == some true) && (64 ≤ l.dst || outs[l.dst]? == some false)

/-- The image, where it is well formed (R329). -/
def imageOfBytes (bs : List Byte) : Option Image :=
  let h := imgWord bs 0
  let np := bits h 24 8
  let nl := bits h 32 8
  let nn := bits h 40 8
  let nr := bits h 48 8
  let portW := (List.range np).map fun k => imgWord bs (0x40 + 8 * k)
  let outs := portW.map fun w => bits w 0 2 == 1
  let links := (List.range nl).map (linkOf bs)
  let rules := (List.range nr).map (ruleOf bs)
  let head := bits h 0 16 == 0x4844 && bits h 16 8 == 1 && bits h 56 8 == 0
    && 1 ≤ np && np ≤ 64 && 1 ≤ nl && nl ≤ 64 && nn ≤ 64 && 1 ≤ nr && nr ≤ 128
  let zeros := zeroRange bs 8 0x40 && zeroRange bs (0x40 + 8 * np) 0x240 && zeroRange bs (0x240 + 16 * nl) 0x640
    && zeroRange bs (0x640 + 32 * nr) 8192
  let ports := portW.all fun w => w == 1 || w == 2
  let linksOk := (List.range nl).all fun k => linkOk outs (imgWord bs (0x240 + 16 * k + 8)) (linkOf bs k)
  let rulesOk := (List.range nr).all fun k =>
    let r := ruleOf bs k
    let w3 := imgWord bs (0x640 + 32 * k + 24)
    r.ports.toNat < 2 ^ np && r.entries.toNat < 2 ^ nl && r.exits.toNat < 2 ^ nl && w3 == popW r.ports
  if head && zeros && ports && linksOk && rulesOk then
    some { outs := outs, links := links, nodes := nn, rules := rules } else none

/-! Connectors by handle (R340). -/

def HUnit.gen (u : HUnit) (slot : Nat) : BitVec 16 :=
  ((u.gens.find? fun g => g.1 == slot).map Prod.snd).getD 0

def setGen (l : List (Nat × BitVec 16)) (slot : Nat) (g : BitVec 16) : List (Nat × BitVec 16) := putBy Prod.fst l (slot, g)

def handleOf (gen : BitVec 16) (unit slot : Nat) : W64 := BitVec.ofNat 64 (gen.toNat * 2 ^ 32 + unit * 2 ^ 16 + slot)
def handleUnit (h : W64) : Nat := bits h 16 16

/-- The connector that a handle names in a context. -/
def connOf (s : State) (ctx : Nat) (h : W64) : Option (HUnit × Conn) :=
  let u := s.hunit (handleUnit h)
  let slot := bits h 0 8
  if bits h 48 16 != 0 || bits h 8 8 != 0 || 576 ≤ handleUnit h || (u.gen slot).toNat != bits h 32 16 then none
  else match getBy Conn.slot u.conns slot with
    | some c => if c.ctx = ctx then some (u, c) else none
    | none => none

def HUnit.setConn (u : HUnit) (c : Conn) : HUnit := { u with conns := putBy Conn.slot u.conns c }

/-- The first free slot at or after a number, cyclically. -/
def freeConnSlot (u : HUnit) (start : Nat) : Option Nat :=
  ((List.range 256).map fun i => (start + i) % 256).find? fun n => (getBy Conn.slot u.conns n).isNone

/-- Load an image (R340): the handle, or −2 or −1. Which free slot it takes is the unit's (log 5). -/
def loadImage (s : State) (unit ctx : Nat) (bs : List Byte) : State × W64 :=
  match imageOfBytes bs with
  | none => (s, BitVec.ofInt 64 (-2))
  | some im =>
    let u := s.hunit unit
    match freeConnSlot u ((Config.freeWord s.fresh).toNat % 256) with
    | none => (s, BitVec.ofInt 64 (-1))
    | some slot =>
      let g := u.gen slot + 1
      let c : Conn := { slot := slot, ctx := ctx, image := im, lifts := 0
                        ports := im.outs.map fun _ => { holder := none, ch := 14, fifo := [], taken := [] }
                        bufs := im.links.map fun _ => [] }
      (s.drawn.setHunit { (u.setConn c) with gens := setGen u.gens slot g }, handleOf g unit slot)

/-! Completions (R334, R335). -/

structure Completion where
  lc : Nat
  ch : BitVec 4
  tag : BitVec 16
  lift : Nat
  port : Nat
  len : Nat
  typ : Nat
  lost : Bool
  status : Nat
  data : List Byte
  /-- A fired GET carries its data. -/
  carries : Bool

def complete (s : State) (ctx unit : Nat) (z : Completion) : State :=
  let s1 : W64 := BitVec.ofNat 64 (z.lift * 2 ^ 32 + z.port % 64 * 2 ^ 24 + z.len % 64 * 2 ^ 18 + z.typ % 16 * 2 ^ 12
    + boolNat z.lost * 2 ^ 8 + z.status)
  let d (k : Nat) : W64 := if z.carries then BitVec.ofNat 64 (ofBytes (sub z.data (8 * k) 8)) else 0
  let m := mkMsg 4 (if z.carries then 8 + z.len else 8) z.ch z.tag 0xFFFE#16 #v[s1, d 0, d 1, d 2, d 3, 0, 0]
  s.post { ctx := ctx, dst := z.lc, src := .heddle unit, held := { msg := m, launch := none } }

/-- A refusal or drop of an offer; `ch` 14 where no binding is to follow. -/
def refuse (s : State) (ctx unit lc : Nat) (ch : BitVec 4) (tag : BitVec 16) (port len typ status : Nat) : State :=
  complete s ctx unit { lc := lc, ch := ch, tag := tag, lift := 0, port := port, len := len, typ := typ, lost := false
                        status := status, data := [], carries := false }

/-- A refusal of a request that has no offer: the tag, and for PFREE the port, are open (log 5). -/
def refuseOther (s : State) (ctx unit lc : Nat) (port : Option Nat) (status : Nat) : State :=
  let x := Config.freeWord s.fresh
  refuse s.drawn ctx unit lc 14#4 (x.setWidth 16) (port.getD (bits x 16 6)) 0 0 status

/-! Requests at the unit (R341-R345). -/

def Conn.port? (c : Conn) (k : Nat) : Option Port := c.ports[k]?
def Conn.setPort (c : Conn) (k : Nat) (p : Port) : Conn := { c with ports := setAt c.ports k p }
def putConn (s : State) (u : HUnit) (c : Conn) : State := s.setHunit (u.setConn c)

/-- Every pending offer of a port completes with status 4. -/
def dropOffers (s : State) (ctx unit k : Nat) (p : Port) (put : Bool) : State :=
  p.fifo.foldl (fun s o => refuse s ctx unit o.lc p.ch o.tag k (if put then o.data.len else 0)
    (if put then o.data.typ.toNat else 0) 4) s

/-- PUT or GET. -/
def offer (s : State) (r : HReq) (put : Bool) (b : W64) (data : List Byte) : State :=
  let unit := handleUnit r.handle
  let k := offerPort b
  let no (ch : BitVec 4) (st : Nat) : State := refuse s r.ctx unit r.lc ch (offerTag b) k (offerLen b) (offerTyp b) st
  match connOf s r.ctx r.handle with
  | none => no 14#4 3
  | some (u, c) => match c.port? k with
    | none => no 14#4 3
    | some p =>
      if p.holder != some r.lc then no 14#4 3
      else if (c.image.outs.getD k false) != put then no p.ch 3
      else if 16 ≤ p.fifo.length
          || 4096 ≤ (u.conns.foldl (fun n c => c.ports.foldl (fun n p => n + p.fifo.length) n) 0) then no p.ch 2
      else
        let o : Offer := { age := u.nextAge, lc := r.lc, tag := offerTag b
                           data := { bytes := data, len := offerLen b, typ := BitVec.ofNat 4 (offerTyp b) } }
        putConn s { u with nextAge := u.nextAge + 1 } (c.setPort k { p with fifo := p.fifo ++ [o] })

/-- The last place in a list that satisfies a test. -/
def lastIndex {α : Type} (p : α → Bool) (l : List α) : Option Nat :=
  (List.range l.length).foldl (fun acc i => match l[i]? with
    | some x => if p x then some i else acc
    | none => acc) none
def firstIndex {α : Type} (p : α → Bool) (l : List α) : Option Nat :=
  (List.range l.length).find? fun i => match l[i]? with
    | some x => p x
    | none => false

/-- PCANCEL (R336). -/
def cancelOffer (s : State) (r : HReq) (b : W64) : State :=
  let unit := handleUnit r.handle
  let k := offerPort b
  let tag := offerTag b
  let say (ch : BitVec 4) (len typ st : Nat) : State := refuse s r.ctx unit r.lc ch tag k len typ st
  match connOf s r.ctx r.handle with
  | none => say 14#4 0 0 3
  | some (u, c) => match c.port? k with
    | none => say 14#4 0 0 3
    | some p =>
      if p.holder != some r.lc then say 14#4 0 0 3
      else match firstIndex (fun (o : Offer) => o.lc == r.lc && o.tag == tag) p.fifo with
        | some i =>
          let put := c.image.outs.getD k false
          let d := ((p.fifo[i]?).map Offer.data).getD { bytes := [], len := 0, typ := 0 }
          putConn (say p.ch (if put then d.len else 0) (if put then d.typ.toNat else 0) 1) u
            (c.setPort k { p with fifo := eraseAt p.fifo i })
        | none =>
          match lastIndex (fun (t : Nat × BitVec 16 × Bool) => t.1 == r.lc && t.2.1 == tag && !t.2.2) p.taken with
          | some i => putConn (say p.ch 0 0 6) u (c.setPort k { p with taken := setAt p.taken i (r.lc, tag, true) })
          | none => say p.ch 0 0 7

def popen (s : State) (r : HReq) (k : Nat) : State :=
  let unit := handleUnit r.handle
  match connOf s r.ctx r.handle with
  | none => refuseOther s r.ctx unit r.lc (some k) 3
  | some (u, c) => match c.port? k with
    | none => refuseOther s r.ctx unit r.lc (some k) 3
    | some p => match p.holder with
      | none => putConn s u (c.setPort k { p with holder := some r.lc, ch := 14 })
      | some l => if l = r.lc then s else refuseOther s r.ctx unit r.lc (some k) 5

def pclose (s : State) (r : HReq) (k : Nat) : State :=
  let unit := handleUnit r.handle
  match connOf s r.ctx r.handle with
  | none => refuseOther s r.ctx unit r.lc (some k) 3
  | some (u, c) => match c.port? k with
    | none => refuseOther s r.ctx unit r.lc (some k) 3
    | some p =>
      if p.holder != some r.lc then refuseOther s r.ctx unit r.lc (some k) 3
      else putConn (dropOffers s r.ctx unit k p (c.image.outs.getD k false)) u
        (c.setPort k { p with holder := none, ch := 14, fifo := [] })

def pbind (s : State) (r : HReq) (b : W64) : State :=
  let unit := handleUnit r.handle
  let k := bits b 0 6
  match connOf s r.ctx r.handle with
  | none => refuseOther s r.ctx unit r.lc (some k) 3
  | some (u, c) => match c.port? k with
    | none => refuseOther s r.ctx unit r.lc (some k) 3
    | some p =>
      if p.holder != some r.lc then refuseOther s r.ctx unit r.lc (some k) 3
      else putConn s u (c.setPort k { p with ch := BitVec.ofNat 4 (bits b 8 4) })

def pfree (s : State) (r : HReq) : State :=
  let unit := handleUnit r.handle
  match connOf s r.ctx r.handle with
  | none => refuseOther s r.ctx unit r.lc none 3
  | some (u, c) =>
    let s := (List.range c.ports.length).foldl (fun s k => match c.port? k with
      | some p => dropOffers s r.ctx unit k p (c.image.outs.getD k false)
      | none => s) s
    s.setHunit { u with conns := u.conns.filter fun d => d.slot != c.slot }

/-- A request that has arrived at its unit. -/
def heddleServe (s : State) (r : HReq) : State :=
  match r.ask with
  | .pfree => pfree s r
  | .popen k => popen s r k
  | .pclose k => pclose s r k
  | .put b d => offer s r true b d
  | .get b => offer s r false b []
  | .pcancel b => cancelOffer s r b
  | .pbind b => pbind s r b

/-- PSTAT's word (R346). -/
def pstatWord (s : State) (ctx : Nat) (h b : W64) : W64 :=
  let none_ : W64 := BitVec.allOnes 64
  match connOf s ctx h with
  | none => none_
  | some (_, c) =>
    let k := bits b 0 6
    let lift := c.lifts.toNat * 2 ^ 32
    if bit b 7 then
      match c.bufs[k]? with
      | some l => BitVec.ofNat 64 (lift + l.length)
      | none => none_
    else match c.port? k with
      | some p => BitVec.ofNat 64 (lift + (p.holder.getD 0xFFFF) * 2 ^ 16 + boolNat p.holder.isSome * 2 ^ 8 + p.fifo.length)
      | none => none_

/-! Predicates (R326). -/

/-- An exact real number, an infinity or a NaN. -/
inductive RealV
  | num (d : Dy)
  | inf (neg : Bool)
  | nan
  deriving DecidableEq, Repr

def Dy.lt (a b : Dy) : Bool := (a.add ⟨-b.n, b.exp⟩).n < 0
def RealV.cmp (a b : RealV) : Option Ordering :=
  match a, b with
  | .nan, _ | _, .nan => none
  | .inf x, .inf y => some (if x = y then .eq else if x then .lt else .gt)
  | .inf x, .num _ => some (if x then .lt else .gt)
  | .num _, .inf y => some (if y then .gt else .lt)
  | .num x, .num y => some (if x.lt y then .lt else if y.lt x then .gt else .eq)

def realOfFp (m : Fmt) (x : Nat) : RealV :=
  match unpack m x with
  | .nan _ => .nan
  | .inf n => .inf n
  | .fin n k e => .num (dyOf n k e)

/-- Raw bits of the first element, and its value; the value of .t5, .q and code 0 is the low 8 bytes (R326). -/
def firstElem (d : Datum) : Nat × RealV :=
  let t := (Typ.ofCode d.typ.toNat).getD .untyped
  let size := match t with
    | .t5 | .q | .untyped => 8
    | t => t.size
  let raw := ofBytes ((d.bytes.take d.len).take size)
  (if t = .t5 then raw % 256 else raw,
   if t.isFp then realOfFp (fmtOf t) raw
   else if t = .tm24 then .num ⟨tm24Int raw, 0⟩
   else if t.isSigned then .num ⟨toSigned (8 * size) raw, 0⟩ else .num ⟨raw, 0⟩)

def filterHolds (l : Link) (d : Datum) : Bool :=
  let (raw, v) := firstElem d
  let c : RealV := if l.fp then realOfFp (fmtOf .f64) l.c.toNat else .num ⟨l.c.toInt, 0⟩
  match l.fop with
  | 0 => v.cmp c == some .lt
  | 1 => v.cmp c == some .gt || v.cmp c == some .eq
  | 2 => v.cmp c == some .eq
  | 3 => v.cmp c != some .eq
  | _ => raw &&& l.c.toNat != 0

/-! Lifts (R323, R324, R331-R333). -/

/-- Data at an entry end, with the output port it came from; `fuel` bounds the links followed. An image whose links form a
cycle without a buffer gives none. -/
def entryData (c : Conn) (r : Rule) : Nat → Nat → Option (Datum × Option Nat)
  | 0, _ => none
  | fuel + 1, l => match c.image.links[l]? with
    | none => none
    | some k =>
      if k.src < 64 then (c.port? k.src).bind fun p => (p.fifo.head?).map fun o => (o.data, some k.src)
      else
        -- the incoming end of the node that fires
        match (List.range c.image.links.length).find? fun j =>
            bit r.exits j && ((c.image.links[j]?).map Link.dst == some k.src) with
        | none => none
        | some j => match c.image.links[j]? with
          | none => none
          | some k' =>
            if k'.kind = 1 then ((c.bufs.getD j []).head?).map fun d => (d, none) else entryData c r fuel j

/-- Data at an exit end. -/
def exitData (c : Conn) (r : Rule) (l : Nat) : Option (Datum × Option Nat) :=
  match c.image.links[l]? with
  | none => none
  | some k => if k.kind = 1 then ((c.bufs.getD l []).head?).map fun d => (d, none) else entryData c r 65 l

/-- R331. -/
def ruleEnabled (c : Conn) (r : Rule) : Bool :=
  r.ports != 0
    && (List.range c.ports.length).all (fun k => !bit r.ports k || ((c.port? k).map fun p => !p.fifo.isEmpty).getD false)
    && (List.range c.image.links.length).all fun l =>
      match c.image.links[l]? with
      | none => true
      | some k =>
        let n := (c.bufs.getD l []).length
        if k.kind = 1 then (!bit r.entries l || n < k.n) && (!bit r.exits l || 0 < n)
        else if k.kind = 3 then
          !bit r.entries l || (match entryData c r 65 l with
            | some (d, _) => filterHolds k d == bit r.exits l
            | none => false)
        else true

/-- The age of a port's head. -/
def headAge (c : Conn) (k : Nat) : Option Nat := (c.port? k).bind fun p => (p.fifo.head?).map Offer.age

def rulePorts (c : Conn) (r : Rule) : List Nat := (List.range c.ports.length).filter (bit r.ports)

/-- R332: among the enabled rules, one with the oldest head offer; of those, the lowest. -/
def chooseRule (c : Conn) : Option Rule :=
  let on := c.image.rules.filter (ruleEnabled c)
  let ages := on.flatMap fun r => (rulePorts c r).filterMap (headAge c)
  match ages with
  | [] => none
  | a :: as =>
    let oldest := as.foldl min a
    on.find? fun r => (rulePorts c r).any fun k => headAge c k == some oldest

/-- Data for an end that the image leaves undetermined (log 5). -/
def freeDatum (fresh : Nat) : Datum :=
  let x := Config.freeWord fresh
  { bytes := (List.range 32).map fun i => Config.freeByte (fresh + i), len := x.toNat % 33, typ := x.extractLsb' 8 4 }

/-- Was a copy of an output port's data lost (R323, R334)? -/
def lostData (c : Conn) (r : Rule) (port : Nat) : Bool :=
  (List.range c.image.links.length).any fun l =>
    match c.image.links[l]? with
    | some k => (k.kind == 2 || k.kind == 3) && bit r.entries l && !bit r.exits l
        && ((entryData c r 65 l).map fun x => x.2 == some port).getD false
    | none => false

/-- What a GET at a port receives: the data at the exit end that fires there. -/
def delivered (c : Conn) (r : Rule) (port : Nat) : Option Datum :=
  match (List.range c.image.links.length).find? fun l =>
      bit r.exits l && ((c.image.links[l]?).map Link.dst == some port) with
  | some l => (exitData c r l).map Prod.fst
  | none => none

/-- Buffers after the lift. -/
def bufsAfter (c : Conn) (r : Rule) (fresh : Nat) : List (List Datum) :=
  (List.range c.bufs.length).map fun l =>
    let b := c.bufs.getD l []
    match c.image.links[l]? with
    | some k =>
      if k.kind = 1 then
        (if bit r.exits l then b.drop 1 else b)
          ++ (if bit r.entries l then [((entryData c r 65 l).map Prod.fst).getD (freeDatum fresh)] else [])
      else b
    | none => b

/-- One lift (R333). -/
def lift (s : State) (u : HUnit) (c : Conn) (r : Rule) : State :=
  let n := c.lifts + 1
  let ports := rulePorts c r
  let s1 := ports.foldl (fun s k => match c.port? k with
    | none => s
    | some p => match p.fifo with
      | [] => s
      | o :: _ =>
        if c.image.outs.getD k false then
          complete s c.ctx u.n { lc := o.lc, ch := p.ch, tag := o.tag, lift := n.toNat, port := k, len := o.data.len
                                 typ := o.data.typ.toNat, lost := lostData c r k, status := 0, data := [], carries := false }
        else
          let d := (delivered c r k).getD (freeDatum s.fresh)
          complete s c.ctx u.n { lc := o.lc, ch := p.ch, tag := o.tag, lift := n.toNat, port := k, len := d.len
                                 typ := d.typ.toNat, lost := false, status := 0, data := d.bytes.take d.len
                                 carries := true }) s
  let c' : Conn := { c with
    lifts := n
    bufs := bufsAfter c r s.fresh
    ports := (List.range c.ports.length).map fun k =>
      let p := c.ports.getD k { holder := none, ch := 14, fifo := [], taken := [] }
      if bit r.ports k then
        match p.fifo with
        | [] => p
        | o :: t => { p with fifo := t, taken := ((p.taken ++ [(o.lc, o.tag, false)]).reverse.take 16).reverse }
      else p }
  putConn { s1 with fresh := s1.fresh + 33 } u c'

/-- A decision of the connector in a slot of a unit: one lift, or nothing where no rule is enabled. -/
def decide1 (s : State) (unit slot : Nat) : Option State :=
  let u := s.hunit unit
  (getBy Conn.slot u.conns slot).bind fun c => (chooseRule c).map fun r => lift s u c r

/-- Lift until no rule is enabled (R338); every lift takes an offer, so the number of pending offers bounds it. -/
def liftAll (unit slot : Nat) : Nat → State → State
  | 0, s => s
  | n + 1, s => match decide1 s unit slot with
    | some s' => liftAll unit slot n s'
    | none => s

end Sys2Proof.Machine
end

