-- ==== Sys2Proof/Machine/Spec.lean ====
section
/-! DEFINITION. Class 15, ops 0 to 3: the specialiser's instructions, and the lookup of its cache (R361, R367-R370). -/

namespace Sys2Proof.Machine

/-! Version counts and keys (R361). -/

/-- The count of a unit in a table of version counts. -/
def versionIn (l : List (Nat × Nat × BitVec 32)) (ctx unit : Nat) : BitVec 32 :=
  ((l.find? fun v => v.1 == ctx && v.2.1 == unit).map fun v => v.2.2).getD 0
def versionOf (s : State) (ctx unit : Nat) : BitVec 32 := versionIn s.versions ctx unit

def setVersion (s : State) (ctx unit : Nat) (n : BitVec 32) : State :=
  { s with versions := (s.versions.filter fun v => !(v.1 == ctx && v.2.1 == unit)) ++ [(ctx, unit, n)] }

/-- The handler's uniform mask; a handler without directives has none set. -/
def maskOf (s : State) (ctx : Nat) (pc : W64) : List Bool :=
  ((s.masks.find? fun m => m.1 == ctx && m.2.1 == pc).map fun m => m.2.2).getD []

/-- The 256 bytes under the mask. -/
def maskedBlock (mask : List Bool) (block : List Byte) : List Byte :=
  (List.range 256).map fun i => if mask.getD i false then block.getD i 0 else 0

/-- The entry that a launch's key hits (R361). The device's revision and VLEN, two more fields of the key, are one value here. -/
def specFind (s : State) (die ctx : Nat) (pc : W64) (block : List Byte) : Option SpecEntry :=
  if h : die < 8 then
    s.spec[die].entries.find? fun e => e.ctx == ctx && e.det == s.det ctx && e.pc == pc && !e.stale
      && e.version == versionOf s ctx (pc.toNat / 65536) && e.block == maskedBlock (maskOf s ctx pc) block
  else none

def State.modSpec (s : State) (die : Nat) (g : SpecDie → SpecDie) : State :=
  if h : die < 8 then { s with spec := s.spec.set die (g s.spec[die]) } else s

/-- Add one to counter n of a die (R370). -/
def countSpec (s : State) (die n : Nat) : State :=
  s.modSpec die fun d => if h : n < 7 then { d with counters := d.counters.set n (d.counters[n] + 1) } else d

/-- Entries become stale (R361). -/
def staleWhere (s : State) (p : SpecEntry → Bool) : State :=
  { s with spec := s.spec.map fun d => { d with entries := mapIf p (fun e => { e with stale := true }) d.entries } }

/-! The instructions (R368-R370). -/

def execUnif (f : Fields) (s : State) : Res :=
  .next (run f (fun s =>
    .done (wres s f.dst (BitVec.ofNat 64 (ofBytes (sub s.bank.task.block f.imm.toNat (2 ^ f.mod.val)))))) s)

/-- SPSTOP: nothing in original code; in residual code on to the original slot of its record. -/
def execSpstop (f : Fields) (s : State) : Res :=
  .next (run f (fun s =>
    let o := originOf s s.here s.bank.pc
    if o.residual then .jump s o.pc else .done s) s)

/-- A unit's lines leave the instruction caches of a context's cores (R369); `pa` is where the unit lies. -/
def dropLines (s : State) (ctx pa : Nat) : State :=
  let grant := ((s.ctx? ctx).map Ctx.grant).getD []
  { s with cores := s.cores.map fun c =>
      if grant.contains c.phys then { c with icache := c.icache.filter fun l => !(pa ≤ l.1 && l.1 < pa + 0x10000) } else c }

/-- SPINV stalls until it is released; every die then has its entries of the unit stale. Its address faults report a load of 1 byte (log
24). -/
def execSpinv (f : Fields) (s : State) : Res :=
  .next (run f (fun s =>
    let c := s.here
    let a := (rd s f f.opa).toNat
    if 0x800000000000 ≤ a then .fault (addrFault a .load 1)
    else match translate s c a with
      | none => .fault (transFault a .load 1)
      | some (pa, _) =>
        if !c.released c.nextId then .stall
        else
          let unit := a / 65536
          let s := dropLines s c.cx.ctx (pa - a % 65536)
          let s := setVersion s c.cx.ctx unit (versionOf s c.cx.ctx unit + 1)
          let s := staleWhere s fun e => e.ctx == c.cx.ctx && e.units.contains unit
          .done ((List.range 8).foldl (fun s d => countSpec s d 6) s)) s)

/-- `.probe`'s answer (R370). -/
def probeWord (s : State) (die ctx : Nat) (pc : W64) (block : List Byte) : W64 :=
  match specFind s die ctx pc block with
  | none => 0
  | some e => BitVec.ofNat 64 (1 + boolNat e.refused * 2 + (if e.refused then 0 else e.lines % 4096) * 4)

def execSpqry (f : Fields) (s : State) : Res :=
  .next (run f (fun s =>
    let c := s.here
    let a := rd s f f.opa
    if f.mod = 1 then
      let d := dieOf c.phys
      if 6 < a.toNat then .fault (illegalInfo (encode (.spqry f)))
      else
        let v : W64 := if h : d < 8 then ((s.spec[d].counters.toList.getD a.toNat 0).setWidth 64) else 0
        .done (pushResult s (.spqry f) f (v.setWidth 128) 0)
    else
      let b := (rd s f f.opb).toNat
      if c.fenced then .stall
      else match access s c .load b 256 0 with
        | .error i => .fault i
        | .ok ps =>
          if netFull s c ps then .stall
          else .held s b <| .done (pushOp (noteAccess s b 256 true false) f
            { newOp s (.spqry f) with dst := regOf f.dst, addr := b, parts := ps, b := a.setWidth 128 })) s)

end Sys2Proof.Machine
end

