-- ==== Sys2Proof/Machine/Collective.lean ====
section
/-! DEFINITION. Class 15, ops 8 to 13: the collective instructions at issue, the keepers of groups, and the data movement of
an instance (R116, R376-R386). -/

namespace Sys2Proof.Machine

/-! Issue (R377, R378). -/

/-- The bytes that the core reads at issue no older than its older stores (R44): none where one is still to apply, or an older acquire
still to complete (R52). -/
def readAtIssue (s : State) (ps : List Part) : Option (List PByte) :=
  let c := s.here
  if !c.acquired c.nextId then none
  else ps.foldl (fun acc p => acc.bind fun l =>
    match forward s c (s.det c.cx.ctx) c.nextId false ps p with
    | .memory => some (l ++ readPart s c.phys c.nextId p)
    | .bytes b => some (l ++ b)
    | .wait => none) (some [])

/-- The descriptor's fields, where it keeps its layout (R378). -/
def collDesc (bs : List Byte) : Option (Nat × Nat × Nat) :=
  let w0 := imgWord bs 0
  let w1 := imgWord bs 8
  let w2 := imgWord bs 16
  let w3 := imgWord bs 24
  if w3 == 0 && bits w2 25 39 == 0 && bits w2 0 25 ≤ 16777216 && bits w1 48 16 == 0 && bits w0 48 16 == 0 then
    some (bits w2 0 25, bits w0 0 48, bits w1 0 48) else none

/-- Send a request to the group's keeper. -/
def collSend (s : State) (f : Fields) (op : COp) (g : Nat) (desc : Option (Nat × Nat × Nat)) : Eff :=
  sendOut (traceChan s (f.imm.toNat % 16))
    (.coll { ctx := s.here.cx.ctx, lc := s.here.cx.lc, group := g, op := op, typ := f.typ, fn := f.mod.val
             ch := BitVec.ofNat 4 (f.imm.toNat % 16), tag := BitVec.ofNat 16 (f.imm.toNat / 65536), desc := desc })

/-- JOIN, LEAVE and CBAR: a group number and no descriptor. -/
def collPlain (i : Instr) (f : Fields) (op : COp) (lo : Nat) (s : State) : State :=
  run f (fun s =>
    let g := (rd s f f.opa).toNat
    if g < lo || 4095 < g then .fault (illegalInfo (encode i)) else collSend s f op g none) s

/-- CGATH, CREDS and CXCH: the descriptor is read at issue. -/
def collData (i : Instr) (f : Fields) (op : COp) (s : State) : State :=
  run f (fun s =>
    let g := (rd s f f.opa).toNat
    let a := (rd s f f.opb).toNat
    if 4095 < g then .fault (illegalInfo (encode i))
    else if a % 32 != 0 || !ownRange a 32 then .fault (addrFault a .load 32)
    else if s.here.fenced then .stall
    else match access s s.here .load a 32 0 with
      | .error x => .fault x
      | .ok ps => match readAtIssue s ps with
        | none => .stall
        | some bs => if netFull s s.here ps then .stall else collSend (tookParts s s.cur ps bs) f op g (collDesc (consume bs))) s

def execJoin (f : Fields) (s : State) : Res := .next (collPlain (.join f) f .join 1 s)
def execLeave (f : Fields) (s : State) : Res := .next (collPlain (.leave f) f .leave 1 s)
def execCbar (f : Fields) (s : State) : Res := .next (collPlain (.cbar f) f .cbar 0 s)
def execCgath (f : Fields) (s : State) : Res := .next (collData (.cgath f) f .cgath s)
def execCreds (f : Fields) (s : State) : Res := .next (collData (.creds f) f .creds s)
def execCxch (f : Fields) (s : State) : Res := .next (collData (.cxch f) f .cxch s)

/-! Completions (R382, R383). -/

def COp.code : COp → Nat
  | .join => 0 | .leave => 1 | .cbar => 2 | .cgath => 3 | .creds => 4 | .cxch => 5

/-- The cluster of a group's keeper (R376). -/
def keeperAt (s : State) (ctx g : Nat) : Option Nat := (s.physOf ctx (g % max 1 (s.nc ctx))).map clusterOf
def keeperCluster (s : State) (ctx g : Nat) : Nat := (keeperAt s ctx g).getD 0

def collDone (s : State) (r : CReq) (rank count events status inst addr : Nat) : State :=
  let s1 : W64 := BitVec.ofNat 64 (rank % 65536 * 2 ^ 48 + count % 65536 * 2 ^ 32 + r.group % 4096 * 2 ^ 20 + r.op.code * 2 ^ 16
    + events % 32 * 2 ^ 8 + status % 256)
  let m := mkMsg 7 24 r.ch r.tag 0xFFFE#16 (payload s1 (BitVec.ofNat 64 inst) (BitVec.ofNat 64 addr))
  s.post { ctx := r.ctx, dst := r.lc, src := .coll (keeperCluster s r.ctx r.group), held := { msg := m, launch := none } }

/-- A request that has no instance: the manual gives no rank, count and number for it, so they are free (log 5). -/
def collRefused (s : State) (r : CReq) (status : Nat) : State :=
  let x := (Config.freeWord s.fresh).toNat
  collDone s.drawn r (x % 65536) (x / 65536 % 65536) 0 status (x / 2 ^ 32) 0

/-! Groups (R376, R379, R380). -/

def isGroup (ctx g : Nat) (x : Group) : Bool := x.ctx == ctx && x.g == g

/-- Group 0 is the whole grant; another exists from its first JOIN. -/
def State.group? (s : State) (ctx g : Nat) : Option Group :=
  match s.groups.find? (isGroup ctx g) with
  | some x => some x
  | none =>
    if g = 0 then
      some { ctx := ctx, g := 0, members := (List.range (s.nc ctx)).map fun l => (l, 0, 0), opened := 0, insts := []
             timedOut := [], waiting := [] }
    else none

def emptyGroup (ctx g : Nat) : Group :=
  { ctx := ctx, g := g, members := [], opened := 0, insts := [], timedOut := [], waiting := [], base := 0 }

def State.group (s : State) (ctx g : Nat) : Group := (s.group? ctx g).getD (emptyGroup ctx g)

/-- A group lasts until its last member leaves (R376); what waits at its keeper, or is open, is kept. -/
def State.setGroup (s : State) (x : Group) : State :=
  let rest := s.groups.filter fun y => !isGroup x.ctx x.g y
  if x.members.isEmpty && x.waiting.isEmpty && x.insts.isEmpty then { s with groups := rest } else { s with groups := rest ++ [x] }

def Group.member? (x : Group) (lc : Nat) : Option (Nat × Nat × Nat) := x.members.find? fun m => m.1 == lc
/-- A rank: members below it (R116). -/
def rankIn (l : List Nat) (lc : Nat) : Nat := (l.filter fun m => m < lc).length
def Group.lcs (x : Group) : List Nat := (nsort (x.members.map fun m => m.1))
where nsort (l : List Nat) : List Nat := l.foldl nins []

/-- One more request of a member is counted. -/
def bumpMember (x : Group) (lc : Nat) : Group :=
  { x with members := mapIf (fun m => m.1 == lc) (fun m => (m.1, m.2.1, m.2.2 + 1)) x.members }

/-- The clock that an instance's limit is measured by: cc, or the context's boundaries (R385). -/
def collClock (s : State) (ctx : Nat) : Nat :=
  match s.ctx? ctx with
  | some x => if x.det then x.bounds else s.cc
  | none => s.cc

/-- A collective request served at its keeper: joins an open instance, opens one, waits, or is refused. `early` tells one
that has just arrived, behind what waits. -/
def serveColl (s : State) (x : Group) (r : CReq) (early : Bool) : State :=
  let queued := x.waiting.any fun w => w.lc == r.lc && w.op == .join
  match x.member? r.lc with
  | none =>
    if early && queued then s.setGroup { x with waiting := x.waiting ++ [r] } else collRefused (s.setGroup x) r 3
  | some (_, b, k) =>
    let n := b + k + 1
    match x.timedOut.find? fun t => t.1 == n with
    | some (_, mem) => collDone (s.setGroup (bumpMember x r.lc)) r (rankIn mem r.lc) mem.length 0 4 (n - x.base) 0
    | none =>
      if x.insts.any fun i => i.n == n then
        s.setGroup { bumpMember x r.lc with insts := mapIf (fun i => i.n == n) (fun i => { i with reqs := i.reqs ++ [r] }) x.insts }
      else if early && !x.waiting.isEmpty then s.setGroup { x with waiting := x.waiting ++ [r] }
      else
        let i : Inst := { n := n, base := x.base, members := x.lcs, reqs := [r], since := collClock s x.ctx, moved := none, bad := none }
        s.setGroup { bumpMember x r.lc with opened := max x.opened n, insts := x.insts ++ [i] }

def COp.membership : COp → Bool
  | .join | .leave => true
  | _ => false

/-- Groups of a context besides group 0 (R116). -/
def groupCount (s : State) (ctx : Nat) : Nat := (s.groups.filter fun y => y.ctx == ctx && y.g != 0 && !y.members.isEmpty).length

/-- A JOIN or LEAVE takes effect (R379). -/
def changeMember (s : State) (x : Group) (r : CReq) : State :=
  let isMem := (x.member? r.lc).isSome
  match r.op with
  | .join =>
    if isMem then collDone (s.setGroup x) r (rankIn x.lcs r.lc) x.members.length 0 1 0 0
    else if x.members.isEmpty && 1024 ≤ groupCount s r.ctx then collDone (s.setGroup x) r 0 0 0 2 0 0
    else
      let y := { x with members := x.members ++ [(r.lc, x.opened, 0)] }
      collDone (s.setGroup y) r (rankIn y.lcs r.lc) y.members.length 0 0 0 0
  | _ =>
    if !isMem then collDone (s.setGroup x) r 0 x.members.length 0 1 0 0
    else
      let y := { x with members := x.members.filter fun m => m.1 != r.lc }
      -- a group without members is no more: one that is joined again counts from 1
      let y := if y.members.isEmpty then { emptyGroup x.ctx x.g with
          insts := y.insts, waiting := y.waiting, base := if y.insts.isEmpty then 0 else x.opened
          opened := if y.insts.isEmpty then 0 else x.opened } else y
      collDone (s.setGroup y) r 0 y.members.length 0 0 0 0

/-- A member's next request belongs to an open instance, and does not wait (R380). -/
def Group.openFor (x : Group) (r : CReq) : Bool :=
  match x.member? r.lc with
  | some (_, b, k) => x.insts.any fun i => i.n == b + k + 1
  | none => false

/-- Serve, in their order, what waited for a membership change: everything up to the next one, and behind it what belongs to an open
instance. `kept` still waits. -/
def drainList (ctx g : Nat) : List CReq → List CReq → Bool → State → State
  | [], kept, _, s => let x := s.group ctx g; s.setGroup { x with waiting := kept }
  | r :: t, kept, stop, s =>
    if r.op.membership then drainList ctx g t (kept ++ [r]) true s
    else
      let x := { s.group ctx g with waiting := [] }
      if stop && !x.openFor r then drainList ctx g t (kept ++ [r]) true s
      else drainList ctx g t kept stop (serveColl s x r false)

def drainWaiting (s : State) (ctx g : Nat) : State :=
  let x := s.group ctx g
  drainList ctx g x.waiting [] false s

/-- Every member of an instance has requested it: it has completed (R380). -/
def Inst.complete (i : Inst) : Bool := i.members.all fun l => i.reqs.any fun r => r.lc == l

/-- The group's next membership change, once every open instance has completed or timed out (R380). -/
def membershipStep (s : State) (ctx g : Nat) : Option State :=
  let x := s.group ctx g
  match x.waiting with
  | r :: t =>
    if r.op.membership && x.insts.all Inst.complete then
      some (drainWaiting (changeMember s { x with waiting := t } r) ctx g)
    else none
  | [] => none

/-- A request arrives at its keeper. -/
def collArrive (s : State) (r : CReq) : State :=
  let x := s.group r.ctx r.group
  if r.op.membership then s.setGroup { x with waiting := x.waiting ++ [r] } else serveColl s x r true

/-- A request goes to its group's keeper, over a link where another package has it (R376, R433). -/
def collToKeeper (s : State) (r : CReq) : State :=
  if (keeperAt s r.ctx r.group).isNone then cross s (.coll r) else collArrive s r

/-! Data movement (R381, R383). -/

/-- The core as a context sees it, running or switched out. -/
def coreAs (c : Core) (ctx : Nat) : Core :=
  if c.cx.ctx = ctx then c
  else match c.saved.find? fun x => x.ctx == ctx with
    | some x => { c with cx := x, frames := [] }
    | none => c

/-- The key of a local byte of a context that is switched out lies in its save area (R169, R171). -/
def keyAs (s : State) (ctx : Nat) (key : Nat) : Nat :=
  if isLocalKey key then
    let p := localOwner key
    let c := s.core p
    if c.cx.ctx = ctx || !(c.saved.any fun x => x.ctx == ctx) then key
    else savePa s ctx p ((key - peerBase) % 0x20000)
  else key

/-- Keys of the bytes of members on other packages, which no memory of this package has. -/
def farKey (lc a : Nat) : Nat := (lc + 1) * 2 ^ 64 + a % 2 ^ 64
def isFar (key : Nat) : Bool := 2 ^ 64 ≤ key

/-- The parts of a member's access before the first that fails its check as its core's load or store, and the byte that fails
(R193). The package that holds the address checks it (R433): what another one finds is open (log 16). -/
def memberParts (s : State) (ctx : Nat) (i : Inst) (lc : Nat) (k : AK) (a n : Nat) : List Part × Option Nat :=
  match s.physOf ctx lc with
  | none =>
    let good := min n (Config.remoteGood i.since i.n (farKey lc a) n)
    ((partsOf (a % 2 ^ 64) 0 good).map fun p => { p with key := farKey lc p.va }, if good < n then some ((a + good) % 2 ^ 64) else none)
  | some p =>
    let (ps, bad) := checkedParts s (coreAs (s.core p) ctx) k (a % 2 ^ 64) n 0
    (ps, bad.map fun i => i.s5.toNat)

/-- The moves of an instance, as (source rank and address, destination rank and address) of n bytes, in the order of
R381. -/
def collMoves (op : COp) (n : Nat) (src dst : List Nat) : List ((Nat × Nat) × (Nat × Nat)) :=
  (List.range src.length).flatMap fun k => (List.range dst.length).map fun r =>
    ((k, src.getD k 0 + (if op = .cxch then r * n else 0)), (r, dst.getD r 0 + k * n))

/-- A part of a member's bytes as it stands in memory. -/
def memberBytes (s : State) (ctx : Nat) (i : Inst) (p : Part) : List PByte :=
  if isFar p.key then (partKeys p).map fun k =>
    let x := Config.remoteByte i.since i.n k
    { b := x.setWidth 8, p := x.getLsbD 8 }
  else readPart s (localOwner p.key) 0 { p with key := keyAs s ctx p.key }

/-- A member's bytes: those read ahead, and the others as they are now (R384). -/
def readMember (s : State) (ctx : Nat) (i : Inst) (ps : List Part) : List PByte :=
  ps.flatMap fun p => ((partKeys p).zip (memberBytes s ctx i p)).map fun (k, b) =>
    ((i.early.find? fun e => e.1 == k).map Prod.snd).getD b

/-- An access for a member is one of its core: another core's frame of the block loses it (R188). -/
def touchMember (s : State) (ctx lc : Nat) (p : Part) (write : Bool := false) : State :=
  match s.physOf ctx lc with
  | some phys => if keyAs s ctx p.key = p.key then touchStash s phys p write else s
  | none => s

/-- Words of a context's switched-out local memory go full (R169, R183). -/
def fillSaved (s : State) (ctx key len : Nat) : State :=
  let words := (wordsOf key len).map fun w => (w * 8 - peerBase) % 0x20000 / 8
  s.modCore (localOwner key) fun c =>
    { c with saved := mapIf (fun x => x.ctx == ctx) (fun x => { x with savedFull := words.foldl nins x.savedFull }) c.saved }

/-- Write a part of a member's destination, of the block that `store` names; through a mapped frame it fills the frame and makes it
dirty (R187, R188). Words of its local memory go full, those of a mapped frame too (R183, R187). -/
def writeMember (s : State) (ctx lc : Nat) (p : Part) (bs : List PByte) (store : List Nat) : State :=
  if isFar p.key then s
  else
    let k := keyAs s ctx p.key
    let s := engApply (countDrop (touchMember s ctx lc p true) k store) (BitVec.ofNat 16 lc) k bs
    match ownOffset p.va, s.physOf ctx lc with
    | some o, some phys => if isLocalKey p.key then (if k = p.key then s else fillSaved s ctx p.key p.len) else setFull s (localKey phys o) p.len
    | _, _ => if k = p.key then s else fillSaved s ctx p.key p.len

/-- A write of the movement: destination rank, its parts, the bytes of the run. -/
structure Move where
  rank : Nat
  parts : List Part
  bytes : List PByte

/-- What an instance's reads and checks give: the parts that it reads, the writes to make, and the first failing access with its
member's rank. Nothing past it is performed (R193). -/
structure Moves where
  reads : List Part
  writes : List Move
  events : Nat → Nat → Events
  fail : Option (Nat × Nat)

def Moves.none : Moves := { reads := [], writes := [], events := fun _ _ => 0#5, fail := .none }

def gatherMoves (s : State) (ctx : Nat) (i : Inst) (op : COp) (n : Nat) (src dst : List Nat) : Moves :=
  (collMoves op n src dst).foldl (fun m ((k, sa), (r, da)) =>
    if m.fail.isSome then m
    else match memberParts s ctx i (i.members.getD k 0) .load sa n with
      | (ps, some a) => { m with reads := m.reads ++ ps, fail := some (k, a) }
      | (ps, .none) =>
        let (qs, bad) := memberParts s ctx i (i.members.getD r 0) .store da n
        { m with reads := m.reads ++ ps, writes := m.writes ++ [{ rank := r, parts := qs, bytes := readMember s ctx i ps }]
                 fail := bad.map fun a => (r, a) }) Moves.none

/-- One step of a reduction (R100, R381). -/
def redStep (t : Typ) (fn a b : Nat) : FRes :=
  if t.isFp then
    (match fn with
     | 0 => fadd (fmtOf t) .rne a b
     | 1 => fminmax (fmtOf t) false a b
     | _ => fminmax (fmtOf t) true a b)
  else
    (match fn with
     | 0 => (narrow t false (toSigned (8 * t.size) a + toSigned (8 * t.size) b), 0#5)
     | 1 => (if toSigned (8 * t.size) a ≤ toSigned (8 * t.size) b then a else b, 0#5)
     | _ => (if toSigned (8 * t.size) a ≤ toSigned (8 * t.size) b then b else a, 0#5))

/-- One element: sources in rank order. A poisoned one leaves a free value that is poisoned (log 5). -/
def redElem (t : Typ) (fn fresh : Nat) (xs : List (List PByte)) : List PByte × Events :=
  match xs with
  | [] => ([], 0#5)
  | x :: rest =>
    if xs.any anyPois then
      ((toBytes t.size (Config.freeWord fresh).toNat).map fun b => { b := b, p := true }, 0#5)
    else
      let (v, ev) := rest.foldl (fun (v, ev) y => let (z, e) := redStep t fn v (ofBytes (y.map PByte.b)); (z, ev ||| e))
        (ofBytes (x.map PByte.b), 0#5)
      (clean (toBytes t.size v), ev)

/-- Bytes of parts. -/
def partBytes (ps : List Part) : Nat := ps.foldl (fun n p => n + p.len) 0

/-- One destination of a reduction: the elements before the first that cannot be read. -/
def reduceBlock (s : State) (ctx : Nat) (i : Inst) (t : Typ) (fn n r : Nat) (src : List Nat) (da : Nat) (m : Moves) : Moves :=
  let w := t.size
  let reads := (List.range src.length).map fun k =>
    (k, memberParts s ctx i (i.members.getD k 0) .load (src.getD k 0 + r * n * w) (n * w))
  let good (ps : List Part) : Nat := partBytes ps / w
  let whole := reads.foldl (fun l (_, ps, _) => min l (good ps)) n
  let bad := (reads.find? fun (_, ps, b) => b.isSome && good ps == whole).bind fun (k, _, b) => b.map fun a => (k, a)
  let (qs, badW) := memberParts s ctx i (i.members.getD r 0) .store da (whole * w)
  let data := reads.map fun (_, ps, _) => readMember s ctx i ps
  let els := (List.range whole).map fun e => redElem t fn (s.fresh + r * n + e) (data.map fun d => sub d (e * w) w)
  { reads := m.reads ++ reads.flatMap fun x => x.2.1
    writes := m.writes ++ [{ rank := r, parts := qs, bytes := els.flatMap Prod.fst }]
    events := fun rank off => if rank = r then ((els[off / w]?).map Prod.snd).getD 0#5 else m.events rank off
    fail := match badW with
      | some a => some (r, a)
      | .none => bad }

def reduceMoves (s : State) (ctx : Nat) (i : Inst) (t : Typ) (fn n : Nat) (src dst : List Nat) : Moves :=
  (List.range i.members.length).foldl (fun m r =>
    if m.fail.isSome then m else reduceBlock s ctx i t fn n r src (dst.getD r 0) m) Moves.none

/-- Requests in rank order. -/
def rankReqs (i : Inst) : List CReq := i.members.filterMap fun l => i.reqs.find? fun r => r.lc == l

/-- The members agree and every descriptor is good (R378, R380). -/
def Inst.agrees (i : Inst) : Bool :=
  match rankReqs i with
  | [] => false
  | r :: rs =>
    let n := r.desc.map fun d => d.1
    rs.all (fun q => q.op == r.op && q.typ == r.typ && q.fn == r.fn && (q.desc.map fun d => d.1) == n)
      && (r.op == .cbar || (r :: rs).all fun q => q.desc.isSome)

/-- What an instance reads and writes, in ascending rank of the destination (R385). -/
def instMoves (s : State) (x : Group) (i : Inst) (r : CReq) : Moves :=
  let rs := rankReqs i
  let n := (r.desc.map fun d => d.1).getD 0
  let src := rs.map fun q => (q.desc.map fun d => d.2.1).getD 0
  let dst := rs.map fun q => (q.desc.map fun d => d.2.2).getD 0
  let m := if r.op = .creds then reduceMoves s x.ctx i r.typ r.fn n src dst else gatherMoves s x.ctx i r.op n src dst
  { m with writes := sortBy Move.rank m.writes }

/-- The parts to write, each with its bytes. -/
def Moves.parts (m : Moves) : List (Nat × Part × List PByte) :=
  m.writes.flatMap fun w => w.parts.map fun p => (w.rank, p, sub w.bytes p.off p.len)

/-- Bytes that another write of the instance, or a source, covers end undefined (R381): they are free (log 5). -/
def overlapFree (fresh : Nat) (m : Moves) (rank : Nat) (p : Part) (bs : List PByte) : List PByte :=
  let mine := m.parts.filter fun (r, q, _) => r == rank && q.va == p.va
  let others := m.reads ++ (m.parts.filter fun (r, q, _) => !(r == rank && q.va == p.va)).map fun x => x.2.1
  ((partKeys p).zip bs).map fun (k, b) =>
    if mine.length != 1 || others.any fun q => q.key ≤ k && k < q.key + q.len then { b with b := Config.freeByte (fresh + k) } else b

/-- The first request stands for all: their operation, type and counts agree. -/
def Inst.head (i : Inst) : CReq :=
  (rankReqs i).headD { ctx := 0, lc := 0, group := 0, op := .cbar, typ := .untyped, fn := 0, ch := 0, tag := 0, desc := none }

def modInst (s : State) (x : Group) (n : Nat) (g : Inst → Inst) : State :=
  s.setGroup { x with insts := mapIf (fun j => j.n == n) g x.insts }

/-- Source parts of the members whose request has arrived, in rank order, with their members (R384). -/
def sourceParts (s : State) (x : Group) (i : Inst) : List (Nat × Part) :=
  (rankReqs i).flatMap fun r => match r.desc with
    | some (n, src, _) =>
      let len := match r.op with
        | .cgath => n
        | .cxch => i.members.length * n
        | .creds => i.members.length * n * r.typ.size
        | _ => 0
      (memberParts s x.ctx i r.lc .load src len).1.map fun p => (r.lc, p)
    | none => []

/-- Members of other packages, whose data no link that is up can carry (R433): the instance then moves nothing more, and times out if no
link comes up (R380). -/
def Inst.cutOff (s : State) (ctx : Nat) (i : Inst) : Bool := s.pkg.rhoUp == 0 && i.members.any fun lc => (s.physOf ctx lc).isNone

/-- Write the k-th of the destination parts that are still to be written; with the last, the data has moved (R381, R383). -/
def moveWrite (s : State) (x : Group) (i : Inst) (k : Nat) : State :=
  let done (s : State) (st : Nat) (ev : Events) (bad : Option (Nat × Nat)) : State :=
    modInst s x i.n fun j => { j with moved := some (BitVec.ofNat 8 st, ev), bad := bad }
  let r := i.head
  if !i.agrees then done s 6 0#5 none
  else if r.op = .cbar then done s 0 0#5 none
  else if i.cutOff s x.ctx then s
  else
    let m := instMoves s x i r
    let todo := m.parts.filter fun (r, p, _) => !i.wrote.contains (r, p.va)
    let finish (s : State) (ev : Events) : State := match m.fail with
      | some b => done s 5 0#5 (some b)
      | none => done s 0 ev none
    match todo[k]? with
    | none => if todo.isEmpty then finish s i.events else s
    | some (rank, p, bs) =>
      let s := (sourceParts s x i).foldl (fun s (lc, q) => touchMember s x.ctx lc q) s
      let s := writeMember s x.ctx (i.members.getD rank 0) p (overlapFree s.fresh m rank p bs)
        [2, x.ctx, x.g, i.n, rank, (p.va + 2 ^ 64 - p.off) % 2 ^ 64]
      let s := { s with fresh := s.fresh + 2 ^ 50 }
      let ev := (List.range p.len).foldl (fun e o => e ||| m.events rank (p.off + o)) i.events
      if todo.length = 1 then finish s ev
      else modInst s x i.n fun j => { j with wrote := (rank, p.va) :: j.wrote, events := ev }

/-- Read the k-th source part ahead of the writes that use it (R384). -/
def moveRead (s : State) (x : Group) (i : Inst) (k : Nat) : State :=
  match (sourceParts s x i)[k]? with
  | none => s
  | some (lc, p) =>
    if isFar p.key && i.cutOff s x.ctx then s else
    let bs := memberBytes s x.ctx i p
    modInst (touchMember s x.ctx lc p) x i.n fun j => { j with early := (partKeys p).zip bs ++ j.early.filter fun e => !(partKeys p).contains e.1 }

/-- A whole instance at a boundary (R385). -/
def moveAllParts : Nat → State → Nat → Nat → Nat → State
  | 0, s, _, _, _ => s
  | fuel + 1, s, ctx, g, n =>
    match s.group? ctx g with
    | none => s
    | some x => match x.insts.find? fun j => j.n == n with
      | none => s
      | some j => if j.moved.isSome then s else moveAllParts fuel (moveWrite s x j 0) ctx g n

/-- Move an instance's data, once every member has requested it. -/
def moveData (s : State) (x : Group) (i : Inst) : State :=
  moveAllParts ((instMoves s x i i.head).parts.length + 1) s x.ctx x.g i.n

/-- Every member's completion, and the end of the instance (R382). -/
def completeInst (s : State) (x : Group) (i : Inst) (st : BitVec 8) (ev : Events) : State :=
  let s := (rankReqs i).foldl (fun s r =>
    let rank := rankIn i.members r.lc
    let addr := match i.bad with
      | some (k, a) => if k = rank then a else 0
      | none => 0
    collDone s r rank i.members.length (if r.op = .creds then ev.toNat else 0) st.toNat (i.n - i.base) addr) s
  s.setGroup { x with insts := x.insts.filter fun j => j.n != i.n }

/-- An instance that has not completed in time (R380). -/
def timeoutInst (s : State) (x : Group) (i : Inst) : State :=
  let s := completeInst s x i 4#8 0#5
  let y := s.group x.ctx x.g
  s.setGroup { (if y.members.isEmpty then { x with insts := x.insts.filter fun j => j.n != i.n } else y) with
    timedOut := x.timedOut ++ [(i.n, i.members)] }

end Sys2Proof.Machine
end

