-- ==== Sys2Proof/Machine/Control.lean ====
section
/-! DEFINITION. Class 3, the control instructions (R62, R63, R136). A transfer to an invalid PC or to an address that cannot
be fetched faults at the target, when the next instruction of the task would issue. -/

namespace Sys2Proof.Machine

/-- The target of the relative form. -/
def branchTo (s : State) (f : Fields) : W64 := relTarget s.bank.pc (toSigned 32 f.imm.toNat)

def execBr (f : Fields) (s : State) : Res := .next (run f (fun s => .jump s (branchTo s f)) s)
def execBrx (f : Fields) (s : State) : Res := .next (run f (fun s => .jump s (rd s f f.opa)) s)

/-- CALL: the source is read before d is written; with stop, d is unchanged. -/
def execCall (f : Fields) (s : State) : Res :=
  .next (run f (fun s =>
    if f.stop then .done s
    else
      let target := if f.mod = 0 then branchTo s f else rd s f f.opa
      .jump (s.modBank fun b => b.wd f.dst (succPc b.pc)) target) s)
def execRet (f : Fields) (s : State) : Res := .next (run f (fun s => .jump s (rd s f f.opa)) s)
def execLoop (f : Fields) (s : State) : Res :=
  .next (run f (fun s =>
    let a := rd s f f.opa
    if a.toNat ≤ 1 then .done (s.modBank fun b => b.wd f.dst 0)
    else .jump (s.modBank fun b => b.wd f.dst (a - 1)) (branchTo s f)) s)

/-- END: the task ends as with stop; `.drain` waits for every command issued to a queued engine. -/
def execEndTask (f : Fields) (s : State) : Res :=
  .next (run f (fun s =>
    if f.mod = 1 && engs.any (fun e => !((s.here.eng e).cmds.isEmpty)) then .stall else .last s) s)

end Sys2Proof.Machine
end

