-- ==== Sys2Proof/Machine/FrontEnd.lean ====
section
/-! DEFINITION. The command front end: user queues, packet fetchers, and the dispatch of packets (R140, R394-R413, R418). -/

namespace Sys2Proof.Machine

/-! Accesses of the front end, in a queue's context (R401, R411). It holds no region and has no local memory. -/

def feCore (ctx : Nat) : Core := { Core.reset 37376 with cx := CtxCore.reset ctx 0xFFFF }

/-- The parts of an access, or the address that faults. -/
def feAccess (s : State) (ctx : Nat) (k : AK) (a len : Nat) : Except Nat (List Part) :=
  if a < 2 ^ 48 && rangeOf a == .own then .error a
  else match access s (feCore ctx) k a len 0 with
    | .error i => .error i.s5.toNat
    | .ok ps => .ok ps

/-- Bytes of parts as a consumer reads them, with its poison events counted (R439); a stash gives the block back first (R188). -/
def feBytes (s : State) (ps : List Part) : State × List Byte :=
  ps.foldl (fun (s, l) p =>
    let b := readPart s 37376 0 p
    (countPois (recallKey s p.key) p.key (boolNat (anyPois b)), l ++ consume b)) (s, [])

def feLoad (s : State) (ctx a len : Nat) : Except Nat (State × List Byte) :=
  match feAccess s ctx .load a len with
  | .error x => .error x
  | .ok ps => .ok (feBytes s ps)

/-- How far a read of several parts has come. -/
inductive FeRead
  | fault (a : Nat)
  | more (s : State)
  | done (s : State) (bs : List Byte)

/-- The bytes of parts from those read, by offset. -/
def joinParts (ps : List Part) (got : List (Nat × List Byte)) : List Byte :=
  ps.flatMap fun p => ((got.find? fun g => g.1 == p.off).map Prod.snd).getD []

/-- One part of a read by queue n, or its bytes once all are read (R42): which part is next is free. A deterministic context's
queues read at boundaries, where nothing comes between. -/
def readOn (s : State) (n : Nat) (key : List Nat) (ps : List Part) : FeRead :=
  let q := s.queue n
  if s.det q.ctx then let (s, bs) := feBytes s ps; .done s bs
  else
    let got := match q.part with
      | some (k, l) => if k = key then l else []
      | none => []
    let left := ps.filter fun p => !got.any fun g => g.1 == p.off
    match left[(Config.freeWord s.fresh).toNat % left.length]? with
    | none => .done (s.setQueue { q with part := none }) (joinParts ps got)
    | some p =>
      let (s, b) := feBytes { s with fresh := s.fresh + 1 } [p]
      let got := (p.off, b) :: got
      if left.length = 1 then .done (s.setQueue { s.queue n with part := none }) (joinParts ps got)
      else .more (s.setQueue { s.queue n with part := some (key, got) })

/-- A checked read of queue n (R401, R411). -/
def feRead (s : State) (n : Nat) (key : List Nat) (a len : Nat) : FeRead :=
  match feAccess s (s.queue n).ctx .load a len with
  | .error x => .fault x
  | .ok ps => readOn s n key ps

/-- A write of parts; one to a host that is not there is counted (R432). -/
def feWrite (s : State) (ps : List Part) (bs : List Byte) (store : List Nat := []) : State :=
  let s := match ps with
    | p :: _ => countDrop s p.key store
    | [] => s
  ps.foldl (fun s p => applyPart (recallKey s p.key) 0xFFFF#16 p.key (sub bs p.off p.len)) s

/-- Atomic add to an n64 word (R403, R407). -/
def feAdd (s : State) (ctx a : Nat) (v : Nat) : Except Nat State :=
  match feAccess s ctx .atomic a 8 with
  | .error x => .error x
  | .ok ps =>
    let (s, old) := feBytes s ps
    .ok (feWrite s ps (toBytes 8 (ofBytes old + v)))

/-! Packets (R397-R407). -/

/-- A field of n bytes at an offset of a packet; the body starts at byte 8. -/
def pfield (d : List Byte) (off n : Nat) : Nat := ofBytes (sub d off n)
def bodyField (d : List Byte) (off n : Nat) : Nat := pfield d (8 + off) n

/-- CRC-16/CCITT-FALSE (R397). -/
def crcBit (c : BitVec 16) : BitVec 16 := if c.getLsbD 15 then (c <<< 1) ^^^ 0x1021#16 else c <<< 1
def crcByte (c : BitVec 16) (b : Byte) : BitVec 16 :=
  (List.range 8).foldl (fun c _ => crcBit c) (c ^^^ (b.setWidth 16 <<< 8))
def crc16 (bs : List Byte) : BitVec 16 := bs.foldl crcByte 0xFFFF#16

/-- A packet with a body, as QSEND writes it (R140). -/
def packetOf (typ : BitVec 8) (seq : Nat) (body : List Byte) : List Byte :=
  let b := body ++ List.replicate (52 - body.length) 0
  toBytes 8 (typ.toNat + seq % 65536 * 65536) ++ b ++ toBytes 4 (seq % 65536 + (crc16 b).toNat * 65536)

/-- The validity of R398. -/
def packetValid (d : List Byte) (expected : Nat) : Bool :=
  pfield d 2 2 == expected % 65536 && pfield d 60 2 == expected % 65536 && pfield d 62 2 == (crc16 (sub d 8 52)).toNat

def zeroFrom (d : List Byte) (off : Nat) : Bool := (sub d (8 + off) (52 - off)).all (· == 0#8)

/-- A field outside its values, or a set reserved bit (R399-R407), in a context of nc cores. -/
def fieldsBad (nc : Nat) (d : List Byte) : Bool :=
  let h := pfield d 0 8
  let w0 := bodyField d 0 8
  let len := w0 / 2 ^ 52 % 32
  let launch := w0 / 2 ^ 48 % 16 == 15 || w0 / 2 ^ 57 != 0 || bodyField d 16 8 % 8 != 0 || bodyField d 24 8 % 8 != 0
  h / 2 ^ 40 != 0 || h / 256 % 256 != 0 || h / 2 ^ 33 % 128 != 0
    || match h % 256 with
      | 0 | 8 | 9 => false
      | 1 => launch || !(len == 0 || len == 8 || len == 16) || bodyField d 48 4 != 0
      | 2 => launch || len != 16 || bodyField d 38 2 != 0
      | 3 => w0 % 64 != 0 || bodyField d 8 4 == 0 || 65535 < bodyField d 8 4 || !zeroFrom d 12
      | 4 => w0 % 8 != 0 || 5 < bodyField d 24 1 || !zeroFrom d 26
      | 5 => bodyField d 0 1 == 0 || 16 < bodyField d 0 1 || bodyField d 1 1 != 0 || !zeroFrom d 4
      | 6 => w0 % 8 != 0 || 5 < bodyField d 24 1 || !zeroFrom d 25
      | 7 => w0 % 8 != 0 || 1 < bodyField d 16 1 || !zeroFrom d 17
      | 10 => nc ≤ bodyField d 8 8 || !zeroFrom d 24
      | _ => true
def packetBad (s : State) (ctx : Nat) (d : List Byte) : Bool := fieldsBad (s.nc ctx) d

/-- A packet that may be dispatched: read, valid at its number, and well formed. -/
def packetGood (s : State) (ctx : Nat) (d : List Byte) (expected : Nat) : Bool :=
  !d.isEmpty && packetValid d expected && !packetBad s ctx d

/-! Places in the buffers (R394, R404, R406). -/

/-- Slots of the ring, from the size's logarithm. Values to 20 need one bit more than R395 shows, bit 56 (log 19). -/
def Queue.slots (q : Queue) : Nat := 2 ^ bits q.cfg 52 5 / 64
/-- Ring base as QCFG holds it, and as an address. -/
def Queue.base (q : Queue) : Nat := bits q.cfg 0 48
def Queue.ringAddr (q : Queue) : Nat := (if bit q.cfg 60 then hostBase else 0) + q.base

/-- Packets consumed so far: a LOOP's body counts once (R406). -/
def Buf.head (b : Buf) : Nat :=
  match b.loop with
  | some l => if l.first then b.idx else l.lo + l.n
  | none => b.idx

/-- The published end of the ring, as an index that counts on. -/
def Queue.pub (q : Queue) : Nat := q.ring.head + (q.tail + q.slots - q.ring.head % q.slots) % q.slots

def Queue.setCur (q : Queue) (b : Buf) : Queue :=
  match q.nest with
  | [] => { q with ring := b }
  | _ :: t => { q with nest := b :: t }

/-- The place of the packet to dispatch. -/
def Queue.path (q : Queue) : List Nat := q.ring.idx :: q.nest.reverse.map Buf.idx

/-- End of a buffer's packets. -/
def Queue.limit (q : Queue) : Nat :=
  match q.nest with
  | [] => q.pub
  | b :: _ => b.count

/-- A frame of the walk over what is to be fetched: index, end, base, whether it is the ring, and the copies of a LOOP. -/
structure Look where
  idx : Nat
  stop : Nat
  base : Nat
  ring : Bool
  copies : List Fetched

def Buf.look (b : Buf) (stop : Nat) (ring : Bool) : Look :=
  { idx := b.idx, stop := stop, base := b.base, ring := ring, copies := (b.loop.map LoopSt.copies).getD [] }

def lookPath (l : List Look) : List Nat := (l.map Look.idx).reverse

/-- Bytes held for a place: fetched ahead, or copied for a LOOP. -/
def Queue.held (q : Queue) (path : List Nat) (copies : List Fetched) : Option (List Byte) :=
  ((copies ++ q.ahead).find? fun f => f.path == path).map Fetched.bytes

/-- An INDIRECT whose buffer the lookahead goes into. -/
def indirectOk (d : List Byte) (expected : Nat) : Bool := pfield d 0 1 == 3 && packetValid d expected && !fieldsBad 0 d

/-- The first place of the lookahead that is not held (R408, R418): the packet to dispatch and the eight after it, in buffer
order, into indirect buffers. An invalid or malformed packet is held like any other. The copy of one that could not be read has been
dropped, an entry without bytes: its slot is read again when it is the packet to dispatch (R411). -/
def nextPlace (q : Queue) : Nat → Nat → List Look → Option (List Nat × Nat × Bool)
  | 0, _, _ => none
  | _, 0, _ => none
  | _, _, [] => none
  | fuel + 1, n + 1, f :: t =>
    if f.stop ≤ f.idx then (if f.ring then none else nextPlace q fuel (n + 1) t)
    else
      let path := lookPath (f :: t)
      let here : Option (List Nat × Nat × Bool) :=
        some (path, if f.ring then q.ringAddr + 64 * (f.idx % q.slots) else f.base + 64 * f.idx, f.ring)
      let next : List Look := { f with idx := f.idx + 1 } :: t
      match q.held path f.copies with
      | none => here
      | some [] => if path == q.path then here else nextPlace q fuel n next
      | some d =>
        if indirectOk d f.idx && t.length < 2 then
          nextPlace q fuel n ({ idx := 0, stop := bodyField d 8 4, base := bodyField d 0 8, ring := false, copies := [] } :: next)
        else nextPlace q fuel n next

def Queue.looks (q : Queue) : List Look := q.nest.map (fun b => b.look b.count false) ++ [q.ring.look q.pub true]

def Queue.wants (q : Queue) : Option (List Nat × Nat × Bool) := nextPlace q 40 9 q.looks

/-- The copy of the packet to dispatch, where one is held. -/
def Queue.copy (q : Queue) : Option (List Byte) :=
  if q.limit ≤ q.cur.idx then none else q.held q.path ((q.cur.loop.map LoopSt.copies).getD [])

/-- The packet to dispatch, where it is held and good. -/
def Queue.packet (s : State) (q : Queue) : Option (List Byte) := q.copy.filter fun d => packetGood s q.ctx d (q.path.getLastD 0)

/-- Address of a packet's slot, for QFAULT (R394, R411). -/
def Queue.slotAddr (q : Queue) : Nat :=
  match q.nest with
  | [] => q.base + 64 * (q.ring.idx % q.slots)
  | b :: _ => b.base + 64 * b.idx

/-! Faults (R411). -/

/-- The record goes to host memory, where the host die lets the context write it (R430). -/
def faultRecord (s : State) (q : Queue) (st a : Nat) : State :=
  if q.notify = 0 || (s.pkg.ucieUp && Config.hostRefuses q.ctx q.notify) then s
  else
    let w := q.n % 1024 + q.n / 1024 * 2 ^ 10 + st * 2 ^ 13 + a % 2 ^ 48 * 2 ^ 16
    feWrite s ((partsOf (hostBase + q.notify) 0 8).map fun p => { p with key := p.va }) (toBytes 8 w)

/-- The queue stops at its packet. -/
def queueFault (s : State) (q : Queue) (st a : Nat) : State :=
  faultRecord (s.setQueue { q with state := st, fault := BitVec.ofNat 64 a }) q st a
def fetchFault (s : State) (q : Queue) (a : Nat) : State := queueFault s q 2 a
def packetFault (s : State) (q : Queue) : State := queueFault s q 3 q.slotAddr

/-! Completion (R399, R402, R403). -/

/-- A signal's add (R403); a deterministic context makes it at step 5 (R413). -/
def fireSignal (s : State) (n a : Nat) : State :=
  let q := s.queue n
  if a = 0 then s
  else if s.det q.ctx then s.setQueue { q with adds := q.adds ++ [a] }
  else match feAdd s q.ctx a 1 with
    | .ok s => s
    | .error _ => faultRecord s q 7 a

/-- A packet that has nothing left to wait for. -/
def Queue.ripe (q : Queue) : Option Pkt := q.open_.find? fun p => p.sent && p.tasks == 0 && !(q.open_.any fun c => c.buf == p.id)

/-- An empty range's signal whose earlier packets have completed. -/
def Queue.due (q : Queue) : Option (List Nat × Nat) := q.deferred.find? fun d => !(q.open_.any fun p => d.1.contains p.id)

/-- Complete what can complete; every round closes a packet or a deferred signal. -/
def sweep : Nat → State → Nat → State
  | 0, s, _ => s
  | fuel + 1, s, n =>
    let q := s.queue n
    match q.ripe with
    | some p => sweep fuel (fireSignal (s.setQueue { q with open_ := q.open_.filter fun c => c.id != p.id }) n p.signal) n
    | none => match q.due with
      | some d => sweep fuel (fireSignal (s.setQueue { q with deferred := q.deferred.erase d }) n d.2) n
      | none => s

def sweepAll (s : State) (n : Nat) : State := sweep ((s.queue n).open_.length + (s.queue n).deferred.length) s n

/-- The same for the enclosing buffers (R407); an INDIRECT that is entered does not count. -/
def Queue.quietAll (q : Queue) : Bool :=
  let in_ := q.nest.map Buf.packet
  !(q.open_.any fun p => (q.ring :: q.nest).any (fun b => b.packet == p.buf) && !in_.contains p.id
      && some p.id != q.range.map Prod.fst)

/-! Consuming (R398, R404-R406). -/

/-- A packet consumed: its copy stays for the later passes of a LOOP's body. -/
def consumeQ (q : Queue) : Queue :=
  let path := q.path
  let b := q.cur
  let copy := q.ahead.filter fun f => f.path == path
  let loop := b.loop.map fun l => if l.first && l.lo ≤ b.idx && b.idx < l.lo + l.n then { l with copies := l.copies ++ copy } else l
  { (q.setCur { b with idx := b.idx + 1, loop := loop }) with
    ahead := q.ahead.filter fun f => f.path != path
    tries := 0, waiting := false, range := none, hold := none }

/-- A packet consumed without dispatch: what was fetched of an INDIRECT's buffer, at places behind the next packet's, goes with it
(R405, R406). -/
def consumeSkip (q : Queue) : Queue :=
  let path := q.path
  let inside := path.dropLast ++ [path.getLastD 0 + 1]
  let q := consumeQ q
  { q with ahead := q.ahead.filter fun f => !(path.length < f.path.length && inside.isPrefixOf f.path) }

/-- The end of a pass: the next one, or the end of the LOOP. -/
def endPass (b : Buf) : Buf :=
  match b.loop with
  | some l =>
    if b.idx < l.lo + l.n then b
    else if l.left = 0 then { b with loop := none }
    else { b with idx := l.lo, loop := some { l with left := l.left - 1, first := false } }
  | none => b

/-- Is the packet at the place in a LOOP's body? -/
def Buf.inLoop (b : Buf) : Bool :=
  match b.loop with
  | some l => l.lo ≤ b.idx && b.idx < l.lo + l.n
  | none => b.zero != 0

/-- A LOOP of n packets is malformed in a body, or where its body runs past the end of its buffer (R406). -/
def loopBad (q : Queue) (n : Nat) : Bool := q.cur.inLoop || (!q.nest.isEmpty && q.cur.count < q.cur.idx + 1 + n)

/-- Go on to the next packet to dispatch: passes end, buffers end, skipped packets are consumed as they are fetched. A skipped
packet that is malformed where it stands (R404, R406) faults all the same. -/
def advance : Nat → State → Nat → State
  | 0, s, _ => s
  | fuel + 1, s, n =>
    let q := s.queue n
    let q := q.setCur (endPass q.cur)
    match q.nest with
    | b :: t =>
      if b.count ≤ b.idx then
        advance fuel (s.setQueue { q with nest := t, open_ := mapIf (fun p => p.id == b.packet) (fun p => { p with sent := true }) q.open_ }) n
      else skipOver fuel (s.setQueue q) n
    | [] => skipOver fuel (s.setQueue q) n
where
  skipOver (fuel : Nat) (s : State) (n : Nat) : State :=
    let q := s.queue n
    let b := q.cur
    if b.skip = 0 || q.state != 1 then s
    else match q.packet s with
      | none => s
      | some d =>
        let more := if pfield d 0 1 == 5 then bodyField d 0 1 else 0
        if (more != 0 && loopBad q more) || (pfield d 0 1 == 3 && 2 ≤ q.nest.length) then packetFault s q
        else
          let q := consumeSkip q
          let b := q.cur
          let b := { b with skip := b.skip - 1 + more, zero := b.zero - 1 + more }
          match fuel with
          | 0 => s.setQueue (q.setCur b)
          | fuel + 1 => advance fuel (s.setQueue (q.setCur b)) n

/-- Rounds that `advance` may need: two for each packet of a skip of 255, each a LOOP with its body, and the ends of buffers. -/
def settleQueue (s : State) (n : Nat) : State := sweepAll (advance 10000 s n) n

/-- Consume the packet and go on. -/
def doneWith (s : State) (n : Nat) : State := settleQueue (s.setQueue (consumeQ (s.queue n))) n

/-! Fetching (R398, R408, R411). -/

/-- A copy is held for a place, in the place of one that was dropped. -/
def Queue.hold1 (q : Queue) (path : List Nat) (d : List Byte) : Queue :=
  { q with ahead := (q.ahead.filter fun f => f.path != path) ++ [{ path := path, bytes := d }] }

/-- The packet to dispatch is not valid (R398): its copy goes, and it is read again 1 µs later, 64 times at most. -/
def failedRead (s : State) (q : Queue) : State :=
  let path := q.path
  let q := { q with tries := q.tries + 1, again := s.cc + retryPeriod, ahead := q.ahead.filter fun f => f.path != path }
  if 64 ≤ q.tries then packetFault s q else s.setQueue q

/-- The packet to dispatch, once it has been read: it is held where it is good. -/
def judge (s : State) (q : Queue) (d : List Byte) : State :=
  if !packetValid d (q.path.getLastD 0) then failedRead s q
  else if packetBad s q.ctx d then packetFault s q
  else settleQueue (s.setQueue (q.hold1 q.path d)) q.n

/-- A step of the fetcher's read of a slot. With its last part the packet to dispatch is judged; one ahead of it is held as it was read,
and dropped where it could not be (R408, R411). -/
def fetchStep (s : State) (q : Queue) (path : List Nat) (a : Nat) : State :=
  let now := path == q.path
  match feRead s q.n path a 64 with
  | .fault x => if now then fetchFault s q x else s.setQueue (q.hold1 path [])
  | .more s => s
  | .done s d =>
    let q := s.queue q.n
    if now then judge s q d else settleQueue (s.setQueue (q.hold1 path d)) q.n

/-- A copy that was fetched ahead is judged when its packet is the one to dispatch. -/
def judgeHeld (s : State) (q : Queue) : Option State :=
  match q.copy with
  | some (b :: d) => if packetGood s q.ctx (b :: d) (q.path.getLastD 0) then none else some (judge s q (b :: d))
  | _ => none

/-- The front end serves the queue: it runs from the start's step 10 on (R436). -/
def Queue.running (s : State) (q : Queue) : Bool := s.pkg.front && q.state == 1 && s.alive q.ctx

/-- Does the fetcher read the packet to dispatch again (R398)? -/
def Queue.retrying (q : Queue) : Bool := q.tries != 0

/-- What the fetcher does next, but for reading again. -/
def fetchNext (s : State) (q : Queue) : State :=
  match judgeHeld s q with
  | some t => t
  | none => match q.wants with
    | some (path, a, _) => if path == q.path && q.retrying then s else fetchStep s q path a
    | none => s

/-- It reads the packet to dispatch again. -/
def fetchAgain (s : State) (q : Queue) : State :=
  match (if q.retrying then q.wants else none) with
  | some (path, a, _) => if path == q.path then fetchStep s q path a else s
  | none => s

def execPacketFetch (n : Nat) (s : State) : Res :=
  let q := s.queue n
  .next (if q.running s then fetchNext s q else s)

/-- A deterministic context's queue reads again at boundaries (R413). -/
def execPacketRecheck (n : Nat) (s : State) : Res :=
  let q := s.queue n
  .next (if q.running s && !s.det q.ctx && q.again ≤ s.cc then fetchAgain s q else s)

/-- The lookahead is as full as it can get (R418). -/
def lookDone (q : Queue) : Bool := q.wants.isNone

/-! Dispatch (R399-R407, R409). -/

/-- The packet that the queue may dispatch now. -/
def mayDispatch (s : State) (n : Nat) : Option (List Byte) :=
  let q := s.queue n
  if !q.running s || launchHeld s n || q.cur.skip != 0 then none
  else match q.packet s with
    | none => none
    | some d =>
      if !lookDone q then none
      else if pfield d 0 8 / 2 ^ 32 % 2 = 1 && !q.quiet then none
      else some d

/-- Dispatch a packet of a type. -/
def typed (s : State) (n typ : Nat) (g : State → Nat → List Byte → State) : State :=
  match mayDispatch s n with
  | some d => if pfield d 0 1 == typ then g s n d else s
  | none => s

/-- The same as an event: a deterministic context's queues dispatch at boundaries alone (R413). -/
def event (s : State) (n typ : Nat) (g : State → Nat → List Byte → State) : State :=
  if s.det (s.queue n).ctx then s else typed s n typ g

/-- A new packet in the current buffer. -/
def openPkt (q : Queue) (tasks signal : Nat) (sent : Bool) : Queue :=
  { q with nextPkt := q.nextPkt + 1
           open_ := q.open_ ++ [{ id := q.nextPkt, buf := q.cur.packet, tasks := tasks, sent := sent, signal := signal }] }

def doNop (s : State) (n : Nat) (_ : List Byte) : State := doneWith s n

/-! Launches (R400-R402, R361, R362). -/

/-- Where a launch goes, or the address that faults; none for no target. -/
def launchTarget (s : State) (ctx a : Nat) : Except Nat (Option Nat) :=
  if a < 2 ^ 48 && rangeOf a == .own then .error a
  else match targetOf s (feCore ctx) a with
    | .error i => .error i.s5.toNat
    | .ok t => .ok t

/-- The 256-byte uniform block (R368). -/
def launchBlock (s : State) (n a : Nat) : FeRead :=
  if a = 0 then .done s (List.replicate 256 0) else feRead s n ((s.queue n).path ++ [a]) a 256

def signalOk (s : State) (ctx a : Nat) : Except Nat Unit :=
  if a = 0 then .ok () else match feAccess s ctx .atomic a 8 with
    | .error x => .error x
    | .ok _ => .ok ()

/-- What the specialisation cache of the target's die answers: the PC to start at, or the walk to wait for. -/
inductive Looked
  | start (s : State) (pc : W64)
  | walk (s : State) (id : Nat)

/-- The die of a context's logical core; die 8 stands for another package's, whose cache is not looked up here. -/
def dieOfLc (s : State) (ctx lc : Nat) : Nat := ((s.physOf ctx lc).map dieOf).getD 8

/-- The PC of an entry's residual code, or the handler's where it is refused. -/
def entryPc (die : Nat) (e : SpecEntry) (pc : W64) : W64 :=
  if e.refused then pc else BitVec.ofNat 64 (residualBase die + e.line * 64)

/-- Look a launch up (R361, R362): a hit is counted and its entry most recently used; a miss starts a walk or waits for the
one that runs for the same key. -/
def specLookup (s : State) (die ctx : Nat) (pc : W64) (block : List Byte) : Looked :=
  let masked := maskedBlock (maskOf s ctx pc) block
  let bump (s : State) : State := s.modSpec die fun d => { d with lookups := d.lookups + 1 }
  match specFind s die ctx pc block with
  | some e =>
    let s := (bump (countSpec s die 0)).modSpec die fun d =>
      { d with entries := mapIf (fun x => x == e) (fun x => { x with hit := d.lookups }) d.entries }
    .start s (entryPc die e pc)
  | none =>
    let s := bump (countSpec s die 1)
    if h : die < 8 then
      match s.spec[die].walks.find? fun w => w.ctx == ctx && w.det == s.det ctx && w.pc == pc && w.block == masked
          && versionIn w.versions ctx (pc.toNat / 65536) == versionOf s ctx (pc.toNat / 65536) && w.outcome.isNone with
      | some w => .walk s w.id
      | none =>
        let w : Walk := { id := s.spec[die].nextWalk, ctx := ctx, det := s.det ctx, pc := pc, block := masked, versions := s.versions, outcome := none }
        .walk (s.modSpec die fun d => { d with walks := d.walks ++ [w], nextWalk := d.nextWalk + 1 }) w.id
    else .start s pc

/-- The outcome of a walk, dropped once no other queue waits for it. -/
def walkOutcome (s : State) (n die id : Nat) : Option (State × W64) :=
  if h : die < 8 then
    match s.spec[die].walks.find? fun w => w.id == id with
    | some w => w.outcome.map fun pc =>
        if s.queues.any fun q => q.n != n && (q.hold.map Prod.fst) == some id then (s, pc)
        else (s.modSpec die fun d => { d with walks := d.walks.filter fun v => v.id != id }, pc)
    | none => none
  else none

/-- Send one launch message (R401). -/
def sendLaunch (s : State) (n pkt lc : Nat) (d : List Byte) (pc : W64) (block : List Byte) (p0 p1 : W64) : State :=
  let q := s.queue n
  let w0 := bodyField d 0 8
  let m := mkMsg 2 (w0 / 2 ^ 52 % 32) (BitVec.ofNat 4 (w0 / 2 ^ 48)) 0#16 0xFFFF#16 (payload p0 p1 0)
  let l : Launch := { id := s.nextLaunch, queue := n, pkt := pkt, ctx := q.ctx, dst := lc, pc := pc, block := block, msg := m
                      bounced := false, ended := false, phys := 0, upTo := 0 }
  let s := s.setQueue { q with open_ := mapIf (fun p => p.id == pkt) (fun p => { p with tasks := p.tasks + 1 }) q.open_ }
  ({ s with launches := s.launches ++ [l], nextLaunch := s.nextLaunch + 1 }).post
    { ctx := q.ctx, dst := lc, src := .queue n, held := { msg := m, launch := some l.id } }

/-- The PC for a launch, after the walk that the queue waits for or by a lookup; none while it waits. The block is what the
packet's uniform address gave. -/
def launchPc (s : State) (n die : Nat) (pc : W64) (block : List Byte) : State × Option W64 :=
  let q := s.queue n
  let wait (s : State) (id : Nat) : State × Option W64 := (s.setQueue { s.queue n with hold := some (id, block) }, none)
  match q.hold with
  | some (id, _) =>
    if id = 0 then
      (match specLookup s die q.ctx pc block with
       | .start s pc => (s, some pc)
       | .walk s id => wait s id)
    else (match walkOutcome s n die id with
      | some (s, pc) => (s, some pc)
      | none => (s, none))
  | none => match specLookup s die q.ctx pc block with
    | .start s pc => (s, some pc)
    | .walk s id => wait s id

/-- The block held for a packet, or the one read now together with the check of its signal word (R401, R403). -/
def launchReady (s : State) (n : Nat) (d : List Byte) : FeRead :=
  let q := s.queue n
  match q.hold with
  | some (_, b) => .done s b
  | none => match launchBlock s n (bodyField d 16 8) with
    | .done s' b => match signalOk s q.ctx (bodyField d 24 8) with
      | .error x => .fault x
      | .ok _ => .done s' b
    | r => r

def doLaunch (s : State) (n : Nat) (d : List Byte) : State :=
  let q := s.queue n
  let pc := BitVec.ofNat 64 (bodyField d 0 8 % 2 ^ 48)
  match launchTarget s q.ctx (bodyField d 8 8) with
  | .error x => fetchFault s q x
  | .ok none => packetFault s q
  | .ok (some lc) => match launchReady s n d with
    | .fault x => fetchFault s q x
    | .more s => s
    | .done s block => match launchPc s n (dieOfLc s q.ctx lc) pc block with
      | (s, none) => s
      | (s, some start) =>
        let q := openPkt (s.queue n) 0 (bodyField d 24 8) true
        let s := sendLaunch (s.setQueue q) n (q.nextPkt - 1) lc d start block
          (BitVec.ofNat 64 (bodyField d 32 8)) (BitVec.ofNat 64 (bodyField d 40 8))
        doneWith s n

/-- Element k of a range: its indices and address (R402). -/
def rangeElem (d : List Byte) (k : Nat) : Nat × Nat × Nat × Nat :=
  let n0 := bodyField d 32 2
  let n1 := bodyField d 34 2
  let i0 := k % n0
  let i1 := k / n0 % n1
  let i2 := k / (n0 * n1)
  let st (off : Nat) : Int := toSigned 32 (bodyField d off 4)
  (i0, i1, i2, lowBits 48 ((bodyField d 8 8 : Int) + i0 * st 48 + i1 * st 40 + i2 * st 44))

def rangeCount (d : List Byte) : Nat := bodyField d 32 2 * bodyField d 34 2 * bodyField d 36 2

/-- One element of a range. A range of no element completes at once, its signal behind every earlier packet of its buffer. -/
def doLaunchRange (s : State) (n : Nat) (d : List Byte) : State :=
  let q := s.queue n
  let pc := BitVec.ofNat 64 (bodyField d 0 8 % 2 ^ 48)
  let signal := bodyField d 24 8
  match launchReady s n d with
  | .fault x => fetchFault s q x
  | .more s => s
  | .done s block =>
    let q := s.queue n
    if rangeCount d = 0 then
      let ids := (q.open_.filter fun p => p.buf == q.cur.packet).map Pkt.id
      let s := if signal = 0 then s else s.setQueue { q with deferred := q.deferred ++ [(ids, signal)] }
      doneWith s n
    else
      let (s, pkt, k) := match q.range with
        | some (p, k) => (s, p, k)
        | none => (s.setQueue { (openPkt q 0 signal false) with range := some (q.nextPkt, 0) }, q.nextPkt, 0)
      let q := s.queue n
      let (i0, i1, i2, a) := rangeElem d k
      match launchTarget s q.ctx a with
      | .error x => fetchFault s q x
      | .ok none => packetFault s q
      | .ok (some lc) => match launchPc s n (dieOfLc s q.ctx lc) pc block with
        | (s, none) => s
        | (s, some start) =>
          let s := sendLaunch s n pkt lc d start block (BitVec.ofNat 64 a) (BitVec.ofNat 64 (i0 + i1 * 2 ^ 16 + i2 * 2 ^ 32))
          let q := s.queue n
          if k + 1 < rangeCount d then s.setQueue { q with range := some (pkt, k + 1), hold := some (0, block) }
          else doneWith (s.setQueue { q with open_ := mapIf (fun p => p.id == pkt) (fun p => { p with sent := true }) q.open_ }) n

/-! Control packets (R404-R407). -/

def doIndirect (s : State) (n : Nat) (d : List Byte) : State :=
  let q := s.queue n
  if 2 ≤ q.nest.length then packetFault s q
  else
    let q := consumeQ (openPkt q 0 0 false)
    let b : Buf := { Buf.reset with base := bodyField d 0 8, count := bodyField d 8 4, packet := q.nextPkt - 1 }
    settleQueue (s.setQueue { q with nest := b :: q.nest }) n

/-- The test of PRED and WAIT (R405). -/
def condTest (op a b : Nat) : Bool :=
  let sa := toSigned 64 a
  let sb := toSigned 64 b
  match op with
  | 0 => a == b
  | 1 => a != b
  | 2 => decide (a < b)
  | 3 => decide (b ≤ a)
  | 4 => decide (sa < sb)
  | _ => decide (sb ≤ sa)

def condHolds (s : State) (ctx : Nat) (d : List Byte) : Except Nat (State × Bool) :=
  match feLoad s ctx (bodyField d 0 8) 8 with
  | .error x => .error x
  | .ok (s, b) => .ok (s, condTest (bodyField d 24 1) (ofBytes b &&& bodyField d 16 8) (bodyField d 8 8))

def doPred (s : State) (n : Nat) (d : List Byte) : State :=
  let q := s.queue n
  match condHolds s q.ctx d with
  | .error x => fetchFault s q x
  | .ok (s, true) => doneWith s n
  | .ok (s, false) =>
    let q := consumeQ q
    let b := q.cur
    settleQueue (s.setQueue (q.setCur { b with skip := b.skip + bodyField d 25 1 })) n

def doLoop (s : State) (n : Nat) (d : List Byte) : State :=
  let q := s.queue n
  let len := bodyField d 0 1
  let m := bodyField d 2 2
  if loopBad q len then packetFault s q
  else
    let q := consumeQ q
    let b := q.cur
    let b := if m = 0 then { b with skip := len, zero := len }
      else { b with loop := some { lo := b.idx, n := len, left := m - 1, first := true, copies := [] } }
    settleQueue (s.setQueue (q.setCur b)) n

def doWait (s : State) (n : Nat) (d : List Byte) : State :=
  let q := s.queue n
  match condHolds s q.ctx d with
  | .error x => fetchFault s q x
  | .ok (s, true) => doneWith s n
  | .ok (s, false) => s.setQueue { q with waiting := true, again := s.cc + retryPeriod }

def doSignal (s : State) (n : Nat) (d : List Byte) : State :=
  let q := s.queue n
  let a := bodyField d 0 8
  let v := bodyField d 8 8
  if !q.quietAll then s
  else if bodyField d 16 1 = 1 then
    match feAdd s q.ctx a v with
    | .error x => fetchFault s q x
    | .ok s => doneWith s n
  else match feAccess s q.ctx .store a 8 with
    | .error x => fetchFault s q x
    | .ok ps => doneWith (feWrite s ps (toBytes 8 v)) n

def doBarrier (s : State) (n : Nat) (_ : List Byte) : State := if (s.queue n).quietAll then doneWith s n else s

/-- The copies of a LOOP's first pass stay (R406). -/
def doFetchFence (s : State) (n : Nat) (_ : List Byte) : State :=
  let q := s.queue n
  let path := q.path
  doneWith (s.setQueue { q with ahead := q.ahead.filter fun f => f.path == path, part := none }) n

/-- CONNECT: the image is read as the named core's PLOAD reads it; the result is the front end's store. -/
def doConnect (s : State) (n : Nat) (d : List Byte) : State :=
  let q := s.queue n
  let a := bodyField d 0 8
  let lc := bodyField d 8 8
  match s.physOf q.ctx lc with
  | none => packetFault s q
  | some p =>
    if a % 64 != 0 then fetchFault s q a
    else match access s (coreAs (s.core p) q.ctx) .load a 8192 0 with
      | .error i => fetchFault s q i.s5.toNat
      | .ok ps => match feAccess s q.ctx .store (bodyField d 16 8) 8 with
        | .error x => fetchFault s q x
        | .ok rs =>
          match readOn s n (q.path ++ [a]) (ps.map fun r => { r with key := keyAs s q.ctx r.key }) with
          | .fault x => fetchFault s q x
          | .more s => s
          | .done s bs =>
            let (s, h) := loadImage s (clusterOf p) q.ctx bs
            doneWith (feWrite s rs (toBytes 8 h.toNat)) n

def execNop (n : Nat) (s : State) : Res := .next (event s n 0 doNop)
/-- A launch of a packet type that reaches the dispatcher in the cc of its context's teardown is dropped and counted (R412); one that a
bounced launch or its barrier flag kept back did not reach it. -/
def dropLaunch (s : State) (n typ : Nat) : State :=
  let q := s.queue n
  match q.packet s, q.late with
  | some d, some (cc, quiet) =>
    if q.state = 4 && cc == s.cc && pfield d 0 1 == typ && lookDone q && (quiet || pfield d 0 8 / 2 ^ 32 % 2 = 0) then
      (s.setQueue { q with late := none, dropped := if q.dropped = BitVec.allOnes 16 then q.dropped else q.dropped + 1 }).modCtx q.ctx
        fun x => { x with dropLaunch := x.dropLaunch + 1 }
    else s
  | _, _ => s
def execLaunch (n : Nat) (s : State) : Res :=
  .next (if (s.queue n).state = 4 then dropLaunch s n 1 else event s n 1 doLaunch)
def execLaunchRange (n : Nat) (s : State) : Res :=
  .next (if (s.queue n).state = 4 then dropLaunch s n 2 else event s n 2 doLaunchRange)
def execIndirect (n : Nat) (s : State) : Res := .next (event s n 3 doIndirect)
def execPred (n : Nat) (s : State) : Res := .next (event s n 4 doPred)
def execPacketLoop (n : Nat) (s : State) : Res := .next (event s n 5 doLoop)
def execWait (n : Nat) (s : State) : Res := .next (if (s.queue n).waiting then s else event s n 6 doWait)
def execWaitRetest (n : Nat) (s : State) : Res :=
  .next (if (s.queue n).waiting && (s.queue n).again ≤ s.cc then event s n 6 doWait else s)
def execSignal (n : Nat) (s : State) : Res := .next (event s n 7 doSignal)
def execBarrier (n : Nat) (s : State) : Res := .next (event s n 8 doBarrier)
def execFetchFence (n : Nat) (s : State) : Res := .next (event s n 9 doFetchFence)
def execConnect (n : Nat) (s : State) : Res := .next (event s n 10 doConnect)

/-- One dispatch of whatever type, at a boundary (R413). -/
def dispatchOne (s : State) (n : Nat) : State :=
  match mayDispatch s n with
  | none => s
  | some d => match pfield d 0 1 with
    | 0 => doNop s n d
    | 1 => doLaunch s n d
    | 2 => doLaunchRange s n d
    | 3 => doIndirect s n d
    | 4 => doPred s n d
    | 5 => doLoop s n d
    | 6 => doWait s n d
    | 7 => doSignal s n d
    | 8 => doBarrier s n d
    | 9 => doFetchFence s n d
    | _ => doConnect s n d

/-! Bounced launches and ends of tasks (R401, R403). -/

/-- The queue's first bounced launch that is not on its way and whose next try is due: 1 µs after the last, or at a boundary of a
deterministic context (R401, R413). -/
def dueLaunch (s : State) (n : Nat) : Option Launch :=
  let flying (l : Launch) : Bool := (s.flights.any fun f => f.held.launch == some l.id)
    || ((s.ctx? l.ctx).map fun x => x.outbox.any fun f => f.held.launch == some l.id).getD false
  s.launches.find? fun l => l.queue == n && l.bounced && !flying l && (s.det l.ctx || decide (l.again ≤ s.cc))

/-- LAUNCH_RESEND. -/
def resendLaunch (s : State) (n : Nat) : State :=
  match dueLaunch s n with
  | some l =>
    let q := s.queue n
    (s.setQueue { q with resent := if q.resent = BitVec.allOnes 16 then q.resent else q.resent + 1 }).post
      { ctx := l.ctx, dst := l.dst, src := .queue n, held := { msg := l.msg, launch := some l.id } }
  | none => s
def execLaunchResend (n : Nat) (s : State) : Res := .next (if s.det (s.queue n).ctx then s else resendLaunch s n)

/-- Every store and engine write that the task issued has applied. -/
def taskQuiet (s : State) (l : Launch) : Bool :=
  let c := s.core l.phys
  c.cx.ctx != l.ctx || (!((c.opsBefore l.upTo).any fun o => (o.isStore || o.isAtomic || o.isNt) && o.st != .done)
    && !c.engWritesBefore l.upTo)

/-- A launch of another package's front end reports there. -/
def reportEnd (s : State) (l : Launch) : State :=
  let s := { s with launches := s.launches.filter fun m => m.id != l.id }
  if l.queue = linkQueue then s
  else
    let q := s.queue l.queue
    sweepAll (s.setQueue { q with open_ := mapIf (fun p => p.id == l.pkt) (fun p => { p with tasks := p.tasks - 1 }) q.open_ }) l.queue

def execTaskEndReport (k : Nat) (s : State) : Res :=
  .next (match s.launches[k]? with
    | some l => if l.ended && taskQuiet s l && !s.det l.ctx then reportEnd s l else s
    | none => s)

/-! Queue registers (R140, R395, R396, R411). -/

/-- Packets of the ring fetched at or past a published end. -/
def Fetched.root (f : Fetched) : Nat := f.path.headD 0 - (if f.path.length = 1 then 0 else 1)

def setTail (q : Queue) (v : Nat) : Queue :=
  let q := { q with tail := v, part := none }
  { q with ahead := q.ahead.filter fun f => f.root < q.pub }

/-- A kick takes effect (R396). -/
def kickNow (s : State) (n v : Nat) : State :=
  let q := s.queue n
  if q.slots ≤ v then s.setQueue { q with ignored := true } else settleQueue (s.setQueue (setTail q v)) n

/-- A store to QKICK reaches the fetcher, behind a QSEND that it is writing (R140, R396). -/
def kick (s : State) (n v : Nat) : State :=
  if s.qsends.any fun e => e.queue == n && e.slot.isSome then
    let q := s.queue n
    s.setQueue { q with kicks := q.kicks ++ [v] }
  else kickNow s n v

/-- The kicks that came while a QSEND was written. -/
def takeKept (s : State) (n : Nat) : State :=
  let q := s.queue n
  q.kicks.foldl (fun s v => kickNow s n v) (s.setQueue { q with kicks := [] })

/-- A host's kick: a deterministic context takes it at a boundary at which it is idle (R118). -/
def hostKick (s : State) (n v : Nat) : State :=
  let q := s.queue n
  if s.det q.ctx && q.state != 0 then s.setQueue { q with hostKicks := q.hostKicks ++ [v] } else kick s n v
/-- QKICK: the host's store, a system-scope release behind its earlier writes (R396, R431). -/
def execQkick (n : Nat) (tail : BitVec 32) (s : State) : Res :=
  .next (if n < 8192 && !s.pkg.hostOps.any HostOp.write then hostKick s n tail.toNat else s)

/-- A QSEND that finds no place returns (R140). -/
def qsendBounce (s : State) (e : QSend) : State :=
  let body := e.body ++ List.replicate (56 - e.body.length) 0
  let pl : Vector W64 7 := Vector.ofFn fun (k : Fin 7) => BitVec.ofNat 64 (ofBytes (sub body (8 * k.val) 8))
  let m := { mkMsg 9 e.len 15#4 (e.typ.setWidth 16) 0xFFFF#16 pl with bounced := true }
  s.post { ctx := e.ctx, dst := e.lc, src := .queue e.queue, held := { msg := m, launch := none } }

/-- The slot and sequence number that a QSEND takes, none where the ring is full or the queue OFF or DEAD. -/
def qsendSlot (q : Queue) (e : QSend) : Option (Nat × Nat) :=
  if q.state = 0 || q.state = 4 then none
  else match e.slot with
    | some x => some x
    | none => if (q.tail + 1) % q.slots = q.ring.head % q.slots then none else some (q.tail, q.pub)

/-- The tail after a QSEND: as a kick of the slot behind it; kicks that came meanwhile follow. -/
def qsendEnd (s : State) (n slot : Nat) : State :=
  let q := s.queue n
  takeKept (settleQueue (s.setQueue (setTail q ((slot + 1) % q.slots))) n) n

/-- A QSEND's packet at the fetcher, written whole, at a boundary. -/
def qsendWrite (s : State) (e : QSend) : State :=
  let q := s.queue e.queue
  match qsendSlot q e with
  | none => qsendBounce s e
  | some (slot, seq) => match feAccess s q.ctx .store (q.ringAddr + 64 * slot) 64 with
    | .error x => fetchFault s q x
    | .ok ps => qsendEnd (feWrite s ps (packetOf e.typ seq e.body)) e.queue slot

/-- The fabric keeps no order of QSENDs (R50); the fetcher takes them as they arrive, one at a time (R140), and writes a packet
part by part (R42); which part is next is free. -/
def execQsendWrite (k : Nat) (s : State) : Res :=
  .next (match s.qsends[k]? with
    | none => s
    | some e =>
      let q := s.queue e.queue
      let gone := { s with qsends := eraseAt s.qsends k }
      if e.slot.isNone && s.qsends.any (fun x => x.queue == e.queue && x.slot.isSome) then s
      else match qsendSlot q e with
      | none => qsendBounce gone e
      | some (slot, seq) => match feAccess s q.ctx .store (q.ringAddr + 64 * slot) 64 with
        | .error x => takeKept (fetchFault gone q x) e.queue
        | .ok ps =>
          let left := ps.filter fun p => !e.wrote.contains p.off
          match left[(Config.freeWord s.fresh).toNat % left.length]? with
          | none => qsendEnd gone e.queue slot
          | some p =>
            let s := feWrite { s with fresh := s.fresh + 1 } [p] (packetOf e.typ seq e.body) [1, e.queue, slot, seq]
            if left.length = 1 then qsendEnd { s with qsends := eraseAt s.qsends k } e.queue slot
            else { s with qsends := setAt s.qsends k { e with slot := some (slot, seq), wrote := p.off :: e.wrote } })

/-- QACT acts on a faulting queue; stop makes any queue OFF. -/
def qactRetry (s : State) (n : Nat) : State :=
  let q := s.queue n
  if q.state = 2 || q.state = 3 then
    let path := q.path
    s.setQueue { q with state := 1, tries := 0, hold := none, waiting := false, part := none, ahead := q.ahead.filter fun f => f.path != path }
  else s

def qactSkip (s : State) (n : Nat) : State :=
  let q := s.queue n
  if q.state = 2 || q.state = 3 then
    let pkt := q.range.map Prod.fst
    let q := consumeSkip { q with state := 1, part := none, open_ := mapIf (fun p => some p.id == pkt) (fun p => { p with sent := true }) q.open_ }
    let b := q.cur
    settleQueue (s.setQueue (q.setCur { b with skip := b.skip - 1, zero := b.zero - 1 })) n
  else s

/-- QSENDs under way at a queue that stops find no slot any more. -/
def dropSlots (s : State) (n : Nat) : State :=
  takeKept { s with qsends := mapIf (fun e => e.queue == n) (fun e => { e with slot := none, wrote := [] }) s.qsends } n

def qactStop (s : State) (n : Nat) : State :=
  let s := dropSlots s n
  let q := s.queue n
  s.setQueue { q with state := 0, waiting := false, hold := none, range := none, hostKicks := [], part := none }

def execQactRetry (n : Nat) (s : State) : Res := .next (if n < 8192 then qactRetry s n else s)
def execQactSkip (n : Nat) (s : State) : Res := .next (if n < 8192 then qactSkip s n else s)
def execQactStop (n : Nat) (s : State) : Res := .next (if n < 8192 then qactStop s n else s)

/-- QCFG's value is legal: a size of 2^12 to 2^20, aligned, reserved bits zero (log 19). -/
def qcfgOk (v : W64) : Bool :=
  12 ≤ bits v 52 5 && bits v 52 5 ≤ 20 && bits v 0 12 == 0 && bits v 48 4 == 0 && bits v 57 3 == 0 && bits v 61 3 == 0

/-- QCFG, in the OFF state: the queue runs with head and tail 0; another value is ignored and leaves it OFF (log 73). Packets of the queue's former life are in no buffer of the
new one. -/
def writeQcfg (s : State) (n : Nat) (v : W64) : State :=
  let q := s.queue n
  if q.state != 0 || !qcfgOk v then s
  else s.setQueue { Queue.reset n with
    cfg := v, ctx := q.ctx, notify := q.notify, state := 1, resent := q.resent, dropped := q.dropped, ignored := q.ignored
    fault := q.fault, nextPkt := q.nextPkt + 1, deferred := q.deferred, adds := q.adds
    open_ := q.open_.map fun p => { p with buf := q.nextPkt, sent := true } }
def execQcfg (n : Nat) (v : W64) (s : State) : Res := .next (if n < 8192 then writeQcfg s n v else s)

def Queue.statusWord (q : Queue) : W64 :=
  BitVec.ofNat 64 (q.state % 8 + q.tries % 256 * 2 ^ 8 + q.resent.toNat * 2 ^ 16 + q.dropped.toNat * 2 ^ 32
    + boolNat q.ignored * 2 ^ 48)
def Queue.headWord (q : Queue) : W64 :=
  BitVec.ofNat 64 (q.ring.head % q.slots + q.ring.head % 65536 * 2 ^ 48)

def readQueue (s : State) (n off : Nat) : W64 :=
  let q := s.queue n
  match off with
  | 0x08 => q.headWord
  | 0x10 => q.statusWord
  | 0x18 => q.fault
  | 0x20 => q.cfg
  | 0x28 => BitVec.ofNat 64 q.ctx
  | 0x30 => BitVec.ofNat 64 q.notify
  | _ => 0

def writeQueue (s : State) (n off : Nat) (v : W64) (host : Bool) : State :=
  let q := s.queue n
  match off with
  | 0x00 => if host then hostKick s n v.toNat else kick s n v.toNat
  | 0x20 => writeQcfg s n v
  | 0x28 => if q.state = 0 then s.setQueue { q with ctx := bits v 0 12 } else s
  | 0x30 => s.setQueue { q with notify := bits v 0 48 }
  | 0x38 => match bits v 0 2 with
    | 1 => qactRetry s n
    | 2 => qactSkip s n
    | 3 => qactStop s n
    | _ => s
  | _ => s

end Sys2Proof.Machine
end

