-- ==== Sys2Proof/Machine/Driver.lean ====
section
/-! DEFINITION. The driver's page: creating and killing contexts, and shootdowns (R14, R164, R171, R174, R175, R415, R416). -/

namespace Sys2Proof.Machine

/-! Creation records (R415). -/

/-- Bytes at a physical or host-window address, poisoned ones as zero (R439), and little-endian fields of them. -/
def physBytes (s : State) (a n : Nat) : List Byte :=
  (List.range n).map fun i => if poisoned s (a + i) then 0 else readCell s.mem (a + i)
/-- The reader's poison events (R439), one a granule of a run. -/
def countRun (s : State) (a n : Nat) : State :=
  if n = 0 then s
  else (List.range ((a + n - 1) / 16 + 1 - a / 16)).foldl (fun s i =>
    let k := (a / 16 + i) * 16
    countPois s k (boolNat (poisoned s k))) s

def physField (s : State) (a n : Nat) : Nat := ofBytes (physBytes s a n)
def n16List (s : State) (a n : Nat) : List Nat := (List.range n).map fun i => physField s (a + 2 * i) 2

/-- A list that 0xFFFF ends. -/
def n16Until (s : State) (a : Nat) : Nat → List Nat
  | 0 => []
  | n + 1 => let x := physField s a 2
    if x = 0xFFFF then [] else x :: n16Until s (a + 2) n

def distinct (l : List Nat) : Bool :=
  match l with
  | [] => true
  | h :: t => !t.contains h && distinct t

/-- The cores of a grant, each with its package's place in the package list: package by package, each in compute-core order (R386). -/
def packageSort (l : List (Nat × Nat)) : List (Nat × Nat) := sortBy Prod.fst (sortBy (fun x => computeKey x.2) l)

/-- The lowest logical core of each core's cluster (R151). -/
def clusterHeads (grant : List (Nat × Nat)) : List Nat :=
  grant.map fun p => (firstIndex (fun q => q.1 == p.1 && clusterOf q.2 == clusterOf p.2) grant).getD 0

/-- An entry of the region list, where it is legal. -/
def regionOf (record id nc k : Nat) (e : W64) : Option Region :=
  let mode : RMode := match bits e 62 2 with
    | 0 => .opn | 1 => .atomic | 2 => .sealed | _ => .held
  let holder := bits e 32 16
  if bits e 60 2 != 0 || bits e 0 16 != 0 || bits e 16 16 == 0 || (mode == .held && nc ≤ holder) then none
  else some { ctx := id, base := (Config.regionUnit record k).toNat * 0x10000, units := bits e 16 16, mode := mode
              holder := if mode == .held then holder else 0 }

/-- Home core of a region's first 4 KiB. -/
def keeperOf (s : State) (root base : Nat) : Option Nat := (walk s root base).map fun (b, _, pa, _) => homePhys s.width (pa + (base - b))

/-- No home slice would keep more than 4,096 entries (R175). -/
def keepersFit (s : State) (root : Nat) (new : List Region) : Bool :=
  let old := s.regions.filterMap fun r => (s.ctx? r.ctx).bind fun x => keeperOf s x.root r.base
  let add := new.filterMap fun r => keeperOf s root r.base
  add.all fun k => ((old ++ add).filter (· == k)).length ≤ 4096

/-- A slot for a context at a core: one that no other context has there (R171; log 15). -/
def freeSlotOf (s : State) (id p : Nat) : Nat :=
  let used := (s.ctxs.filter fun x => x.grant.contains p).map fun x => x.slotAt p
  let free := (List.range 5).filter fun n => !used.contains n
  free.getD (Config.imageSlot id p % free.length) 0

/-- Contexts that a core is granted to. -/
def grantsOf (s : State) (p : Nat) : Nat := (s.ctxs.filter fun x => x.grant.contains p).length

/-- A free identifier; which one is the front end's (log 5). -/
def freeCtxId (s : State) : Option Nat :=
  ((List.range 4096).map fun i => ((Config.freeWord s.fresh).toNat + i) % 4096).find? fun n => (s.ctx? n).isNone

/-- A core's image in a new context: undefined where the manual says so (R121, R281, R300). -/
def newImage (id lc n : Nat) : CtxCore :=
  let x := CtxCore.reset id lc
  { x with
    b0 := deadBank Bank.reset n, b1 := deadBank Bank.reset (n + 128)
    tiles := Vector.ofFn fun (t : Fin 8) => { Tile.reset with rows := freeRows (n + 200 + 32 * t.val) }
    gear := { x.gear with latch := Config.freeLatch n, dbuf := Vector.ofFn fun (r : Fin 32) => Config.freeVec (n + 456 + r.val) }
    weft := { x.weft with
      latch := Vector.ofFn fun (k : Fin 320) => BitVec.ofNat 32 (tm24Canon (Config.freeTrit (n + k.val)).toNat)
      acc := Vector.ofFn fun (k : Fin 128) => BitVec.ofNat 32 (tm24Canon (Config.freeTrit (n + 320 + k.val)).toNat) } }

/-- The core table's entry of each logical core (R14). No window reaches a core of another package, whose entry is open (log 16). -/
def writeCoreTable (s : State) (x : Ctx) : State :=
  (List.range x.nc).foldl (fun s l =>
    let a := (Config.coreTableAddr x.id).toNat + 8 * l
    let e := match x.physAt l with
      | some p => localKey p 0
      | none => (Config.freeWord (s.fresh + l)).toNat % 2 ^ 48
    match walk s x.root a with
    | some (b, _, pa, _) => if a < 0x800000000000 then writePhys s (pa + (a - b)) (toBytes 8 e) else s
    | none => s) s

/-- The SEALED region of a context's core table (R14): the 64 KiB units that hold it. -/
def coreTableRegion (id nc : Nat) : Region :=
  let a := (Config.coreTableAddr id).toNat
  { ctx := id, base := a / 0x10000 * 0x10000, units := (a % 0x10000 + 8 * nc + 0xFFFF) / 0x10000, mode := .sealed, holder := 0 }

/-- The runs of bytes that the reader of a record takes: the record and its lists. -/
def recordRuns (s : State) (a : Nat) : List (Nat × Nat) :=
  let w (k : Nat) : Nat := physField s (a + 8 * k) 8
  let n := w 2 / 2 ^ 48
  [(a, 128), (w 2 % 2 ^ 48, 2 * n), (w 3, if w 3 = 0 then 0 else 2 * n),
   (w 4, if w 4 = 0 then 0 else 2 * min 65536 ((n16Until s (w 4) 65536).length + 1)), (w 5 % 2 ^ 48, 8 * (w 5 / 2 ^ 48)),
   (w 6 % 2 ^ 48, 2 * (w 6 / 2 ^ 48))]

/-- Host memory cannot be read while the link is down (R432). -/
def recordGone (s : State) (a : Nat) : Bool := (recordRuns s a).any fun r => r.2 != 0 && hostGone s r.1

/-- The quantum size of a record: 12 where log2 Q is 0. -/
def logQ (mode : Nat) : Nat := if mode / 256 % 32 = 0 then 12 else mode / 256 % 32

/-- The context that a record describes; none where the record is bad. -/
def recordCtx (s : State) (a id : Nat) : Option (Ctx × List Region) :=
  let w (k : Nat) : Nat := physField s (a + 8 * k) 8
  let mode := w 0
  let list := n16List s (w 2 % 2 ^ 48) (w 2 / 2 ^ 48)
  let here := if w 9 = 0 then 0 else Config.ownPackage a
  let all := packageSort (((List.range list.length).zip list).map fun (k, p) => (if w 9 = 0 then 0 else Config.grantPackage a k, p))
  let mine := all.filter fun x => x.1 == here
  let grant := mine.map Prod.snd
  let nc := all.length
  let supv := if w 3 = 0 then clusterHeads all else n16List s (w 3) nc
  let auth := if w 4 = 0 then [0] else n16Until s (w 4) 65536
  let regs := (List.range (w 5 / 2 ^ 48)).map fun k => regionOf a id nc k (BitVec.ofNat 64 (physField s (w 5 % 2 ^ 48 + 8 * k) 8))
  let kicks := n16List s (w 6 % 2 ^ 48) (w 6 / 2 ^ 48)
  let ok := mode / 2 ^ 13 == 0 && mode / 4 % 64 == 0 && 8 ≤ logQ mode && logQ mode ≤ 16
    && 1 ≤ nc && nc ≤ 65534 && distinct (all.map fun x => x.1 * 65536 + x.2) && (all.all fun x => isCompute (if x.1 == here then s.width else 1) x.2) && supv.all (· < nc) && auth.all (· < nc)
    && regs.all Option.isSome && kicks.all (· < 8192) && (mode / 2 % 2 == 1 || w 7 == 0)
    && (List.range 6).all fun k => w (10 + k) == 0
  if a % 64 = 0 && ok && !recordGone s a then
    some ({ id := id, det := mode % 2 == 1, q := 2 ^ logQ mode, dumpFirst := mode / 2 % 2 == 1, root := w 1, grant := grant, slots := grant.map (freeSlotOf s id)
            supv := supv, authority := auth, kicks := kicks, dump := w 7, record := w 8, packages := BitVec.ofNat 64 (w 9)
            dead := none, dying := none, dropLaunch := 0, dropWb := 0, quanta := 0, bounds := 0, collected := [], outbox := []
            before := (all.filter fun x => x.1 < here).length, after := (all.filter fun x => here < x.1).length },
          coreTableRegion id nc :: regs.filterMap fun r => r)
  else none

def createResult (s : State) (v : Nat) : State := { s with pkg := { s.pkg with createRes := BitVec.ofNat 64 v } }

/-- A context is made from its record. The new context runs on a core once that core switches to it (R163). -/
def createCtx (s : State) (a : Nat) : State :=
  match freeCtxId s with
  | none => createResult s (2 ^ 63 + 2)
  | some id =>
    let t := (recordRuns s a).foldl (fun s r => countRun s r.1 r.2) s
    match recordCtx s a id with
    | none => createResult t (2 ^ 63 + 1)
    | some (x, regs) =>
      let s := t
      if x.grant.any fun p => 5 ≤ grantsOf s p then createResult s (2 ^ 63 + 2)
      else if !keepersFit s x.root regs then createResult s (2 ^ 63 + 3)
      else
        let s1 := ((List.range x.grant.length).zip x.grant).foldl (fun (s : State) (l, p) =>
          let c := s.core p
          s.setCore { c with saved := c.saved ++ [newImage id (x.before + l) (s.fresh + 512 * l)], netWindow := 32 }) s
        let s1 := { s1 with ctxs := putBy Ctx.id s1.ctxs x, regions := s1.regions ++ regs, fresh := s1.fresh + 512 * x.grant.length }
        createResult { writeCoreTable s1 x with fresh := s1.fresh + x.nc } id

/-- A write of CTXCREATE (R415, R416); a front end that step 10 has not started does nothing (R436; log 98). -/
def ctxCreate (s : State) (record : Nat) : State := if s.pkg.front then createCtx s record else s
def execCtxcreate (record : W64) (s : State) : Res := .next (ctxCreate s record.toNat)

/-- A write of CTXKILL. -/
def killCtx (s : State) (v : W64) : State := tearDown s (bits v 0 12) (BitVec.ofNat 8 (bits v 8 8))
def execCtxkill (v : W64) (s : State) : Res := .next (killCtx s v)

/-! Shootdowns (R174). -/

/-- A write of SHOOTVA: the shootdown starts, behind those before it. -/
def startShoot (s : State) (v : W64) : State :=
  let arg := s.pkg.shootArg
  { s with pkg := { s.pkg with
    shoots := s.pkg.shoots ++ [{ ctx := bits arg 0 12, page := bits v 16 32, count := bits arg 16 16 }] } }
def execShootva (v : W64) (s : State) : Res := .next (startShoot s v)

def Shoot.covers (z : Shoot) (va : Nat) : Bool := z.page ≤ va / 65536 && va / 65536 < z.page + z.count

/-- A core has no access under way that uses a translation of these pages. -/
def shootQuiet (z : Shoot) (c : Core) : Bool :=
  let clear (p : Part) : Bool := p.done || !z.covers p.va
  c.cx.ctx != z.ctx
    || ((c.ops.all fun o => o.st == .done || o.parts.all clear)
      && engs.all fun e => match (c.eng e).run with
        | some x => x.rd.all clear && x.wr.all clear
        | none => true)

/-- An entry overlaps the pages. -/
def Shoot.hits (z : Shoot) (e : TlbEntry) : Bool :=
  e.ctx == z.ctx && e.va < (z.page + z.count) * 65536 && z.page * 65536 < e.va + e.size

/-- The same for an entry of a walk cache. -/
def Shoot.hitsWalk (z : Shoot) (e : WalkEntry) : Bool :=
  let size := if e.mid then 2 ^ 21 else 2 ^ 34
  e.ctx == z.ctx && e.place * size < (z.page + z.count) * 65536 && z.page * 65536 < (e.place + 1) * size

/-- SHOOTDOWN_COMPLETE: every core has invalidated the entries and its older accesses through them are over. -/
def execShootdownComplete (s : State) : Res :=
  .next (match s.pkg.shoots with
    | [] => s
    | z :: rest =>
      if s.cores.all (shootQuiet z) then
        { s with
          walkCache := s.walkCache.filter fun e => !z.hitsWalk e
          cores := s.cores.map fun c => { c with tlb := c.tlb.filter fun e => !z.hits e }
          pkg := { s.pkg with shoots := rest, shootDone := s.pkg.shootDone + 1 } }
      else s)

/-! The page's registers (R416). -/

def readDriver (s : State) (off : Nat) : W64 :=
  match off with
  | 0x00 => s.pkg.createRes
  | 0x10 => s.pkg.shootArg
  | 0x20 => s.pkg.shootDone
  | _ => 0

def writeDriver (s : State) (off : Nat) (v : W64) : State :=
  match off with
  | 0x00 => ctxCreate s v.toNat
  | 0x08 => killCtx s v
  | 0x10 => { s with pkg := { s.pkg with shootArg := BitVec.ofNat 64 (bits v 0 12 + bits v 16 16 * 2 ^ 16) } }
  | 0x18 => startShoot s v
  | _ => s

end Sys2Proof.Machine
end

