-- ==== Sys2Proof/Machine/EngTile.lean ====
section
/-! DEFINITION. Weft and gear commands as they run, gang steps and the drain buffer (R286-R298, R304-R320). -/

namespace Sys2Proof.Machine

/-! Weft commands. -/

/-- Go on with pick `x.row`: its eight reads. The whole tile has been checked (R286). Past pick 63 nothing remains to read. -/
def openPick (s : State) (phys : Nat) (x : Exec) : State :=
  let c := s.core phys
  if 64 ≤ x.row then s.setCore (c.setRun .weft (some { x with rd := [], got := [] }))
  else match keyParts s c .engRead 128 (partsOf (x.cmd.addr + 128 * x.row) 0 128) with
    | .error i => suspendRun s phys x i
    | .ok ps => s.setCore (c.setRun .weft (some { x with rd := ps, got := zeroBytes 128 }))

/-- A pick whose bytes are all read (R289-R291): `tests` is 1 on the pick that a resume reads again, `moved` counts picks
executed. -/
def runPick (s : State) (phys : Nat) (x : Exec) : State :=
  let c := s.core phys
  let w := c.cx.weft
  let j := x.row
  let next := { x with row := j + 1, tests := 0 }
  if skippable w j x.got then openPick s phys next
  else
    let ill := illegalRows x.got
    if !ill.isEmpty && !w.pol && x.tests = 0 then suspendRun s phys x (illegalWeight x.cmd.addr j x.got ill)
    else
      let w := applyPick { w with ill := sat16 w.ill ill.length } j x.got
      openPick (s.setCore { c with cx := { c.cx with weft := w } }) phys { next with moved := x.moved + 1 }

/-- Start of a weft command: an operand in mapped frames is checked (R286); WDRAIN checks its scales and its rows (R293). -/
def startWeft (s : State) (phys : Nat) (x : Exec) : State :=
  let c := s.core phys
  let k := x.cmd
  let put (x : Exec) : State := s.setCore (c.setRun .weft (some x))
  match k.ins with
  | .wload f => match access s (c.asOf k.id) .engRead k.addr (320 * f.typ.size) 0 with
    | .error i => endFault s phys .weft x i
    | .ok ps => put { x with rd := ps, got := zeroBytes (320 * f.typ.size) }
  | .wscl _ => match access s (c.asOf k.id) .engRead k.addr 256 0 with
    | .error i => endFault s phys .weft x i
    | .ok _ => put x
  | .wrun _ => match access s (c.asOf k.id) .engRead k.addr 8192 0 with
    | .error i => endFault s phys .weft x i
    | .ok _ => openPick s phys x
  | .wdrain _ =>
    let sp := c.cx.weft.sp.toNat
    if !ownRange sp 256 || sp % 2 != 0 then endFault s phys .weft x (addrFault sp .engRead 256)
    else match access s (c.asOf k.id) .engRead sp 256 0, access s (c.asOf k.id) .engWrite k.addr 512 256 with
      | .error i, _ => endFault s phys .weft x i
      | _, .error i => endFault s phys .weft x i
      | .ok a, .ok b => put { x with rd := a ++ b, got := zeroBytes 768 }
  | _ => put x

/-- After a read: a whole pick is applied; a WDRAIN that has read everything computes its rows, whose events wait in `moved`
and whose poisoned rows in `tests`. -/
def weftAfterRead (s : State) (phys : Nat) (x : Exec) : State :=
  let c := s.core phys
  if !x.readsDone then s.setCore (c.setRun .weft (some x))
  else match x.cmd.ins with
    | .wrun _ => runPick s phys x
    | .wdrain _ =>
      let (out, ev, n) := drainRows c.cx.weft (x.got.take 256) (x.got.drop 256) s.fresh
      let wr := (x.rd.filter fun p => 256 ≤ p.off).map fun p => { p with off := p.off - 256, done := false }
      let x := { x with rd := [], wr := wr, out := out, moved := ev.toNat, tests := n }
      ({ s with fresh := s.fresh + 128 } : State).setCore (c.setRun .weft (some x))
    | _ => s.setCore (c.setRun .weft (some x))

/-- What a finished weft command leaves of the array's state. -/
def weftResult (w : WeftSt) (x : Exec) : WeftSt :=
  match x.cmd.ins with
  | .wcfg f => weftCfg w (f.mod == 1)
  | .wzero _ => weftZero w
  | .wload f => weftLoad w f.typ.size x.got
  | .wscl _ => { w with sp := BitVec.ofNat 48 x.cmd.addr }
  | .wrun _ => if x.phase == .ending then w else endRun w x.moved
  | .wdrain f =>
    { weftZero w with prow := sat16 w.prow x.tests, sp := if f.mod = 1 then w.sp + 256 else w.sp }
  | .wstat f => if f.mod = 1 then { w with ill := 0, prow := 0 } else w
  | _ => w

def finishWeft (s : State) (phys : Nat) (x : Exec) : State :=
  let c := s.core phys
  let k := x.cmd
  let w := c.cx.weft
  let c1 := match k.ins with
    | .wstat f => c.bankResult k.bank k.task fun b => b.wd f.dst w.status
    | _ => c
  let c1 := { c1 with cx := { c1.cx with weft := weftResult w x } }.setRun .weft none
  let ev : Events := match k.ins with
    | .wdrain _ => BitVec.ofNat 5 x.moved
    | _ => 0
  keepReport phys .weft x (accrue (s.setCore c1) phys k.events ev)

/-! Gear commands. -/

/-- R308. -/
def gangForm (s : State) (c : Core) : Bool :=
  let t := trainCores (trainOf c.phys)
  match s.ctx? c.cx.ctx with
  | some x => t.all fun p => isCompute s.width p && x.grant.contains p
  | none => false

/-- The rows of an operand block as one access's parts (R304). -/
def blockParts (k : Cmd) : List Part :=
  let (n, len) := gearRows k.ins
  (List.range n).flatMap fun i => partsOf (rowAddr k.addr (k.b.setWidth 64).toInt i) (i * len) len
def blockBytes (k : Cmd) : Nat := (gearRows k.ins).1 * (gearRows k.ins).2

/-- A pass of a GST reads the vectors that its epilogue uses (R317): scales at place 0, biases at place 128. Before pass 1, whose
pointers are those that pass 0 was checked with, only an access that has come to fail since ends the command so. -/
def beginGst (s : State) (phys : Nat) (x : Exec) (f : Fields) : State :=
  let c := s.core phys
  let vector (use_ : Bool) (a off : Nat) : Except FaultInfo (List Part) :=
    if !use_ then .ok []
    else if a % 4 != 0 || !ownRange a 128 then .error (addrFault a .engRead 128)
    else match access s (c.asOf x.cmd.id) .engRead a 128 off with
      | .error _ => .error (addrFault a .engRead 128)
      | .ok ps => .ok ps
  match vector (epiScl f.mod.val) c.cx.gear.scale.toNat 0, vector (epiBias f.mod.val) c.cx.gear.bias.toNat 128 with
  | .error i, _ => endFault s phys .gear x i
  | _, .error i => endFault s phys .gear x i
  | .ok a, .ok b => s.setCore (c.setRun .gear (some { x with phase := .running, rd := a ++ b, got := zeroBytes 256 }))

def startGear (s : State) (phys : Nat) (x : Exec) : State :=
  let c := s.core phys
  let k := x.cmd
  let put (x : Exec) : State := s.setCore (c.setRun .gear (some x))
  let parts := checkParts s (c.asOf k.id) .engRead (gearRows k.ins).2 (blockParts k)
  match k.ins with
  | .gbld _ => match parts with
    | .error i => endFault s phys .gear x i
    | .ok ps => put { x with rd := ps, got := zeroBytes (blockBytes k) }
  | .gmm f =>
    let gang := f.mod = 1 && gangForm s c
    let x := { x with phase := if gang then .waitTrain else .running, got := zeroBytes (blockBytes k) }
    (match parts with
     | .error i => if gang then put { x with fault := some i } else endFault s phys .gear x i
     | .ok ps => put { x with rd := ps })
  | .gst f => if c.draining then put { x with phase := .waitBuffer } else beginGst s phys x f
  | _ => put x

/-- The multiplication of an executed GMM, or its fault: the latch tag (R307), else the A operand's. -/
def gmmFault (c : Core) (x : Exec) (f : Fields) : Option FaultInfo :=
  match x.fault with
  | some i => some i
  | none =>
    let g := c.cx.gear
    if g.ltag.toNat = f.typ.code then none
    else some { cause := 6, s5 := 0, s6 := 0, s7 := BitVec.ofNat 64 (g.ltag.toNat + f.typ.code * 16) }

def gmmApply (c : Core) (x : Exec) (f : Fields) : Core :=
  let n := tileNo f.dst
  let (a, b) := gmmStep f c.cx.gear (tileOf c.cx n) (tileOf c.cx (n + 1)) x.got
  let y := setTile c.cx n a
  { c with cx := if f.typ = .f64 then setTile y (n + 1) b else y }

/-- GRD (R314): the element, zero from a poisoned row, and the tile's held events. A pair keeps its events with the even
tile. -/
def grdResult (c : Core) (f : Fields) (b : Nat) : W64 × Bool × Events × CtxCore :=
  let n := tileNo f.opa
  let wide := f.typ == .f64
  let i := b / 32 % 32
  let j := b % 32
  let t := tileOf c.cx n
  let o := tileOf c.cx (n + 1)
  let pz := t.poison.getLsbD i || (wide && 16 ≤ j && o.poison.getLsbD i)
  let v := tileElem f.typ t o i j
  (if pz then 0 else BitVec.ofNat 64 v, pz, t.events, setTile c.cx n { t with events := 0 })

/-- The tile that a pass of a GST copies. -/
def gstTile (k : Cmd) (f : Fields) (pass : Nat) : Nat := if k.td = 12#4 then tileNo f.dst / 2 * 2 + pass else tileNo f.dst

/-- One pass into the drain buffer (R317): the core with the buffer filled and the tile released, and the events. -/
def gstCopy (c : Core) (x : Exec) (f : Fields) : Core × Events :=
  let k := x.cmd
  let wide := k.td == 12#4
  let pass := x.row
  let n := gstTile k f pass
  let t := tileOf c.cx n
  let (rows, ev) := gstPass f wide t (16 * pass) (consume (x.got.take 128)) (consume (x.got.drop 128))
  let ea := (k.addr + pass * 16 * f.typ.size) % 2 ^ 64
  let g := { c.cx.gear with
    dbuf := Vector.ofFn fun (i : Fin 32) => BitVec.ofNat 1024 (rows.getD i.val 0)
    dtop := Vector.ofFn fun (i : Fin 32) => BitVec.ofNat 1024 (rows.getD i.val 0 / 2 ^ 1024)
    drain0 := BitVec.ofNat 64 (ea % 2 ^ 48 + n * 2 ^ 48 + pass * 2 ^ 51 + f.typ.code * 2 ^ 52 + f.mod.val * 2 ^ 56
      + boolNat f.sat * 2 ^ 59 + f.rnd.code * 2 ^ 60 + 2 ^ 63)
    drain1 := BitVec.ofNat 64 (k.b.toNat % 2 ^ 32 + 0xFFFFFFFF * 2 ^ 32)
    drain2 := zextW 48 k.pc
    drain3 := t.poison.setWidth 64
    dbank := k.bank, dtask := k.task, dch := k.ch, dat := k.at_, did := k.id, dhigh := ea / 2 ^ 48, dwide := wide, dparts := [], dsent := [] }
  ({ c with cx := setTile { c.cx with gear := g } n { t with events := 0 } }, t.events ||| ev)

/-- End of a gear command, or of a pass. -/
def finishGear (s : State) (phys : Nat) (x : Exec) : State :=
  let c := s.core phys
  let k := x.cmd
  let gear (g : GearSt) : Core := { c with cx := { c.cx with gear := g } }
  let finish (s : State) (c1 : Core) (ev : Events) (run : Option Exec) : State :=
    keepReport phys .gear x (accrue (s.setCore (c1.setRun .gear run)) phys k.events ev)
  match k.ins with
  | .gcfg _ => finish s (gear { c.cx.gear with scale := k.a.setWidth 48, bias := k.b.setWidth 48 }) 0 none
  | .gbld f => finish s (gear { c.cx.gear with
      latch := BitVec.ofNat 16384 (ofBytes (x.got.map PByte.b)), ltag := BitVec.ofNat 4 f.typ.code, lpois := anyPois x.got }) 0 none
  | .gmm f => (match gmmFault c x f with
    | some i => endFault s phys .gear x i
    | none => finish s (gmmApply c x f) 0 none)
  | .gzero f =>
    let t := zeroTile (if f.mod = 1 then 12#4 else 11#4)
    finish s { c with cx := k.gzeroTiles.foldl (fun y n => setTile y n t) c.cx } 0 none
  | .grd f =>
    let (v, pz, ev, y) := grdResult c f k.b.toNat
    let s1 := countPois s (localKey phys 0) (boolNat pz)
    finish s1 (({ c with cx := y } : Core).bankResult k.bank k.task fun b => b.wd f.dst v) ev none
  | .gst f =>
    let (c1, ev) := gstCopy c x f
    finish s c1 ev (if x.passLeft then some { x with phase := .waitBuffer, row := 1, rd := [], got := [] } else none)
  | _ => finish s c 0 none

/-! Gang steps (R309-R311). -/

/-- The executing gang GMM of a core, in a phase. -/
def gangRun (c : Core) (ph : Phase) : Option (Exec × Fields) :=
  match c.gear.run with
  | some x => if x.phase = ph then (match x.cmd.ins with
    | .gmm f => some (x, f)
    | _ => none) else none
  | none => none

/-- A core is ready: its step GMM is at the head, and its A operand can be read (R309). -/
def gangReady (s : State) (p : Nat) : Bool :=
  match gangRun (s.core p) .waitTrain with
  | some (x, _) => x.rd.all fun q => (engRead s (s.core p) x.cmd.id q).isSome
  | none => false

/-- Note when a waiting core became ready (R311): `tests` is 1 from then on. -/
def markReady (s : State) (p : Nat) : State :=
  match gangRun (s.core p) .waitTrain with
  | some (x, _) =>
    if x.tests = 0 && gangReady s p then
      s.modCore p fun c => c.setRun .gear (some { x with tests := 1, since := waitClock s c.cx.ctx })
    else s
  | none => s

/-- When the first core of a train became ready, in its context's clock, with that context. -/
def gangSince (s : State) (t : Nat) : List (Nat × Nat) :=
  (trainCores t).filterMap fun p => match gangRun (s.core p) .waitTrain with
    | some (x, _) => if x.tests = 0 then none else some (x.since, (s.core p).cx.ctx)
    | none => none

/-- The limit of a step, in cc or boundaries (R311). -/
def gangLimitOf (s : State) (ctx : Nat) : Nat := if s.det ctx then Config.gangLimitQuanta else Config.gangLimit

/-- Has the step that a train waits for missed its limit? -/
def gangOver (s : State) (t : Nat) : Bool := (gangSince s t).any fun (n, x) => n + gangLimitOf s x ≤ waitClock s x

/-- GANG_STEP_START: all eight cores are ready, within the limit. -/
def gangStart (s : State) (t : Nat) : State :=
  let ps := trainCores t
  if ps.all (gangReady s) && !gangOver s t then
    ps.foldl (fun s p => s.modCore p fun c => { c with gear := { c.gear with
      run := c.gear.run.map fun x => { x with phase := .inStep } } }) s
  else s

/-- One core's end of a step: its product or its fault, the latch of the position before it, the step count. -/
def gangEndCore (s : State) (p : Nat) (before : GearSt) : State :=
  let c := s.core p
  match gangRun c .inStep with
  | none => s
  | some (x, f) =>
    let s := match gmmFault c x f with
      | some i => endFault s p .gear x i
      | none => s.setCore ((gmmApply c x f).setRun .gear none)
    s.modCore p fun c => { c with cx := { c.cx with gear := { c.cx.gear with
      latch := before.latch, ltag := before.ltag, lpois := before.lpois, steps := c.cx.gear.steps + 1 } } }

/-- GANG_STEP_END: every core has read its A block; all products are of the same latches, and every latch moves on. -/
def gangEnd (s : State) (t : Nat) : State :=
  let ps := trainCores t
  if ps.all fun p => match gangRun (s.core p) .inStep with
    | some (x, _) => x.readsDone
    | none => false then
    (List.range 8).foldl (fun s i =>
      let p := ps.getD i 0
      gangEndCore s p (gearOf (ps.getD ((i + 7) % 8) 0))) s
  else s
where
  gearOf (q : Nat) : GearSt := (s.core q).cx.gear

/-- A gang GMM's step times out (R311). -/
def gangDropCore (s : State) (p : Nat) : State :=
  let c := s.core p
  match gangRun c .waitTrain with
  | none => s
  | some (x, f) => (endFault s p .gear x (busyFault 1 0 3 (tileNo f.dst) (originOf s c x.cmd.pc).pc)).modCore p fun c =>
      { c with cx := { c.cx with gear := { c.cx.gear with lost := c.cx.gear.lost + 1 } } }

/-- GANG_TIMEOUT: every waiting GMM of the step ends (R311). -/
def gangLate (s : State) (t : Nat) : State := if gangOver s t then (trainCores t).foldl gangDropCore s else s

/-! The drain buffer (R318, R319). -/

def pendingRows (g : GearSt) : List Nat := (List.range 32).filter fun i => bit g.drain1 (32 + i)

/-- The parts of a row, checked; its alignment is its type's. -/
def rowParts (s : State) (c : Core) (i : Nat) : Except FaultInfo (List Part) :=
  let g := c.cx.gear
  let a := drainRowAddr g i
  let n := drainLen g
  if a % (drainTyp g).size != 0 then .error (addrFault a .engWrite n)
  else checkParts s (c.asOf g.did) .engWrite n ((partsOf a 0 n).map fun p => { p with va := p.va % 2 ^ 64 })

/-- Freeze the buffer at a row (R319). -/
def freezeBuffer (s : State) (phys : Nat) (i : FaultInfo) : State :=
  let c := s.core phys
  let g := c.cx.gear
  let info : FaultInfo :=
    { cause := 17, s5 := i.s5
      s6 := BitVec.ofNat 64 (bits g.drain1 32 32 + i.cause * 2 ^ 32 + bits g.drain0 48 3 * 2 ^ 40 + bits g.drain0 51 1 * 2 ^ 44)
      s7 := zextW 32 i.s6 }
  let d : Deferred := { id := g.did, info := info, bank := g.dbank, task := g.dtask, ch := g.dch, pc := g.drain2, retired := g.dat
                        eng := some .gear, behind := false }
  match c.pushDeferred (s.det c.cx.ctx) d with
  | none => s.setCore (c.noRoom (s.det c.cx.ctx) g.did)
  | some c => s.setCore { c with cx := { c.cx with gear := { g with drain0 := g.drain0 ||| (1#64 <<< 62) } } }

/-- The bytes of a row, undefined where it is poisoned (log 5). -/
def drainBytes (s : State) (g : GearSt) (i : Nat) : List PByte :=
  let pz := bit g.drain3 i
  let bs := (vecBytes (vget g.dbuf i 0) ++ vecBytes (vget g.dtop i 0)).take (drainLen g)
  (bs.zip (List.range bs.length)).map fun (b, j) => { b := if pz then Config.freeByte (s.fresh + j) else b, p := pz }

/-- A part of a row is stored; the last part of a row clears its bit, the last row empties the buffer. -/
def drainPut (s : State) (phys i n : Nat) (ps : List Part) (p : Part) : State :=
  let g := (s.core phys).cx.gear
  let free := (List.range ps.length).filter fun m => g.dparts.contains (i, m)
  let s := engWrite (reach s phys p true (lastInSector ps (n :: free) p)) phys g.did p (sub (drainBytes s g i) p.off p.len) (i + 1)
  let done := (i, n) :: g.dparts
  let whole := (List.range ps.length).all fun m => done.contains (i, m)
  let d1 := if whole then g.drain1 &&& ~~~ (1#64 <<< (32 + i)) else g.drain1
  let d0 := if whole && d1.toNat / 2 ^ 32 = 0 then g.drain0 &&& ~~~ (1#64 <<< 63) else g.drain0
  let g := { g with drain0 := d0, drain1 := d1, dparts := if whole then g.dparts.filter (fun x => x.1 != i) else done,
                    dsent := g.dsent.filter fun x => x != (i, n) }
  ({ s with fresh := s.fresh + 256 } : State).modCore phys fun c => { c with cx := { c.cx with gear := g } }

/-- GST_BUFFER_STORE of part k of those still to be stored, counted over the rows in ascending order. A part of local memory
waits for every lower row; no part of a row passes a lower row that fails its check. -/
def drainStep (s : State) (phys k : Nat) : State :=
  let c := s.core phys
  let g := c.cx.gear
  if !c.draining || c.drainHeld then s
  else if (pendingRows g).isEmpty then
    -- the supervisor has cleared the rows that remained (R319)
    s.setCore { c with cx := { c.cx with gear := { g with drain0 := g.drain0 &&& ~~~ (1#64 <<< 63) } } }
  else go (pendingRows g) k
where
  go : List Nat → Nat → State
    | [], _ => s
    | i :: rest, k =>
      let c := s.core phys
      let g := c.cx.gear
      match rowParts s c i with
      | .error f => if pendingRows g == i :: rest then freezeBuffer s phys f else s
      | .ok ps =>
        let todo := (List.range ps.length).filter fun n => !g.dparts.contains (i, n)
        match todo[k]? with
        | none => go rest (k - todo.length)
        | some n => match ps[n]? with
          | none => s
          | some p =>
            let loc := p.isLocal
            if (loc && pendingRows g != i :: rest) || !engMayWrite s c g.did p then s
            else if remotePart s c p && !g.dsent.contains (i, n) then
              -- its request leaves first (R390)
              if netFull s c [p] then s
              else s.setCore { c with cx := { c.cx with gear := { g with dsent := (i, n) :: g.dsent } } }
            else drainPut s phys i n ps p

end Sys2Proof.Machine
end

