-- ==== Sys2Proof/Machine/EngineEvents.lean ====
section
/-! DEFINITION. The events of the queued engines (R9, R48, R209, R239, R262-R275, R289-R296, R309-R319). -/

namespace Sys2Proof.Machine

/-- Tiles that a gear command writes, and the tile that a VMOV `.row` reads. -/
def Cmd.tilesWritten (k : Cmd) : List Nat := k.gmmTiles ++ k.gzeroTiles
def Cmd.tileRead (k : Cmd) : List Nat :=
  match k.ins with
  | .vmov f => if f.mod = 1 then [tileNo f.opa] else []
  | _ => []

/-- May the head of a queue start: every older acquire has completed (R52, R209), and a VMOV `.row` and the gear commands that write its tile
keep their issue order (R315). -/
def mayStartCmd (c : Core) (k : Cmd) : Bool :=
  c.acquired k.id
    && !(c.gear.cmds.any fun g => g.id < k.id && k.tileRead.any g.tilesWritten.contains)
    && !(c.vec.cmds.any fun v => v.id < k.id && v.tileRead.any k.tilesWritten.contains)

/-- An executing command that goes on after its wait: a GST whose buffer has emptied, before either pass, a resumed WRUN. -/
def continueCmd (s : State) (phys : Nat) (e : Eng) (x : Exec) : State :=
  match e, x.cmd.ins with
  | .gear, .gst f => if x.phase == .waitBuffer && !(s.core phys).draining then beginGst s phys x f else s
  | .weft, .wrun _ => if x.phase == .running && x.rd.isEmpty && x.row < 64 then openPick s phys x else s
  | _, _ => s

def startCmd (s : State) (phys : Nat) (e : Eng) (k : Cmd) (rest : List Cmd) : State :=
  let s1 := s.setCore ((s.core phys).setEng e { waiting := rest, run := none })
  let x := mkExec k
  match e with
  | .vec => startVec s1 phys x
  | .shu => (startShu s1 phys x).getD s
  | .weft => startWeft s1 phys x
  | .gear => startGear s1 phys x

/-- ENGINE_COMMAND_START. -/
def execEngineCommandStart (phys : Nat) (e : Eng) (s : State) : Res :=
  let c := s.core phys
  let q := c.eng e
  .next (match q.run, q.waiting with
    | some x, _ => continueCmd s phys e x
    | none, [] => s
    | none, k :: rest => if mayStartCmd c k then startCmd s phys e k rest else s)

/-- A read of part k: its request first, where another core's home serves it (R390); for the shuttle, the place after the opened rows'
reads opens the next row. -/
def engReadStep (s : State) (phys : Nat) (e : Eng) (x : Exec) (k : Nat) : State :=
  let c := s.core phys
  match x.rd[k]? with
  | none =>
    if e == .shu && k == x.rd.length && x.fault.isNone && x.token.isNone && x.row < x.total then
      ((openRow s phys x).map fun (y, t) => t.setCore ((t.core phys).setRun .shu (some y))).getD s
    else s
  | some p =>
    if p.done || (e == .shu && !shuMayRead c x p) then s
    else
      let ks := mates x.cmd.unitStride x.rd k
      let ps := ks.filterMap fun j => x.rd[j]?
      if hostGone s p.key then hostLost s phys e x k p
      else match ps.mapM fun q => engRead s c x.cmd.id q with
      | none => s
      | some got =>
        if toSend s c x.rd ks then
          if netFull s c ps then s else s.setCore (c.setRun e (some { x with rd := sentParts x.rd ks }))
        else
        let consumes : Bool := match x.cmd.ins with
          | .gst _ => true
          | _ => e == .vec
        let s := if consumes then countPois s p.key (boolNat (got.any anyPois)) else s
        let s := reach s phys p false (lastInSector x.rd ks p)
        let y := (ks.zip (ps.zip got)).foldl (fun (y : Exec) (j, q, bs) => y.takeRead j q bs) x
        match e with
        | .shu => s.setCore ((s.core phys).setRun .shu (some (shuSettle y)))
        | .weft => weftAfterRead s phys y
        | _ => s.setCore ((s.core phys).setRun e (some y))

/-- Which parts a write of part k writes: none while it must wait. Of a vector store's elements and a drain's rows the lower ones go
first where they must. -/
def writeParts (s : State) (c : Core) (e : Eng) (x : Exec) (k : Nat) (p : Part) : Option (List Nat) :=
  match e with
  | .vec =>
    let ks := mates x.cmd.unitStride x.wr k
    if (x.wr.take k).any (fun q => !q.done && overlap q p) || !(ks.filterMap fun j => x.wr[j]?).all (engMayWrite s c x.cmd.id)
    then none else some ks
  | .shu => if shuMayWrite s c x k p then some [k] else none
  | .weft => if !((x.wr.take k).all Part.done) || !engMayWrite s c x.cmd.id p then none else some [k]
  | .gear => none

/-- A write of part k. -/
def engWriteStep (s : State) (phys : Nat) (e : Eng) (x : Exec) (k : Nat) : State :=
  let c := s.core phys
  match x.wr[k]? with
  | none => s
  | some p =>
    if p.done then s
    else match writeParts s c e x k p with
      | none => s
      | some ks =>
        let ps := ks.filterMap fun j => x.wr[j]?
        if toSend s c x.wr ks && !(e == .shu && x.pools p) then
          if netFull s c ps then s else s.setCore (c.setRun e (some { x with wr := sentParts x.wr ks }))
        else
          let s := match e with
            | .shu => shuWrite s phys x k p
            | _ => engWriteAll (reach s phys p true (lastInSector x.wr ks p)) phys x.cmd.id (ps.map fun q => (q, sub x.out q.off q.len))
          let y := (ks.zip ps).foldl (fun (y : Exec) (j, q) => y.tookWrite j q) x
          s.setCore ((s.core phys).setRun e (some (if e == .shu then shuSettle y else y)))

/-- ENGINE_ACCESS_PERFORM. -/
def execEngineAccessPerform (phys : Nat) (e : Eng) (acc : EngAcc) (s : State) : Res :=
  .next (match ((s.core phys).eng e).run with
    | none => s
    | some x =>
      if x.phase != .running && x.phase != .inStep then s
      else match acc with
        | .rd k => engReadStep s phys e x k
        | .wr k => engWriteStep s phys e x k)

/-- ENGINE_COMMAND_FINISH: a vector, weft or gear command ends, or a report that found no room is made. -/
def execEngineCommandFinish (phys : Nat) (e : Eng) (s : State) : Res :=
  let c := s.core phys
  .next (match (c.eng e).run with
    | none => s
    | some x =>
      match x.phase, x.fault with
      | .faulted, some i =>
        let run : Bool := match x.cmd.ins with
          | .wrun _ => x.tests == 2
          | _ => false
        if !c.roomFor (s.det c.cx.ctx) x.cmd.id then s.setCore (c.noRoom (s.det c.cx.ctx) x.cmd.id)
        else if run then suspendRun s phys x i
        else
          let s := endFault s phys e x i
          if i.cause = 13 && x.passLeft then
            s.modCore phys fun c => c.setRun e (some { x with phase := .waitBuffer, row := 1, fault := none })
          else s
      | _, _ =>
        if !x.partsDone then s
        else match e, x.cmd.ins with
          | .vec, _ => finishVec s phys x
          | .weft, .wrun _ => if x.phase == .ending || (x.phase == .running && 64 ≤ x.row) then finishWeft s phys x else s
          | .weft, _ => finishWeft s phys x
          | .gear, _ => if x.phase == .running then finishGear s phys x else s
          | .shu, _ => s)

/-- TOKEN_WRITE. -/
def execTokenWrite (phys : Nat) (s : State) : Res :=
  .next (match (s.core phys).shu.run with
    | some x => tokenWrite s phys x
    | none => s)

/-- The CPYL that waits on its flag, in free mode. -/
def waitingCpyl (s : State) (phys : Nat) : Option Exec :=
  match (s.core phys).shu.run with
  | some x => if x.phase = .waitFlag && !s.det (s.core phys).cx.ctx then some x else none
  | none => none

/-- May the waiting CPYL test its flag: for the first time, in any cc under `.full`, or 64 cc apart, up to its limit (R269)? -/
def testDue (s : State) (x : Exec) : Bool :=
  x.tests == 0 || (s.cc ≤ x.since + x.cmd.limit false && (x.cmd.fields.mod == 0 || x.since + 64 * x.tests ≤ s.cc))

/-- CPYL_FLAG_TEST. -/
def execCpylFlagTest (phys : Nat) (s : State) : Res :=
  .next (match waitingCpyl s phys with
    | none => s
    | some x => if testDue s x then testStep s phys x (x.tests == 0 && x.cmd.limit false == 0) else s)

/-- CPYL_TIMEOUT: the last test. Time does not pass it (`settleDue`). -/
def execCpylTimeout (phys : Nat) (s : State) : Res :=
  .next (match waitingCpyl s phys with
    | none => s
    | some x => if x.tests != 0 && x.since + x.cmd.limit false ≤ s.cc then testStep s phys x true else s)

def execGangStepStart (train : Nat) (s : State) : Res := .next (gangStart s train)
def execGangStepEnd (train : Nat) (s : State) : Res := .next (gangEnd s train)
/-- GANG_TIMEOUT in free mode; a deterministic context counts boundaries. -/
def execGangTimeout (train : Nat) (s : State) : Res :=
  .next (if (gangSince s train).any fun x => s.det x.2 then s else gangLate s train)

def execGstBufferStore (phys part : Nat) (s : State) : Res := .next (drainStep s phys part)

end Sys2Proof.Machine
end

