-- ==== Sys2Proof/Machine/Integer.lean ====
section
/-! DEFINITION. Class 0, the integer instructions (R126-R128). -/

namespace Sys2Proof.Machine

/-- d := g a b. -/
def int2 (f : Fields) (g : W64 → W64 → W64) : State → State :=
  run f fun s => .done (wres s f.dst (g (rd s f f.opa) (rd s f f.opb)))
/-- d := g a. -/
def int1 (f : Fields) (g : W64 → W64) : State → State :=
  run f fun s => .done (wres s f.dst (g (rd s f f.opa)))
/-- A long-latency d := g a b. -/
def intL (i : Instr) (f : Fields) (g : W64 → W64 → W64) : State → State :=
  run f fun s => .done (pushResult s i f ((g (rd s f f.opa) (rd s f f.opb)).setWidth 128) 0)

def execAdd (f : Fields) (s : State) : Res := .next (int2 f (fun a b => narrow64 f.sat (a.toInt + b.toInt)) s)
def execSub (f : Fields) (s : State) : Res := .next (int2 f (fun a b => narrow64 f.sat (a.toInt - b.toInt)) s)
def execMul (f : Fields) (s : State) : Res := .next (int2 f (fun a b => narrow64 f.sat (a.toInt * b.toInt)) s)
def execMulh (f : Fields) (s : State) : Res :=
  .next (int2 f (fun a b => BitVec.ofInt 64 (a.toInt * b.toInt / 2 ^ 64)) s)
def execMulhn (f : Fields) (s : State) : Res :=
  .next (int2 f (fun a b => BitVec.ofNat 64 (a.toNat * b.toNat / 2 ^ 64)) s)
def execDiv (f : Fields) (s : State) : Res := .next (intL (.div f) f (divW f.sat) s)
def execDivn (f : Fields) (s : State) : Res := .next (intL (.divn f) f divnW s)
def execRem (f : Fields) (s : State) : Res := .next (intL (.rem f) f remW s)
def execRemn (f : Fields) (s : State) : Res := .next (intL (.remn f) f remnW s)
def execAnd (f : Fields) (s : State) : Res := .next (int2 f (fun a b => a &&& b) s)
def execOr (f : Fields) (s : State) : Res := .next (int2 f (fun a b => a ||| b) s)
def execXor (f : Fields) (s : State) : Res := .next (int2 f (fun a b => a ^^^ b) s)
def execAndn (f : Fields) (s : State) : Res := .next (int2 f (fun a b => a &&& ~~~ b) s)
def execShl (f : Fields) (s : State) : Res := .next (int2 f (fun a b => shlW f.sat a (bits b 0 6)) s)
def execShr (f : Fields) (s : State) : Res := .next (int2 f (fun a b => a >>> bits b 0 6) s)
def execSar (f : Fields) (s : State) : Res := .next (int2 f (fun a b => a.sshiftRight (bits b 0 6)) s)
def execRol (f : Fields) (s : State) : Res := .next (int2 f (fun a b => a.rotateLeft (bits b 0 6)) s)
def execClz (f : Fields) (s : State) : Res := .next (int1 f clzW s)
def execCtz (f : Fields) (s : State) : Res := .next (int1 f ctzW s)
def execPopc (f : Fields) (s : State) : Res := .next (int1 f popW s)
def execMin (f : Fields) (s : State) : Res := .next (int2 f (fun a b => if a.toInt ≤ b.toInt then a else b) s)
def execMinn (f : Fields) (s : State) : Res := .next (int2 f (fun a b => if a.toNat ≤ b.toNat then a else b) s)
def execMax (f : Fields) (s : State) : Res := .next (int2 f (fun a b => if a.toInt ≤ b.toInt then b else a) s)
def execMaxn (f : Fields) (s : State) : Res := .next (int2 f (fun a b => if a.toNat ≤ b.toNat then b else a) s)
def execAbs (f : Fields) (s : State) : Res := .next (int1 f (fun a => narrow64 f.sat a.toInt.natAbs) s)
def execSel (f : Fields) (s : State) : Res :=
  .next (run f (fun s => .done (wres s f.dst (if (rdP s f.opc).getLsbD 0 then rd3 s f f.opa else rd3 s f f.opb))) s)
def execMov (f : Fields) (s : State) : Res := .next (int1 f (fun a => a) s)
/-- MOVI `.lo` sign-extends imm; `.hi` puts it above a<31:0>. -/
def execMovi (f : Fields) (s : State) : Res :=
  .next (run f (fun s => .done (wres s f.dst
    (if f.mod = 0 then f.imm.signExtend 64
     else (f.imm.setWidth 64 <<< 32) ||| zextW 32 (rd s f f.opa)))) s)
def execLea (f : Fields) (s : State) : Res :=
  .next (run f (fun s => .done (wres s f.dst
    (rd s f f.opa + (rd s f f.opb <<< f.mod.val) + BitVec.ofInt 64 (immI false f)))) s)
def execSext (f : Fields) (s : State) : Res := .next (int1 f (sextW (8 * f.typ.size)) s)
def execZext (f : Fields) (s : State) : Res := .next (int1 f (zextW (8 * f.typ.size)) s)
def execBfx (f : Fields) (s : State) : Res := .next (int2 f (bfxW (f.mod = 1)) s)
def execBfi (f : Fields) (s : State) : Res :=
  .next (run f (fun s => .done (wres s f.dst (bfiW (rd3 s f f.opa) (rd3 s f f.opb) (rd3 s f f.opc)))) s)
def execCmp (f : Fields) (s : State) : Res :=
  .next (run f (fun s =>
    let val (w : W64) : Int := if f.typ = .n64 then (w.toNat : Int) else w.toInt
    .done (wpred s f.dst (splatP (intCond f.mod.val (val (rd s f f.opa)) (val (rd s f f.opb)))))) s)

end Sys2Proof.Machine
end

