-- ==== Sys2Proof/Machine/LoupeUnit.lean ====
section
/-! DEFINITION. The loupe: stop, restart and step, delegation, and its registers (R420-R428). -/

namespace Sys2Proof.Machine

/-- A stop request (R423): at once in free mode, at the next boundary on every core of a deterministic context (R425). -/
def stopCore (s : State) (phys : Nat) : State :=
  let c := s.core phys
  if s.det c.cx.ctx then s.setCore { c with loupe := { c.loupe with stopReq := true } }
  else haltCore s phys

/-- LCTL ends the stop (R424): issue restarts, once no freeze holds the core either. An action that waited for this takes effect. -/
def resumeCore (s : State) (phys : Nat) : State :=
  let c := s.core phys
  if c.loupe.stopped then
    let s := s.setCore { c with loupe := { c.loupe with freed := true } }
    match c.cx.frz.accepted with
    | some a => if s.det c.cx.ctx then s else takeAction s phys a
    | none => s.modCore phys Core.leaveStop
  else s

/-- One instruction, then a stop with reason 5 (R424). -/
def stepCore (s : State) (phys : Nat) : State :=
  (resumeCore s phys).modCore phys fun c => { c with loupe := { c.loupe with stepping := true } }

/-- LDELEG (R420, R421): without the valid bit every breakpoint and watchpoint is disarmed and trace goes off. -/
def delegate (l : Loupe) (v : W64) : Loupe :=
  let l := { l with deleg := v.setWidth 13 }
  if bit v 12 then l
  else { l with bp := l.bp.map (zextW 48), wp := l.wp.map (zextW 53) }.traceOff

def guarded (s : State) (w : Party) (phys off : Nat) (g : State → State) : State :=
  if phys < 37376 && debugRight s w true phys off then g s else s

def execLctlStop (phys : Nat) (w : Party) (s : State) : Res := .next (guarded s w phys 0xF800 (stopCore · phys))
def execLctlResume (phys : Nat) (w : Party) (s : State) : Res := .next (guarded s w phys 0xF800 (resumeCore · phys))
def execLctlStep (phys : Nat) (w : Party) (s : State) : Res := .next (guarded s w phys 0xF800 (stepCore · phys))
def execLdeleg (phys : Nat) (v : W64) (w : Party) (s : State) : Res :=
  .next (guarded s w phys 0xF850 fun s => s.modCore phys fun c => { c with loupe := delegate c.loupe v })
def execLdclr (phys : Nat) (w : Party) (s : State) : Res :=
  .next (guarded s w phys 0xF870 fun s => s.modCore phys fun c => { c with dacc := Vector.replicate 64 0 })

/-! The registers (R422), by offset in the window. -/

/-- LSTAT. -/
def Loupe.stat (l : Loupe) : W64 :=
  BitVec.ofNat 64 (boolNat l.stopped + l.reason.toNat * 2 + boolNat l.sbank * 16 + bits l.spc 0 48 * 2 ^ 16)

def loupeWord (c : Core) (off : Nat) : W64 :=
  let l := c.loupe
  if off = 0xF800 then BitVec.ofNat 64 (boolNat l.armed * 8)
  else if off = 0xF808 then l.stat
  else if 0xF810 ≤ off && off < 0xF830 then vget l.bp ((off - 0xF810) / 8) 0
  else if 0xF830 ≤ off && off < 0xF850 then vget l.wp ((off - 0xF830) / 8) 0
  else if off = 0xF850 then l.deleg.setWidth 64
  else if off = 0xF858 then l.trc.setWidth 64
  else if off = 0xF860 then l.tbase.setWidth 64
  else if off = 0xF868 then BitVec.ofNat 64 (l.tptr.toNat + boolNat l.twrap * 2 ^ 63)
  else if 0xFC00 ≤ off && off < 0xFE00 then vget c.dacc ((off - 0xFC00) / 8) 0
  else 0

/-- A write of a loupe register by a party with the right to it. LTBASE can be written while trace is off, and starts the
ring anew. -/
def writeLoupe (s : State) (phys off : Nat) (v : W64) (w : Party) : State :=
  let put (g : Loupe → Loupe) : State := s.modCore phys fun c => { c with loupe := g c.loupe }
  if off = 0xF800 then
    let s := put fun l => { l with armed := bit v 3 }
    let s := if bit v 0 then stopCore s phys else s
    let s := if bit v 1 then resumeCore s phys else s
    if bit v 2 then stepCore s phys else s
  else if 0xF810 ≤ off && off < 0xF830 then put fun l => { l with bp := vset l.bp ((off - 0xF810) / 8) (zextW 49 v) }
  else if 0xF830 ≤ off && off < 0xF850 then put fun l => { l with wp := vset l.wp ((off - 0xF830) / 8) (zextW 54 v) }
  else if off = 0xF850 then put fun l => delegate l v
  else if off = 0xF858 then put fun l => let l := { l with trc := v.setWidth 3 }; if bit v 0 then l else l.traceOff
  else if off = 0xF860 then
    if (s.core phys).loupe.trc.getLsbD 0 then s
    else put fun l => { l with tbase := v.setWidth 53, tctx := windowCtx s phys w, tptr := 0, twrap := false }
  else if off = 0xF870 then
    if bit v 0 then s.modCore phys fun c => { c with dacc := Vector.replicate 64 0 } else s
  else s

/-! The rest of the window (R156). -/

def dbgStatus (c : Core) (x : CtxCore) : W64 :=
  BitVec.ofNat 64 (boolNat x.frz.frozen + boolNat (x.frz.cause == 13 && x.frz.frozen) * 2 + boolNat c.loupe.stopped * 4
    + boolNat x.frz.accepted.isSome * 8 + boolNat x.frz.ignored * 16 + x.frz.cause % 256 * 2 ^ 8 + x.frz.seq.toNat * 2 ^ 16)

/-- Read an aligned word of a core's window, as an accessor of a context sees it; one without an image here sees the running one
(log 84). -/
def debugRead (s : State) (phys off ctx : Nat) : W64 :=
  let c := s.core phys
  let x := (imageOf c ctx).getD c.cx
  if off < 0xE000 then imageWord x off
  else if off = 0xF000 then dbgStatus c x
  else if off = 0xF010 then BitVec.ofNat 64 (min 4 x.frz.queue.length)
  else if off = 0xF018 then c.fetchDrop
  else if 0xF040 ≤ off && off < 0xF078 then vget x.frz.packet ((off - 0xF040) / 8) 0
  else if 0xF800 ≤ off then loupeWord c off
  else 0

/-- Write an aligned word of a core's window. -/
def debugWrite (s : State) (phys off : Nat) (v : W64) (w : Party) : State :=
  let c := s.core phys
  if off < 0xE000 then
    match imageOf c (windowCtx s phys w) with
    | some x => s.setCore (c.setCx (setImageWord x off v))
    | none => s
  else if off = 0xF008 then
    let a : Option Act := match bits v 0 2 with
      | 1 => some .resume
      | 2 => some .skip
      | 3 => some .stop
      | _ => none
    dbgWrite s phys (BitVec.ofNat 16 (bits v 48 16)) a w
  else if 0xF800 ≤ off then writeLoupe s phys off v w
  else s

end Sys2Proof.Machine
end

