-- ==== Sys2Proof/Machine/Package.lean ====
section
/-! DEFINITION. The package: links, boot, alarms, power, errors, and the network's periods (R119, R391, R392, R429-R440). -/

namespace Sys2Proof.Machine

/-! Links (R432, R433). -/

/-- The link goes down; host requests in flight are lost. -/
def execUcieLinkDown (s : State) : Res := .next { s with pkg := { s.pkg with ucieUp := false, hostOps := [] } }
def execUcieRetrain (s : State) : Res :=
  .next { s with pkg := { s.pkg with ucieUp := true, lost := [], retrains := s.pkg.retrains + 1 } }

/-- The die's link is down, and the packets in flight on it are dropped (R433). -/
def execRhohimenLinkFail (die : Nat) (s : State) : Res :=
  let p := s.pkg
  .next ((p.onLink.filter fun x => x.1 == die).foldl (fun s x => dropCross s x.2)
    { s with pkg := { p with rhoUp := p.rhoUp &&& ~~~ (1#8 <<< die), onLink := p.onLink.filter fun x => x.1 != die } })

/-! Alarms (R437, R438). -/

/-- Every context is torn down at once, as the reset that follows lets nothing drain. -/
def tearAllNow (s : State) (cause : BitVec 8) : State :=
  s.ctxs.foldl (fun s x =>
    let c := x.dead.getD cause
    let s := if x.dumpFirst && x.dead.isNone then writeDump s x c else s
    let s := markDead s x.id c
    match s.ctx? x.id with
    | some y => releaseCtx s y c
    | none => s) s

/-- A security alarm. -/
def alarm (s : State) (cause : Nat) : State :=
  let s := tearAllNow s 0xFF#8
  let p := s.pkg
  { s with pkg := { p with
    bootrec := BitVec.ofNat 64 (bits p.bootrec 0 40 + 2 ^ 40 + cause % 16 * 2 ^ 41)
    secrets := if Config.eraseOnAlarm then List.replicate p.secrets.length 0 else p.secrets
    hold := true, retry := false } }

def execTamperSensor (s : State) : Res := .next (alarm s 2)
def execGlitchDetected (s : State) : Res := .next (alarm s 3)

/-! The configuration table (R434). -/

def tableWord (t : List W64) (i : Nat) : W64 := t.getD i 0
def roleAt (t : List W64) (k : Nat) : Nat := bits (tableWord t (8 + k / 16)) (4 * (k % 16)) 4

/-- The rules of R434. -/
def tableOk (t : List W64) : Bool :=
  let w0 := tableWord t 0
  let width := bits w0 8 4
  let rolesOf (d : Nat) : List Nat := (List.range 256).map fun i => roleAt t (256 * d + i)
  bits w0 24 40 == 0 && bits w0 12 4 == 0 && 1 ≤ width && width ≤ 4 && bits w0 0 8 == 0x5E
    && ((List.range 7).all fun i => tableWord t (1 + i) == 0) && ((List.range 120).all fun i => tableWord t (136 + i) == 0)
    && ((List.range 2048).all fun k => roleAt t k ≤ 4 && (k % 256 / 64 < width || roleAt t k == 0))
    && ((List.range 8).all fun d => (rolesOf d).contains 1 && (rolesOf d).contains 2 && (rolesOf d).contains 4)
    && ((List.range 2048).filter fun k => roleAt t k == 3).length == 1

/-! Boot (R436). -/

def recState (r : W64) (k : Nat) : Nat := bits r (4 * k - 4) 2
def recFb (r : W64) (k : Nat) : Bool := bit r (4 * k - 2)
def setRec (r : W64) (k st : Nat) (fb : Bool) : W64 :=
  BitVec.ofNat 64 (r.toNat - bits r (4 * k - 4) 4 * 2 ^ (4 * k - 4) + (st + boolNat fb * 4) * 2 ^ (4 * k - 4))

def optionalStep (k : Nat) : Bool := k == 5 || k == 8 || k == 9

/-- The minimum version accepted (R435). -/
def minVersion (p : Package) (table : List W64) : Nat := max p.minver.toNat (bits (tableWord table 0) 16 8)

/-- Does a signature hold under the fused root key (R435)? -/
def Package.signed (p : Package) (body sig : List Byte) : Bool := Config.lmsHolds p.rootKey body sig
def tableBytes (t : List W64) : List Byte := t.flatMap fun w => toBytes 8 w.toNat

/-- The table in use once step 3 has run. -/
def tableInUse (p : Package) : List W64 := if recFb p.bootrec 3 then defaultTable else p.table

/-- A firmware image that is refused: its signature fails, or its version is too low (R435). -/
def refusedImage (p : Package) (x : Signed) : Bool := !p.signed x.body x.sig || x.version.toNat < minVersion p (tableInUse p)

/-- What a step, or its fallback, does; none where it fails. -/
def bootStep (p : Package) (k : Nat) (fb : Bool) : Option Package :=
  match k with
  | 5 => some { p with tierOff := false }
  | 10 => some { p with front := true }
  | 3 => if fb then some { p with width := 1 }
    else if tableOk p.table && p.signed (tableBytes p.table) p.tableSig then some { p with width := bits (tableWord p.table 0) 8 4 } else none
  | 6 => if refusedImage p (if fb then p.fwB else p.fwA) then none else some p
  | 7 => some { p with ucieUp := true, lost := [] }
  | 8 => some { p with rhoUp := 0xFF#8 }
  | _ => some p

/-- How a step of the pseudocode ends. -/
inductive Boot
  | on (s : State)
  | off (s : State)

/-- Step k of a start in which the steps `fails` fail. -/
def bootOne (fails : List Nat) (s : State) (k : Nat) : Boot :=
  let p := s.pkg
  let started := recState p.bootrec k == 1
  if started && recFb p.bootrec k && !optionalStep k then .off (alarm s 5)
  else
    let fb := recFb p.bootrec k || started
    let p := { p with bootrec := setRec p.bootrec k (recState p.bootrec k) fb }
    if fb && optionalStep k then
      .on { s with pkg := { p with
        bootrec := setRec p.bootrec k 3 fb, tierOff := p.tierOff || k == 5, rhoUp := if k = 8 then 0 else p.rhoUp } }
    else
      let p := { p with bootrec := setRec p.bootrec k 1 fb }
      match (if fails.contains k then none else bootStep p k fb) with
      | some q => .on { s with pkg := { q with bootrec := setRec q.bootrec k 2 fb } }
      | none =>
        -- a failure of the self-check holds the package until the next start
        let s := { s with pkg := { p with hold := k == 1, retry := k == 1 } }
        if k = 6 && fb && !fails.contains k && refusedImage p p.fwA && refusedImage p p.fwB then .off (alarm s 1) else .off s

def bootFrom (fails : List Nat) : State → List Nat → State
  | s, [] => s
  | s, k :: ks => match bootOne fails s k with
    | .on s' => bootFrom fails s' ks
    | .off s' => s'

def execPowerOn (fails : List Nat) (s : State) : Res :=
  .next (if s.pkg.hold && !s.pkg.retry then s
    else bootFrom fails { s with pkg := { s.pkg with hold := false, retry := false, front := false } } [1, 2, 3, 4, 5, 6, 7, 8, 9, 10])

/-- The sideband writes the record and the alarm bits. -/
def execBootrecWrite (v : W64) (s : State) : Res := .next { s with pkg := { s.pkg with bootrec := v &&& 0x1F7777777777#64 } }

/-- Removal of power: all is as after reset but what the key store, the fuses and the tables hold. -/
def execPowerRemoved (s : State) : Res :=
  .next { State.reset with
    fresh := s.fresh, agenda := s.agenda
    pkg := { Package.reset with
      bootrec := s.pkg.bootrec, table := s.pkg.table, tableSig := s.pkg.tableSig, rootKey := s.pkg.rootKey, minver := s.pkg.minver
      secrets := s.pkg.secrets
      fwA := s.pkg.fwA, fwB := s.pkg.fwB } }

/-! Power and cooling (R438). The sensors' values are the package's (log 5). -/

def senseAll (s : State) : State :=
  { s with
    fresh := s.fresh + 9
    errs := Vector.ofFn fun (d : Fin 8) => { s.errs[d] with
      power := (Config.freeWord s.fresh).setWidth 12, temp := (Config.freeWord (s.fresh + 1 + d.val)).setWidth 8 } }

/-- One step of 175 MHz, from 1,400 MHz to no lower than 700. -/
def execPowerThrottle (s : State) : Res :=
  let s := senseAll s
  .next { s with pkg := { s.pkg with throttle := if s.pkg.throttle.toNat < 4 then s.pkg.throttle + 1 else s.pkg.throttle } }

def execOvertempShutdown (s : State) : Res :=
  let s := tearAllNow (senseAll s) 0xFE#8
  .next { s with pkg := { s.pkg with hold := true, retry := false } }

/-! Errors (R439, R440). -/

def execCorrectableError (die : Nat) (s : State) : Res := .next (s.modErr die fun e => { e with ecce := satInc e.ecce })

/-- The granule with this number (address / 16) is poisoned. -/
def execUncorrectableError (die granule source : Nat) (s : State) : Res :=
  .next (if 8 ≤ die then s
    else (setPois s (granule * 16)).modErr die fun e => { e with
      eccue := satInc e.eccue, elast := BitVec.ofNat 64 (granule * 16 % 2 ^ 48 + source % 8 * 2 ^ 48) })

/-! Periods (R119, R391, R392). -/

/-- Periods of 1,400 cc since package reset. -/
def tickDue (s : State) : Bool := (s.tick.toNat + 1) * Config.tickPeriod ≤ s.cc
def advanceTick (s : State) : State :=
  if tickDue s then
    traceTick { s with tick := s.tick + 1 } ((s.cores.filter fun c => !s.det c.cx.ctx).map Core.phys) (s.tick + 1)
  else s
def execTickPeriod (s : State) : Res := .next (advanceTick s)

/-- The load of the last window of 4,096 cc, its busiest link of a level against its least busy one, once a window: it decides the
level's routing in the window that runs (R391; log 63). -/
def execRoutingWindow (die level busiest least : Nat) (s : State) : Res :=
  let w := s.cc / 4096
  let here (x : Nat × Nat × Nat × Bool) : Bool := x.1 == die && x.2.1 == level
  .next (if w = 0 || 8 ≤ die || s.pkg.routing.any fun x => here x && x.2.2.1 == w then s
    else { s with pkg := { s.pkg with
      routing := s.pkg.routing.filter (fun x => !here x) ++ [(die, level, w, decide (3 * least < busiest))] } })

/-- The escapement acts every 65,536 cc since package reset (R392). -/
def escapementAt (s : State) : Nat := (s.pkg.escapements + 1) * Config.escapementPeriod

/-- An escapement changes timing only; teardowns use its boundary (R164). -/
def escapement (s : State) : State :=
  let s := { s with pkg := { s.pkg with escapements := s.pkg.escapements + 1 } }
  s.ctxs.foldl teardownStep s
def execEscapement (s : State) : Res := .next (if escapementAt s ≤ s.cc then escapement s else s)

end Sys2Proof.Machine
end

