-- ==== Sys2Proof/Machine/Mmio.lean ====
section
/-! DEFINITION. Reading and writing the registers of the MMIO range, and the host's accesses through its aperture (R194,
R395, R416, R422, R431, R440). -/

namespace Sys2Proof.Machine

/-- A die's error page (R440). -/
def readErrors (s : State) (die off : Nat) : W64 :=
  if h : die < 8 then
    let e := s.errs[die]
    let p := s.pkg
    match off with
    | 0x00 => e.ecce
    | 0x08 => e.eccue
    | 0x10 => e.poiscons
    | 0x18 => e.elast
    | 0x20 => BitVec.ofNat 64 (boolNat p.ucieUp + boolNat (p.rhoUp.getLsbD die) * 2 + p.retrains.toNat * 2 ^ 16
        + e.hostDrops.toNat * 2 ^ 32)
    | 0x28 => BitVec.ofNat 64 (e.power.toNat + e.temp.toNat * 2 ^ 12 + p.throttle.toNat * 2 ^ 20)
    | 0x30 => zextW 45 p.bootrec
    | _ => 0
  else 0

/-- An aligned word. -/
def mmioWord (s : State) (w : Party) (a : Nat) : W64 :=
  match mmioUnit a with
  | .queue n off => readQueue s n off
  | .driver off => readDriver s off
  | .errors d off => readErrors s d off
  | .debug p off => debugRead s p off (windowCtx s p w)
  | .residual | .nothing => 0

def setMmioWord (s : State) (w : Party) (a : Nat) (v : W64) : State :=
  match mmioUnit a with
  | .queue n off => writeQueue s n off v (match w with
      | .host => true
      | _ => false)
  | .driver off => writeDriver s off v
  | .debug p off => debugWrite s p off v w
  | .errors _ _ | .residual | .nothing => s

/-- A read of 4 or 8 bytes, naturally aligned. -/
def mmioRead (s : State) (w : Party) (a size : Nat) : Nat :=
  (mmioWord s w (a / 8 * 8)).toNat / 2 ^ (8 * (a % 8)) % 2 ^ (8 * size)

/-- A write; one of 4 bytes leaves the word's other half as a read gives it. -/
def mmioWrite (s : State) (w : Party) (a size v : Nat) : State :=
  let old := (mmioWord s w (a / 8 * 8)).toNat
  let lo := 2 ^ (8 * (a % 8))
  let m := 2 ^ (8 * size)
  setMmioWord s w (a / 8 * 8) (BitVec.ofNat 64 (old - old / lo % m * lo + v % m * lo))

def mmioShape (a size : Nat) : Bool := (size == 4 || size == 8) && a % size == 0

/-- REGISTER_WRITE by a party with the right to it. -/
def execRegisterWrite (w : Party) (addr : W64) (size : Nat) (v : W64) (s : State) : Res :=
  .next (if mmioShape addr.toNat size && mmioRight s w true (addr.toNat / 8 * 8) then mmioWrite s w addr.toNat size v.toNat else s)

/-! The host's aperture (R431); addresses are offsets from HB. -/

def apertureMmio : Nat := 0x20000000000

/-- Device memory at a physical address: the compute cores' channels, the selvedge channels behind them, the second tier (R1, R19). -/
def physExists (s : State) (pa : Nat) : Bool :=
  pa < Config.physCores * 0x800000 || (0x10000000000 ≤ pa && pa < 0x20000000000 && !s.pkg.tierOff)

def hostShape (s : State) (a n : Nat) : Bool :=
  [1, 2, 4, 8, 16, 32, 64, 128].contains n && a % n == 0 && physExists s a

/-- The context image that a physical address of the kept rows lies in: core, context and offset (R120, R171). The image is homed and
cached at its core, so an access by address meets what the core holds (log 69). -/
def imagePlace (s : State) (pa : Nat) : Option (Nat × Nat × Nat) :=
  let n := ncores s.width
  let row := pa / 4096 / n
  let o := (row - 1792) * 4096 + pa % 4096 - 0x10000
  let phys := physOfCompute s.width (pa / 4096 % n)
  if row < 1792 || 2048 ≤ row || (row - 1792) * 4096 < 0x10000 || 0x10000 ≤ o % 0x30000 then none
  else (s.ctxs.find? fun x => x.grant.contains phys && x.slotAt phys == o / 0x30000 && (imageOf (s.core phys) x.id).isSome).map fun x =>
    (phys, x.id, o % 0x30000)

/-- Bytes of device memory as the host reads them. -/
def hostPart (s : State) (pa n : Nat) : List PByte :=
  match imagePlace s pa with
  | some (phys, ctx, off) => (List.range n).map fun i =>
      let w := ((imageOf (s.core phys) ctx).map fun x => imageWord x ((off + i) / 8 * 8)).getD 0
      { b := BitVec.ofNat 8 (bits w (8 * ((off + i) % 8)) 8), p := false }
  | none => readPart s 37376 0 { va := pa, key := pa, len := n, off := 0, done := false }

/-- A byte of an image is written; read-only fields keep their values (R121). -/
def setImageByte (x : CtxCore) (off : Nat) (b : Byte) : CtxCore :=
  let w := (imageWord x (off / 8 * 8)).toNat
  let m := 2 ^ (8 * (off % 8))
  setImageWord x (off / 8 * 8) (BitVec.ofNat 64 (w - w / m % 256 * m + b.toNat * m))

/-- A host write of a part of device memory. -/
def hostPut (s : State) (pa : Nat) (bs : List Byte) : State :=
  match imagePlace s pa with
  | some (phys, ctx, off) => match imageOf (s.core phys) ctx with
    | some x => s.setCore ((s.core phys).setCx
        (((List.range bs.length).zip bs).foldl (fun x (i, b) => setImageByte x (off + i) b) x))
    | none => s
  | none => applyPart (recallKey s pa) 0xFFFF#16 pa bs

/-- The host's answer: bytes, poisoned, error. -/
def hostAnswer (s : State) (r : List Byte × Bool × Bool) : State := { s with pkg := { s.pkg with hostReply := some r } }
def hostFail (s : State) (b : Bool) : State := { s with pkg := { s.pkg with hostError := b } }

/-- A part of a host access performs. A read of an error page finds the sensors' values of that time (R440; log 5). -/
def hostDo (s : State) (o : HostOp) (p : Part) : State × HostOp :=
  let data : List Byte := (sub o.buf p.off p.len).map PByte.b
  if o.mmio then
    let a := mmioBase + (p.va - apertureMmio)
    let ok := mmioRight s .host o.write (a / 8 * 8)
    if o.write then (hostFail (if ok then mmioWrite s .host a p.len (ofBytes data) else s) (!ok), o)
    else if ok then
      let s := match mmioUnit a with
        | .errors _ _ => senseAll s
        | _ => s
      (hostAnswer s (toBytes p.len (mmioRead s .host a p.len), false, false), o)
    else (hostAnswer s ([], false, true), o)
  else if o.write then (hostPut s p.va data, o)
  else
    let b := hostPart s p.va p.len
    (countPois (recallKey s p.va) p.va (boolNat (anyPois b)), { o with buf := setFrom o.buf p.off b })

/-- What the host hears once the access is complete. -/
def hostDone (s : State) (o : HostOp) : State :=
  if o.mmio then s
  else if o.write then hostFail s false
  else hostAnswer s (consume o.buf, anyPois o.buf, false)

/-- Part k of the n-th access under way: behind every earlier host write (R431). -/
def hostStep (s : State) (n k : Nat) : State :=
  let ops := s.pkg.hostOps
  match ops[n]?.bind fun o => o.parts[k]?.map fun p => (o, p) with
  | none => s
  | some (o, p) =>
    if p.done || !s.pkg.ucieUp || (ops.take n).any HostOp.write then s
    else
      let (t, o) := hostDo s o p
      let o := { o with parts := setAt o.parts k { p with done := true } }
      let rest := if o.parts.all Part.done then ops.take n ++ ops.drop (n + 1) else setAt ops n o
      let t := { t with pkg := { t.pkg with hostOps := rest } }
      if o.parts.all Part.done then hostDone t o else t

/-- The first part of a host access that may perform. -/
def hostNext (s : State) : Option (Nat × Nat) :=
  match s.pkg.hostOps with
  | [] => none
  | o :: _ => (firstIndex (fun p => !p.done) o.parts).map fun k => (0, k)

/-- A host access enters. One that lies in a granule and has no write before it performs at once; the granules of another perform
apart (R184). -/
def hostBegin (s : State) (write : Bool) (a n : Nat) (buf : List PByte) : State :=
  let mmio := decide (apertureMmio ≤ a)
  let parts : List Part := if mmio then [{ va := a, key := a, len := n, off := 0, done := false }]
    else (partsOf a 0 n).map fun p => { p with key := p.va }
  let t := { s with pkg := { s.pkg with hostOps := s.pkg.hostOps ++ [{ write := write, mmio := mmio, parts := parts, buf := buf }] } }
  if parts.length = 1 then hostStep t s.pkg.hostOps.length 0 else t

/-- Is the access of a legal size, alignment and place? -/
def hostLegal (s : State) (a n : Nat) : Bool :=
  if a < apertureMmio then hostShape s a n else mmioShape (mmioBase + (a - apertureMmio)) n

/-- A host write; while the link is down nothing of it arrives (R432). -/
def execHostWrite (addr : Nat) (bytes : List Byte) (s : State) : Res :=
  .next (if !s.pkg.ucieUp then s
    else if hostLegal s addr bytes.length then hostBegin s true addr bytes.length (clean bytes)
    else hostFail s true)

def execHostRead (addr size : Nat) (s : State) : Res :=
  .next (if !s.pkg.ucieUp then s
    else if hostLegal s addr size then hostBegin s false addr size (zeroBytes size)
    else hostAnswer s ([], false, true))

end Sys2Proof.Machine
end

