-- ==== Sys2Proof/Machine/OrderMachine.lean ====
section
/-! DEFINITION. The steps of the ordering machine on the task engine's operations: loads, stores, atomics, results, releases and
the send buffer (R40-R58, R74-R76, R146, R160, R184-R190, R200-R212). -/

namespace Sys2Proof.Machine

/-! Results. -/

def Bank.writeReg (b : Bank) (r : Reg) (x : W128) : Bank :=
  match r with
  | .s n => b.ws n (x.setWidth 64)
  | .p n => b.wp n x
  | _ => b

/-- An operation has its result, or nothing to write. -/
def finishOp (c : Core) (o : Op) (res : List W128) : Core :=
  if o.dst.isEmpty then c.dropOp o.id else c.modOp o.id fun _ => { o with st := .done, res := res }

/-- The report of an operation's events. -/
def Op.events (o : Op) : Deferred :=
  { id := o.id, info := { cause := 13, s5 := 0, s6 := 0, s7 := 0 }, bank := o.bank, task := o.task, ch := o.ch, pc := o.pc
    retired := o.at_, eng := none, behind := false }

/-- Write a result that has arrived (R66, R74). -/
def writeResult (s : State) (phys : Nat) (o : Op) (res : List W128) : State :=
  let c := (s.core phys).dropOp o.id
  let c := c.bankResult o.bank o.task fun b => (o.dst.zip res).foldl (fun b (r, x) => b.writeReg r x) b
  -- a report that finds no room is discarded (R160)
  (accrue (s.setCore c) phys o.events o.ev).1.modCore phys fun c => c.untold o.id

/-- LONG_LATENCY_RESULT; a PSTAT of a free-mode context gets its answer from the home unit now (R346). -/
def lateResult (s : State) (phys id : Nat) : State :=
  let c := s.core phys
  match c.op? id with
  | none => s
  | some o => match o.ins, o.st with
    -- a report of a deterministic context waits for its turn (log 45)
    | _, .done => if s.det c.cx.ctx && o.ev != 0#5 && !c.turn o.id then s else writeResult s phys o o.res
    | .pstat _, .pending =>
      if o.collected then s
      else writeResult s phys o [(pstatWord s c.cx.ctx (o.b.setWidth 64) (o.c.setWidth 64)).setWidth 128]
    | _, _ => s

def execLongLatencyResult (phys id : Nat) (s : State) : Res := .next (lateResult s phys id)

/-! Faults found when a load performs (R76, R158, R432). -/

/-- The load is undone: it counts as not retired, and the core freezes at its PC; it is what executes next, and its task then goes on
where it stands now. It waits while the core is frozen. DESIGN CHOICE (log 97): R158 gives no case for a load whose task has ended; it
freezes the core as a deferred report does, and nothing executes again. -/
def lateFault (s : State) (phys : Nat) (o : Op) (info : FaultInfo) : State :=
  let c := s.core phys
  if c.cx.frz.frozen then s
  else
    let b := c.bankOf o.bank
    let c := c.dropOp o.id
    if b.task.serial != o.task || !b.task.live then
      freezeCore (s.setCore c) phys o.bank o.ch
        { info := info, kind := .deferred, pc := o.pc, imagePc := b.pc, deferred := true, retired := c.since o.bank o.task o.at_
          task := some o.task }
    else
      let counts := (originOf s c o.pc).counts
      let left := ((b.task.windows.find? fun w => w.op == o.id).map Window.left).getD 0
      let t := { b.task with
        windows := b.task.windows.filter fun w => w.op != o.id
        conts := { lop := o.pc, next := b.pc, left := left, at_ := o.at_ } :: b.task.conts }
      let c := c.setBankOf o.bank { b with task := t }
      let c := { c with cx := { c.cx with instret := if counts || !s.det c.cx.ctx then c.cx.instret - 1 else c.cx.instret, qret := if counts then c.cx.qret - 1 else c.cx.qret } }
      freezeCore (s.setCore c) phys o.bank o.ch
        { info := info, kind := .other, pc := o.pc, imagePc := o.pc, retired := b.task.since o.at_ }

/-! Loads (R41, R42, R44, R49, R58, R186, R196, R201). -/

def opBytes (o : Op) : Nat := o.parts.foldl (fun n p => max n (p.off + p.len)) 0

/-- What an LDF returns: its word, and whether it was full (R201). -/
def ldfRes (f : Fields) (v : Nat) (full : Bool) : List W128 :=
  (regOf f.dst).map (fun _ => BitVec.ofNat 128 v) ++ (regOf f.opb).map fun _ => splatP full

/-- What a load does once all its parts have performed. -/
def loadDone (s : State) (phys : Nat) (o : Op) : State :=
  let c := s.core phys
  let v := ofBytes (o.buf.map PByte.b)
  match o.ins with
  | .ld f =>
    let n := 8 * f.typ.size
    let res : List W128 := if f.typ = .q then [BitVec.ofNat 128 (v % 2 ^ 64), BitVec.ofNat 128 (v / 2 ^ 64)]
      else if f.mod = 1 then [(BitVec.ofInt 64 (toSigned n v)).setWidth 128] else [BitVec.ofNat 128 v]
    s.setCore (finishOp c o res)
  | .ldf f =>
    let word := wordOf phys o.addr
    let full := viewFull s phys word
    let s := if f.mod = 1 && full then coreEmpty s phys o.id word else s
    s.setCore (finishOp (s.core phys) o (ldfRes f v full))
  | .spqry _ =>
    let w := probeWord s (dieOf phys) c.cx.ctx (o.b.setWidth 64) (o.buf.map PByte.b)
    s.setCore (finishOp c o [w.setWidth 128])
  | _ => s.setCore (c.modOp o.id fun _ => o)

/-- One part of a load has its bytes. -/
def loadTook (s : State) (phys : Nat) (o : Op) (k : Nat) (p : Part) (bs : List PByte) : State :=
  let buf := if o.buf.isEmpty then zeroBytes (opBytes o) else o.buf
  let o := ({ o with buf := setFrom buf p.off (clean (consume bs)) } : Op).markPart k
  let s := countPois s p.key (boolNat (anyPois bs))
  if o.allDone then loadDone s phys o else s.setCore ((s.core phys).modOp o.id fun _ => o)

/-- An LDF that younger accesses have gone before, and whose word is full or awaited by then: it took its step before they did, when
the word was empty (R201). Its reply and what it consumed of poison count now (R428, R439). -/
def ldfEmpty (s : State) (phys : Nat) (o : Op) : State :=
  let s := o.parts.foldl (fun s p => countPois (if o.c = 1 then countReply s phys p else s) p.key (boolNat (anyPois o.buf))) s
  s.setCore (finishOp (s.core phys) o o.res)

/-- A load whose checks come with its first part (R76): checked now, or faulting. -/
def checkLate (s : State) (phys : Nat) (o : Op) : Except FaultInfo Op :=
  if !o.late then .ok o
  else match access s ((s.core phys).asOf o.id) .load o.addr (opBytes o) 0 with
    | .error i => .error i
    | .ok ps => .ok { o with parts := ps, late := false }

/-- LOAD_PERFORM of one part. -/
def loadPart (s : State) (phys id k : Nat) : State :=
  let c := s.core phys
  match c.op? id with
  | none => s
  | some o0 =>
    if !o0.isLoad || o0.st != .pending || (o0.collected && !o0.isPload) then s
    else match checkLate s phys o0 with
      | .error i => if c.acquired id then lateFault s phys o0 i else s
      | .ok o => match o.parts[k]? with
        | none => s
        | some p =>
          let word := wordOf phys o.addr
          let sync : Bool := match o.ins with
            | .ldf _ => true
            | _ => false
          -- a peer's word is never pending (R201)
          let waits := sync && localOwner (word * 8) == phys && pendingWord s c id word
          if p.done || !c.mayLoad s o then s
          else if sync && !o.res.isEmpty && (waits || viewFull s phys word) then ldfEmpty s phys o
          else if waits then s
          else if o.mmio then
            -- a core that has been acted on shows no image any more (R156)
            if mmioRight s (.core phys) false (p.va / 8 * 8) then
              loadTook s phys o k p (clean (toBytes p.len (mmioRead s (.core phys) p.va p.len)))
            else lateFault s phys o (accessFault o.addr .load (opBytes o))
          else if hostGone s p.key then lateFault s phys o (accessFault o.addr .load (opBytes o))
          else match forward s c (s.det c.cx.ctx) id sync o.parts p with
            | .wait => s
            | .bytes l => loadTook s phys o k p l
            | .memory => loadTook (reach s phys p false (lastInSector o.parts [k] p)) phys o k p (readPart s phys id p)

def execLoadPerform (phys id part : Nat) (s : State) : Res := .next (loadPart s phys id part)

/-- An LDF whose word is empty, with no engine write pending, is no acquire: younger accesses may go before it. What it could return
now is kept, for the case that it finds the word full later (R201; log 21); a mapped frame's word is touched so (R187). -/
def passLdf (s : State) (phys id : Nat) : State :=
  let c := s.core phys
  match c.op? id with
  | none => s
  | some o => match o.ins, o.parts with
    | .ldf f, [p] =>
      let word := wordOf phys o.addr
      if o.st != .pending || o.collected || !o.res.isEmpty || !c.mayLoad s o || viewFull s phys word
          || (localOwner (word * 8) == phys && pendingWord s c id word) then s
      else match forward s c (s.det c.cx.ctx) id true o.parts p with
        | .wait => s
        | .bytes l => keep s { o with c := 0 } f l
        | .memory => keep (touchStash s phys p false) { o with c := 1 } f (readPart s phys id p)
    | _, _ => s
where
  keep (s : State) (o : Op) (f : Fields) (l : List PByte) : State :=
    s.setCore ((s.core phys).modOp id fun _ => { o with res := ldfRes f (ofBytes (consume l)) false, buf := l })

/-! Stores (R43, R47, R51, R54, R202, R204, R212). -/

/-- STORE_LEAVE: the head of the store queue, a release once it may take effect, behind every older fence of kind rel or full (R51);
a request to another core's home only while the network window has room (R390). In a deterministic context step 2 of the boundary
applies every store of the quantum before anyone else sees one, so none is held there (R56, R58; log 67). -/
def storeLeave (s : State) (phys : Nat) : State :=
  let c := s.core phys
  match c.nextStore with
  | none => s
  | some o =>
    if (!s.det c.cx.ctx && ((o.isRelStore && !c.released o.id) || c.relFenced o.id)) || netFull s c o.parts then s
    else s.setCore (c.modOp o.id fun o => { o with st := .left })

def execStoreLeave (phys : Nat) (s : State) : Res := .next (storeLeave s phys)

/-- A part of a store is applied; with the last part the operation ends. -/
def storeTook (s : State) (phys : Nat) (o : Op) (k : Nat) : State :=
  let o := o.markPart k
  let c := s.core phys
  s.setCore (if o.allDone then c.dropOp o.id else c.modOp o.id fun _ => o)

/-- The same for several parts. -/
def storesTook (s : State) (phys : Nat) (o : Op) (ks : List Nat) : State :=
  let o := ks.foldl Op.markPart o
  let c := s.core phys
  s.setCore (if o.allDone then c.dropOp o.id else c.modOp o.id fun _ => o)

/-- The free value of a DISCARD's line. -/
def Op.draw (o : Op) : W64 := Config.freeWord o.b.toNat

/-- A DISCARD's line at its first granule, in free mode: where R166 decides it, the whole line's value is settled then (R166, R188). -/
def discardFirst (s : State) (phys : Nat) (o : Op) (p : Part) : State × Op :=
  match o.ins with
  | .discard _ =>
    if o.c != 0 || s.det (s.core phys).cx.ctx then (s, o)
    else match racedLine s (p.key / 128) o.draw with
      | some l => (countCancel s (p.key / 128) o.draw, { o with c := 2, buf := clean l })
      | none => (s, { o with c := 1 })
  | _ => (s, o)

/-- One granule of a DISCARD's line (R42, R184). The stashes give the block back with the last, and a write-back that it raced has then
taken place or is cancelled; in a deterministic context the line is left for the boundary then. -/
def discardPart (s : State) (phys : Nat) (o : Op) (k : Nat) (p : Part) : State :=
  let last := lastInSector o.parts [k] p
  let whole := (o.markPart k).allDone
  let det := s.det (s.core phys).cx.ctx
  let s := if last then countReply s phys p else s
  let s := if whole && !det then recallKey s p.key else s
  if det then (if whole then detWrite s phys o.id .discard [(p.key / 128 * 128, [])] else s)
  else
    let s := applyPart s (coreSender s phys) p.key
      (if o.buf.isEmpty then rowedGranule s (p.key / 16) o.draw else (sub o.buf p.off p.len).map PByte.b) (some (phys, o.id))
    if whole && o.c = 2 then backDone s (p.key / 128) else s

/-- What one part of a store does to memory. -/
def storeEffect (s : State) (phys : Nat) (o : Op) (k : Nat) (p : Part) : State :=
  match o.ins with
  | .sete _ => coreEmpty (reach s phys p true) phys o.id (wordOf phys o.addr)
  | .discard _ => discardPart s phys o k p
  | _ => coreStore (reach s phys p true (lastInSector o.parts [k] p)) phys o.id p.key ((sub o.buf p.off p.len).map PByte.b)

/-- A line of device memory reaches its DRAM row, unless a DISCARD is in its middle (R212). -/
def writeBack (s : State) (line : Nat) : State :=
  let busy (o : Op) : Bool := (match o.ins with
    | .discard _ => true
    | _ => false) && o.parts.any fun p => p.done && p.key / 128 == line
  if s.cores.any fun c => c.ops.any busy then s else backDone s line

/-- A WATCH arms or cancels (R203). -/
def armOp (s : State) (p : Nat) (o : Op) : State :=
  match o.ins with
  | .watch f =>
    let x := (s.core p).cx
    let w := watchOf x o.addr ((o.parts.head?.map Part.key).getD 0) (o.b.setWidth 64)
    let s := countReplies s p (o.parts.take 1)
    (if f.mod = 0 then armWatch s x w else cancelWatch s x w.key w.size).modCore p fun c => c.dropOp o.id
  | _ => s

/-- A WATCH of a free-mode context takes its step at its block's home at any time after its issue, but in the order of the core's
WATCHes of the line; one of a deterministic context waits for the boundary (R203, R204). -/
def watchStep (s : State) (phys : Nat) (o : Op) : State :=
  let c := s.core phys
  let older (q : Op) : Bool := q.isWatch && o.parts.any fun p => q.touchesLine (lineOf p.key)
  if s.det c.cx.ctx || !c.acquired o.id || (c.opsBefore o.id).any older then s else armOp s phys o

/-- STORE_APPLY of one part. -/
def storePart (s : State) (phys id k : Nat) : State :=
  let c := s.core phys
  match c.op? id with
  | none => s
  | some o => match o.parts[k]? with
    | none => s
    | some p =>
      if o.isWatch then watchStep s phys o
      else if !o.isStore || o.st != .left || p.done then s
      else if o.mmio then
        if !c.acquired id || (c.opsBefore id).any (fun q => q.mmio && q.st != .done) then s
        else
          if mmioRight s (.core phys) true (p.va / 8 * 8) then
            mmioWrite (s.setCore (c.dropOp id)) (.core phys) p.va p.len (ofBytes (o.buf.map PByte.b))
          else
            -- the register has closed since the issue: an access fault, reported as an engine's is (R156, R421; log 70)
            match (c.dropOp id).pushDeferred (s.det c.cx.ctx) { o.events with info := accessFault o.addr .store p.len } with
            | some c => s.setCore c
            | none => s.setCore (c.noRoom (s.det c.cx.ctx) id)
      else if !c.mayApply s o p then s
      else
        let (s, o) := discardFirst s phys o p
        storeTook (storeEffect s phys o k p) phys o k

def execStoreApply (phys id part : Nat) (s : State) : Res := .next (storePart s phys id part)

/-- NT_APPLY: an entry of the non-temporal pool, in any order but for a store's own overlapping elements (R198); its request leaves
first (R390). -/
def ntPart (s : State) (phys id k : Nat) : State :=
  let c := s.core phys
  match c.op? id with
  | none => s
  | some o => match o.parts[k]? with
    | none => s
    | some p =>
      if !o.isNt || o.st != .pending || p.done || !c.acquired id || (o.parts.take k).any (fun q => !q.done && overlap q p) then s
      else
        let unit : Bool := match o.ins with
          | .stv _ => true
          | _ => false
        let ks := mates unit o.parts k
        let ps := ks.filterMap fun j => o.parts[j]?
        if toSend s c o.parts ks then
          if netFull s c ps then s else s.setCore (c.modOp id fun o => { o with parts := sentParts o.parts ks })
        else
          let s := recallKey (if lastInSector o.parts ks p then countReply s phys p else s) p.key
          let s := match o.ins with
            | .st _ => coreStore s phys id p.key ((sub o.buf p.off p.len).map PByte.b)
            | _ => engWriteAll s phys id (ps.map fun q => (q, sub o.buf q.off q.len))
          storesTook s phys o ks

def execNtApply (phys id part : Nat) (s : State) : Res := .next (ntPart s phys id part)

/-! Atomics (R46, R205-R208). -/

/-- The zero-notify message of an AMOM (R207). -/
def zeroNotify (s : State) (phys : Nat) (o : Op) (f : Fields) (key old new : Nat) : State :=
  let x := (s.core phys).cx
  let m := mkMsg 3 24 (BitVec.ofNat 4 (f.imm.toNat % 16)) (BitVec.ofNat 16 (f.imm.toNat / 256 % 256)) (BitVec.ofNat 16 x.lc)
    (payload (BitVec.ofNat 64 o.addr) (widen f.typ old) (widen f.typ new))
  s.post { ctx := x.ctx, dst := o.c.toNat, held := { launch := none, msg := m }, after := some (phys, o.id)
           src := .home (if isLocalKey key then localOwner key else homePhys s.width key) }

/-- The element read, and what is written, if anything (R46). -/
def atomicNew (o : Op) (old : Nat) : Option Nat :=
  match o.ins with
  | .amo f | .amom f => some (amoNew f old o.b.toNat)
  | .cas _ => if old = o.b.toNat then some o.c.toNat else none
  | _ => none

/-- What the destination receives (R205, R206). -/
def atomicRes (o : Op) (old : Nat) : List W128 :=
  match o.ins with
  | .cas f => if f.typ = .q then [BitVec.ofNat 128 (old % 2 ^ 64), BitVec.ofNat 128 (old / 2 ^ 64)]
    else [(widen f.typ old).setWidth 128]
  | .amo f | .amom f => [(widen f.typ old).setWidth 128]
  | _ => []

/-- An atomic in one step; `direct` for one that the quantum collector serves, whose write is not kept for a boundary. -/
def atomicDo (s : State) (phys : Nat) (o : Op) (direct : Bool) : State :=
  match o.parts with
  | p :: _ =>
    let s := reach s phys p true
    let bs := readPart s phys o.id p
    let s := countPois s p.key (boolNat (anyPois bs))
    let old := ofBytes (consume bs)
    let new := atomicNew o old
    let s := match new with
      | none => s
      | some n =>
        let out := toBytes p.len n
        if direct then applyPart s (coreSender s phys) p.key out else coreStore s phys o.id p.key out
    let s := match o.ins, new with
      | .amom f, some n => if isZeroElem f.typ n then zeroNotify s phys o f p.key old n else s
      | _, _ => s
    s.setCore (finishOp (s.core phys) o (atomicRes o old))
  | [] => s

/-- ATOMIC_APPLY. -/
def atomicStep (s : State) (phys id : Nat) : State :=
  let c := s.core phys
  match c.op? id with
  | none => s
  | some o => match o.parts with
    | [] => s
    | p :: _ =>
      let rel : Bool := match o.ins with
        | .amom _ => c.releasedAmom id
        | _ => true
      if !o.isAtomic || o.st != .pending || o.collected || !c.mayApply s o p || !rel then s
      else if hostGone s p.key then lateFault s phys o (accessFault o.addr .atomic p.len)
      else atomicDo s phys o false

def execAtomicApply (phys id : Nat) (s : State) : Res := .next (atomicStep s phys id)

/-! Releases (R51-R53, R210, R213, R214). -/

/-- RELEASE_COMPLETE: a fence or drain ends; a CAPGIVE or SEAL goes to its keeper, as does a CLAIM or RMODE that stands behind one of
them. -/
def releaseStep (s : State) (phys id : Nat) : State :=
  let c := s.core phys
  match c.op? id with
  | none => s
  | some o =>
    let send (k : KAsk) : State :=
      if o.collected || o.st != .pending || c.capBefore o || netFull s c (keeperPart s c o.addr) then s
      else askKeeper (s.setCore (c.modOp id fun o => { o with st := .left })) o c o.addr k
    let ask (k : KAsk) : State := if c.released id then send k else s
    match o.ins with
    | .fence _ => if c.fenceReady o then s.setCore (c.dropOp id) else s
    | .ntdrain _ => if c.ntdrained id then s.setCore (c.dropOp id) else s
    | .capgive _ => ask (.give o.b.toNat)
    | .sealCap _ => ask .seal
    | .claim _ => send .claim
    | .rmode f => send (.rmode (if f.mod = 0 then .opn else .atomic))
    | _ => s

def execReleaseComplete (phys id : Nat) (s : State) : Res := .next (releaseStep s phys id)

/-! The send buffer (R50, R51, R146). -/

/-- Requests that are releases (R51). -/
def Out.isRelease : Out → Bool
  | .msg _ _ | .packet _ _ _ _ | .coll _ => true
  | .heddle r => match r.ask with
    | .put _ _ | .get _ => true
    | _ => false

/-- Two entries of one core that arrive in the order they were sent: messages to one channel of one core (R50), offers to one
connector (R330), requests to one keeper (R376). -/
def Out.sameWay (s : State) (a b : Out) : Bool :=
  match a, b with
  | .msg d m, .msg e n => d == e && m.ch == n.ch
  | .heddle x, .heddle y => x.handle == y.handle
  | .coll x, .coll y => keeperCluster s x.ctx x.group == keeperCluster s y.ctx y.group
  | _, _ => false

/-- What an entry becomes when it leaves. -/
def sendEntry (s : State) (x : CtxCore) : Out → State
  | .msg d m => s.post { ctx := x.ctx, dst := d, src := .core x.lc, held := { launch := none, msg := m } }
  | .packet q t n b => { s with qsends := s.qsends ++ [{ ctx := x.ctx, lc := x.lc, queue := q, typ := t, len := n, body := b, slot := none, wrote := [] }] }
  | .heddle r => { s with hreqs := s.hreqs ++ [r] }
  | .coll r => { s with creqs := s.creqs ++ [r] }

/-- MESSAGE_SEND of entry k. -/
def execMessageSend (phys k : Nat) (s : State) : Res :=
  let c := s.core phys
  .next (match c.sending[k]? with
    | none => s
    | some e =>
      if (e.out.isRelease && !c.released e.id) || (c.sending.take k).any (fun d => d.out.sameWay s e.out) then s
      else sendEntry (s.setCore { c with sending := eraseAt c.sending k }) c.cx e.out)

end Sys2Proof.Machine
end

