-- ==== Sys2Proof/Machine/Predicate.lean ====
section
/-! DEFINITION. Class 1, the predicate instructions (R129, R130, R232). -/

namespace Sys2Proof.Machine

def execPlog (f : Fields) (s : State) : Res :=
  .next (run f (fun s =>
    .done (wpred s f.dst (plogBits f.imm.toNat (rdP s f.opa) (rdP s f.opb) (rdP s f.opc)))) s)

/-- Every predicate register that PMOV `.pack` reads or `.unpack` writes. -/
def allPreds : List Reg := (List.range 15).map fun i => .p (Fin.ofNat 16 (i + 1))

/-- Bit 0 of every predicate, p0's as 1 (R130). -/
def packPreds (b : Bank) : Nat :=
  (List.range 16).foldl (fun acc n => acc + boolNat ((b.rp (Fin.ofNat 16 n)).getLsbD 0) * 2 ^ n) 0

/-- pn := a<n>, every bit alike. -/
def unpackPreds (b : Bank) (a : W64) : Bank :=
  (List.range 16).foldl (fun b n => b.wp (Fin.ofNat 16 n) (splatP (a.getLsbD n))) b

def execPmov (f : Fields) (s : State) : Res :=
  .next (run f (fun s =>
    match f.mod.val with
    | 0 => .done (wpred s f.dst (rdP s f.opa))
    | 1 => if s.here.waits allPreds then .stall else .done (wres s f.dst (BitVec.ofNat 64 (packPreds s.bank)))
    | _ => if s.here.waits allPreds then .stall else .done (s.setBank (unpackPreds s.bank (rd s f f.opa)))) s)

end Sys2Proof.Machine
end

