-- ==== Sys2Proof/Machine/SpecWalk.lean ====
section
/-! DEFINITION. The specialiser's walk: static execution, folding, versions, limits, residual lines and the cache
(R353-R366). -/

namespace Sys2Proof.Machine

/-! The static state (R354, R356): values of registers whose value is static, by field code (R64), in rising order. A
predicate's value is 0 or 1, as every static predicate has its bits alike. -/

abbrev Stat := List (Nat × W64)

def lsCode : Nat := 0x200

/-- The value behind a scalar or predicate code, s0 and p0 among them. -/
def Stat.get (st : Stat) (c : Nat) : Option W64 :=
  if c = 0 then some 0 else if c = 0x80 then some 1 else (st.find? fun x => x.1 == c).map Prod.snd

def Stat.put : Stat → Nat → W64 → Stat
  | [], c, v => [(c, v)]
  | (d, w) :: t, c, v => if d = c then (c, v) :: t else if c < d then (c, v) :: (d, w) :: t else (d, w) :: Stat.put t c v

/-- s0 and p0 keep nothing. -/
def Stat.set (st : Stat) (c : Nat) (v : W64) : Stat := if c = 0 || c = 0x80 then st else st.put c v
def Stat.drop (st : Stat) (cs : List Nat) : Stat := st.filter fun x => !cs.contains x.1
def Stat.has (st : Stat) (c : Nat) : Bool := (st.get c).isSome

/-! What an instruction reads and writes. -/

/-- The code of a register operand that can be static. -/
def regCodes : Operand → List Nat
  | .s n => [n.val]
  | .p n => [0x80 + n.val]
  | .ls => [lsCode]
  | _ => []

/-- A register and the one after it. -/
def pairCodes : Operand → List Nat
  | .s n => [n.val, n.val + 1]
  | _ => []

def allPredCodes : List Nat := (List.range 15).map (0x81 + ·)

/-- Ops whose dst field is a source. -/
def dstReads : Instr → Bool
  | .send _ | .spawn _ | .qsend _ | .put _ | .st _ | .cpyc _ => true
  | _ => false

/-- The codes that a field of a kind names. -/
def kindCodes (k : Kind) (o : Operand) : List Nat :=
  match k with
  | .evenReg _ | .dataQ | .fillQ => pairCodes o
  | _ => regCodes o

/-- Registers written (R356). -/
def writes (i : Instr) (o : OpInfo) (f : Fields) : List Nat :=
  (if dstReads i then [] else kindCodes o.dst f.dst)
    ++ match i with
      | .ldf _ => regCodes f.opb
      | .pmov _ => if f.mod = 2 then allPredCodes else []
      | _ => []

/-- Does the op's result also go to ls (R123)? -/
def latches (i : Instr) (o : OpInfo) (f : Fields) : Bool :=
  match i with
  | .pmov _ => f.mod == 1
  | .chctl _ | .csrr _ | .unif _ => true
  | _ => o.dst == .sd && !o.long && (i.opcode / 64 == 0 || i.opcode / 64 == 2)

def gone (i : Instr) (o : OpInfo) (f : Fields) : List Nat := writes i o f ++ if latches i o f then [lsCode] else []

/-- Payload registers read (R137, R140, R344): of the length where it is known, else all that may be. -/
def payloadRegs (i : Instr) (f : Fields) (desc : Option W64) : List Nat :=
  let words (most : Nat) (len : W64 → Nat) : List Nat :=
    let n := (desc.map fun d => min most ((len d + 7) / 8)).getD most
    ((List.range n).map (regNo f.dst + ·)).filter (· < 64)
  match i with
  | .send _ | .spawn _ => words 7 fun d => bits d 4 6
  | .qsend _ => words 7 fun d => bits d 8 6
  | .put _ => words 4 offerLen
  | _ => []

/-- Registers read, the guard's aside. -/
def reads (i : Instr) (o : OpInfo) (f : Fields) (desc : Option W64) : List Nat :=
  let dst := match i with
    | .st _ | .cpyc _ => kindCodes o.dst f.dst
    | _ => payloadRegs i f desc
  let opb := match i with
    | .ldf _ => []
    | _ => kindCodes o.opb f.opb
  let all := match i with
    | .pmov _ => if f.mod = 1 then allPredCodes else []
    | _ => []
  dst ++ kindCodes o.opa f.opa ++ opb ++ kindCodes o.opc f.opc ++ all

def guardCode (f : Fields) : Nat := 0x80 + f.guard.p.val

/-- The guard's value where it is static. -/
def staticGuard (st : Stat) (f : Fields) : Option Bool := (st.get (guardCode f)).map fun v => v.getLsbD 0 != f.guard.inv

/-! Executing a static instruction (R356, R360, R365). -/

/-- The ops of R353 that the unit executes, without stop and look, which are the walk's concern. -/
def staticExec (i : Instr) : Option (State → Res) :=
  let p (f : Fields) : Fields := { f with stop := false, look := 0 }
  match i with
  | .add f => some (execAdd (p f)) | .sub f => some (execSub (p f)) | .mul f => some (execMul (p f))
  | .mulh f => some (execMulh (p f)) | .mulhn f => some (execMulhn (p f)) | .div f => some (execDiv (p f))
  | .divn f => some (execDivn (p f)) | .rem f => some (execRem (p f)) | .remn f => some (execRemn (p f))
  | .and f => some (execAnd (p f)) | .or f => some (execOr (p f)) | .xor f => some (execXor (p f))
  | .andn f => some (execAndn (p f)) | .shl f => some (execShl (p f)) | .shr f => some (execShr (p f))
  | .sar f => some (execSar (p f)) | .rol f => some (execRol (p f)) | .clz f => some (execClz (p f))
  | .ctz f => some (execCtz (p f)) | .popc f => some (execPopc (p f)) | .min f => some (execMin (p f))
  | .minn f => some (execMinn (p f)) | .max f => some (execMax (p f)) | .maxn f => some (execMaxn (p f))
  | .abs f => some (execAbs (p f)) | .sel f => some (execSel (p f)) | .mov f => some (execMov (p f))
  | .movi f => some (execMovi (p f)) | .lea f => some (execLea (p f)) | .sext f => some (execSext (p f))
  | .zext f => some (execZext (p f)) | .bfx f => some (execBfx (p f)) | .bfi f => some (execBfi (p f))
  | .cmp f => some (execCmp (p f)) | .plog f => some (execPlog (p f)) | .pmov f => some (execPmov (p f))
  | .fadd f => some (execFadd (p f)) | .fsub f => some (execFsub (p f)) | .fmul f => some (execFmul (p f))
  | .ffma f => some (execFfma (p f)) | .fdiv f => some (execFdiv (p f)) | .fsqrt f => some (execFsqrt (p f))
  | .fmin f => some (execFmin (p f)) | .fmax f => some (execFmax (p f)) | .fcmp f => some (execFcmp (p f))
  | .fcvt f => some (execFcvt (p f)) | .fclass f => some (execFclass (p f)) | .fsgn f => some (execFsgn (p f))
  | .csrr f => if [0x020, 0x021, 0x023, 0x024].contains f.imm.toNat then some (execCsrr (p f)) else none
  | .unif f => some (execUnif (p f))
  | _ => none

/-- The unit as a core: the static registers, the walk's PC and block. -/
def unitCore (ctx : Nat) (block : List Byte) (st : Stat) (pc : W64) : Core :=
  let val (c : Nat) : W64 := (st.get c).getD 0
  let b : Bank := { Bank.reset with
    s := Vector.ofFn fun (k : Fin 64) => val k.val
    p := Vector.ofFn fun (k : Fin 16) => splatP ((val (0x80 + k.val)).getLsbD 0)
    ls := val lsCode, pc := pc, task := { TaskSt.reset with live := true, block := block } }
  let c := feCore ctx
  { c with cx := { c.cx with b0 := b } }

/-- The value a bank holds behind a code. -/
def bankValue (b : Bank) (c : Nat) : W64 :=
  if c = lsCode then b.ls
  else if 0x80 ≤ c then BitVec.ofNat 64 (boolNat ((b.rp (Fin.ofNat 16 (c - 0x80))).getLsbD 0))
  else b.rsAt c

/-- What executing one gives: the new static values, a fault, or an FP event. -/
inductive Stepped
  | vals (l : List (Nat × W64))
  | fault
  | event

def unitRun (s : State) (c : Core) (i : Instr) (o : OpInfo) (f : Fields) (g : State → Res) : Stepped :=
  match g { s.setCore c with cur := c.phys } with
  | .next t =>
    let c := t.core c.phys
    if c.cx.frz.frozen then .fault
    else if c.cx.b0.fflags != 0#5 || (c.ops.any fun o => o.ev != 0#5) then .event
    else match c.ops with
      | p :: _ => .vals ((writes i o f).zip (p.res.map fun x => x.setWidth 64))
      | [] => .vals ((gone i o f).map fun k => (k, bankValue c.cx.b0 k))
  | _ => .fault

/-! The walk (R356-R359). -/

/-- A residual slot: the op, c3, the fields, its back-map record, and whether it is a filler. -/
structure RSlot where
  op : Nat
  three : Bool
  f : Fields
  rec_ : BackRec
  fill : Bool := false
  deriving DecidableEq, Repr

/-- A counted static loop (R358): its LOOP, its target, and the taken back branches. -/
structure Pass where
  loop : W64
  target : W64
  n : Nat
  deriving DecidableEq, Repr

/-- A version: an original slot and a static state. -/
abbrev VKey := W64 × Stat

/-- An open window of residual code (R364): its L op's place, the original instructions left, the pending registers. -/
structure RWin where
  at_ : Nat
  left : Nat
  regs : List Reg
  deriving DecidableEq, Repr

/-- What a walk has built: slots, last one first; versions begun; versions still to begin, with the passes counted there;
branches to aim; look values found; open windows; original lines, code units and regions reached; instructions walked; limit
stops; whether only stop exits remain. -/
structure WalkSt where
  slots : List RSlot
  n : Nat
  vers : List (VKey × Nat)
  work : List (VKey × List Pass)
  fixes : List (Nat × VKey)
  looks : List (Nat × Nat)
  wins : List RWin
  lines : List Nat
  units : List Nat
  regions : List Nat
  pois : List Nat
  walked : Nat
  limits : Nat
  cut : Bool
  deriving DecidableEq, Repr

def WalkSt.empty : WalkSt :=
  { slots := [], n := 0, vers := [], work := [], fixes := [], looks := [], wins := [], lines := [], units := [], regions := []
    pois := [], walked := 0, limits := 0, cut := false }

/-- Why a path does not go on: a stop of R359, a binding-time violation (R355), a fault at a static instruction (R360), or a
LOOP now found static, for which the walk is made again so that its body's first slots carry their numbers (R358). -/
inductive Halt
  | stop (reason : Nat)
  | violation
  | fallback
  | again (target loop : W64)

abbrev Walked := Except (Halt × WalkSt)

/-- What a walk reads: its context, block, mask, mode, and the static loops known. -/
structure WalkEnv where
  s : State
  ctx : Nat
  det : Bool
  block : List Byte
  mask : List Bool
  loops : List (W64 × W64)

def consIns (l : List Nat) (x : Nat) : List Nat := if l.contains x then l else x :: l

/-- Emit a slot; `check` says whether the limits of reasons 1, 2 and 11 bind it. -/
def emit (w : WalkSt) (x : RSlot) (check : Bool) : Walked WalkSt :=
  let line := w.n / 5 + 1
  if check && 2048 < line then .error (.stop 1, w)
  else if check && 4 * w.lines.length < line then .error (.stop 2, w)
  else if check && w.wins.any (fun v => 15 < w.n - v.at_) then .error (.stop 11, w)
  else .ok { w with slots := x :: w.slots, n := w.n + 1 }

def recOf (e : WalkEnv) (pc : W64) (st : List Pass) (counted : Bool) : BackRec :=
  { pc := pc.setWidth 48, iters := st.map Pass.n, counts := counted && e.det, mater := false }

/-- `mov s0, s0 ?!p0` (R31). -/
def fillerFields (stop : Bool) : Fields := { blankFields with stop := stop, typ := .s64, guard := { inv := true, p := 0 } }
def filler (stop : Bool) (r : BackRec) : RSlot := { op := 0x01A, three := false, f := fillerFields stop, rec_ := r, fill := true }

/-- What a filler records: the slot of the nearest preceding instruction of its version (R363), or where the version has none yet the slot
it stands for (log 64); its iteration numbers are those of its own pass (R358). -/
def fillRec (w : WalkSt) (own : BackRec) : BackRec :=
  match (w.slots.take (w.n - ((w.vers.getLast?.map Prod.snd).getD 0))).find? fun x => !x.fill with
  | some x => { own with pc := x.rec_.pc, mater := false }
  | none => own

/-- The instructions that put a static value into its register (R357). -/
def materialise (c : Nat) (v : W64) (r : BackRec) : List RSlot :=
  let r := { r with mater := c != lsCode }
  if 0x80 ≤ c && c < 0x90 then
    let f := { blankFields with
      dst := .p (Fin.ofNat 16 (c - 0x80)), opa := .p 0, opb := .p 0, opc := .p 0, imm := if v.getLsbD 0 then 0x80#32 else 0#32 }
    [{ op := 0x040, three := true, f := f, rec_ := r }]
  else
    let d : Operand := if c = lsCode then .ls else .s (Fin.ofNat 64 c)
    let lo : BitVec 32 := v.setWidth 32
    let f := { blankFields with typ := .s64, dst := d, imm := lo }
    let hi : RSlot :=
      { op := 0x01B, three := false, f := { f with mod := 1, opa := d, imm := v.extractLsb' 32 32 }, rec_ := r }
    { op := 0x01B, three := false, f := f, rec_ := r } :: if lo.signExtend 64 = v then [] else [hi]

def emitAll (w : WalkSt) (l : List RSlot) (check : Bool) : Walked WalkSt := l.foldlM (fun w x => emit w x check) w

/-- Registers in the order of a stop exit: s1 to s63, p1 to p15, ls. -/
def materialiseAll (st : Stat) (r : BackRec) : List RSlot := st.flatMap fun (c, v) => materialise c v r

/-- Close windows: the look value is the distance to the last slot emitted (R364). -/
def closeWins (w : WalkSt) (p : RWin → Bool) : WalkSt :=
  { w with
    looks := (w.wins.filter p).map (fun v => (v.at_, min 15 (w.n - 1 - v.at_))) ++ w.looks
    wins := w.wins.filter fun v => !p v }

/-- One original instruction of every open window is done. -/
def tickWins (w : WalkSt) : WalkSt :=
  closeWins { w with wins := w.wins.map fun v => { v with left := v.left - 1 } } fun v => v.left == 0

/-- A stop exit (R357, R359). -/
def stopExit (e : WalkEnv) (w : WalkSt) (pc : W64) (st : Stat) (ps : List Pass) (reason : Nat) : WalkSt :=
  let w := closeWins w fun _ => true
  let r := recOf e pc ps false
  let spstop : RSlot := { op := 0x3C1, three := false, f := blankFields, rec_ := r }
  let xs := materialiseAll st r ++ [spstop]
  { w with
    slots := xs.reverse ++ w.slots, n := w.n + xs.length
    cut := w.cut || reason == 1 || reason == 2 || reason == 4
    limits := if reason = 0 || reason = 5 || reason = 6 then w.limits else w.limits + 1 }

/-- Fill the line after the last instruction of a version (R31, R363). -/
def padLine : Nat → WalkSt → WalkSt
  | 0, w => w
  | k + 1, w => if w.n % 5 = 0 then w else match w.slots with
    | [] => w
    | x :: _ => padLine k { w with slots := filler false (fillRec w { x.rec_ with counts := false, mater := false }) :: w.slots, n := w.n + 1 }

/-- The passes counted at a slot: loops left are dropped, a loop is entered at its target, three at most (R358). -/
def enterLoops (e : WalkEnv) (pc : W64) (ps : List Pass) : List Pass :=
  let ps := ps.filter fun p => p.target.toNat ≤ pc.toNat && pc.toNat ≤ p.loop.toNat
  e.loops.foldl (fun ps (t, l) =>
    if t = pc && ps.length < 3 && !(ps.any fun p => p.loop == l) then ps ++ [{ loop := l, target := t, n := 0 }] else ps) ps

/-- A version that a branch wants: begun, waiting, or now put on the worklist. -/
def want (w : WalkSt) (k : VKey) (ps : List Pass) : WalkSt :=
  if w.vers.any (fun v => v.1 == k) || w.work.any (fun v => v.1 == k) then w else { w with work := w.work ++ [(k, ps)] }

/-- A removed instruction leaves a counted filler in a deterministic context (R366). -/
def removed (e : WalkEnv) (w : WalkSt) (pc : W64) (ps : List Pass) : Walked WalkSt :=
  if e.det then emit w (filler false (fillRec w (recOf e pc ps true))) true else .ok w

/-- Where the walk goes on, if its path does. -/
abbrev Onward := Option (W64 × Stat × List Pass)

/-! Folding (R67, R68, R357). -/

/-- The imm field that a type reads as these element bits, where there is one. -/
def immFor (three : Bool) (t : Typ) (v : Nat) : Option (BitVec 32) :=
  let n := if three then 22 else 32
  let raw : Nat := match t with
    | .f16 | .bf16 | .f32 | .f64 =>
      let x := if t = .f32 then v else (fpToFp (fmtOf t) ⟨8, 23⟩ .rne v).1
      if three then x / 1024 else x
    | .tm24 => lowBits n (tm24Int v)
    | _ => v % 2 ^ n
  let imm := BitVec.ofNat 32 raw
  if immBits three { blankFields with imm := imm } t = v then some imm else none

/-- The lowest small constant that a type reads as these bits. -/
def constFor (t : Typ) (v : Nat) : Option Nat :=
  (List.range 256).find? fun n => n != 0 && constOk t n && constBits t n == v

def kindAt (o : OpInfo) : Nat → Kind
  | 0 => o.dst | 1 => o.opa | 2 => o.opb | _ => o.opc
def fieldAt (f : Fields) : Nat → Operand
  | 0 => f.dst | 1 => f.opa | 2 => f.opb | _ => f.opc
def setField (f : Fields) (n : Nat) (x : Operand) : Fields :=
  match n with
  | 0 => { f with dst := x } | 1 => { f with opa := x } | 2 => { f with opb := x } | _ => { f with opc := x }

/-- The type with which a field reads a scalar, and whether it takes the immediate. -/
def foldable : Kind → Option (Typ × Bool)
  | .ss t => some (t, true)
  | .si => some (.s64, true)
  | .noImm | .groupSrc => some (.s64, false)
  | .dataQ | .fillQ => some (.q, true)
  | _ => none

def usesImm (f : Fields) : Bool := f.dst == .imm || f.opa == .imm || f.opb == .imm || f.opc == .imm

/-- Fold the static value of one field: a register, or a pair of .q with the first one low. s0 stays. -/
def foldField (o : OpInfo) (st : Stat) (x : Fields × Bool) (n : Nat) : Fields × Bool :=
  let (f, taken) := x
  let codes := kindCodes (kindAt o n) (fieldAt f n)
  match foldable (kindAt o n) with
  | none => x
  | some (t, immOk) =>
    if codes.isEmpty || codes == [0] then x
    else match codes.mapM st.get with
      | none => x
      | some l =>
        let v := (l.foldr (fun w v => w.toNat + 2 ^ 64 * v) 0) % 2 ^ (8 * t.size)
        (match (if taken || !immOk then none else immFor o.three t v), constFor t v with
         | some imm, _ => (setField { f with imm := imm } n .imm, true)
         | none, some k => (setField f n (.k (Fin.ofNat 256 k)), taken)
         | none, none => x)

/-- Ops whose imm is the displacement of a memory operand. -/
def hasDisp (i : Instr) (o : OpInfo) : Bool :=
  match i with
  | .cpyl _ => false
  | _ => o.opa == .addr && o.useImm

/-- A static base and index go into the displacement. -/
def foldMem (i : Instr) (o : OpInfo) (st : Stat) (f : Fields) : Fields :=
  if !hasDisp i o || usesImm f then f
  else
    let n := if o.three then 22 else 32
    let index : Bool := o.opb == .addr
    let base := (regCodes f.opa).head?.bind st.get
    let idx := if index then (regCodes f.opb).head?.bind st.get else none
    let shift : Nat := match i with
      | .lea _ => f.mod.val
      | _ => 0
    let sum := BitVec.ofInt 64 (immI o.three f) + base.getD 0 + (idx.getD 0 <<< shift)
    let d := sum.toInt
    if -(2 ^ (n - 1)) ≤ d && d < 2 ^ (n - 1) then
      { f with
        opa := if base.isSome then .s 0 else f.opa, opb := if idx.isSome then .s 0 else f.opb
        imm := BitVec.ofNat 32 (lowBits n d) }
    else f

/-- The descriptor that a payload's length comes from, where it is known. -/
def knownDesc (st : Stat) (f : Fields) : Option W64 :=
  match f.opb with
  | .imm => some (BitVec.ofNat 64 (immBits false f .s64))
  | .k n => some (BitVec.ofNat 64 (constBits .s64 n.val))
  | x => (regCodes x).head?.bind st.get

/-- A dynamic instruction with its static sources folded, and the registers to put in place before it. -/
def foldInstr (i : Instr) (o : OpInfo) (st : Stat) (f : Fields) : Fields × List Nat :=
  let desc := knownDesc st f
  let (g, _) := (List.range 4).foldl (foldField o st) (foldMem i o st f, o.useImm || usesImm f)
  let need := match i with
    | .brx _ | .ret _ => st.map Prod.fst
    | _ => (st.map Prod.fst).filter (reads i o g desc).contains
  (g, need)

/-! One instruction (R356). -/

/-- A static LD (R354, R359, R360): its bytes, where every byte lies in a SEALED region. -/
def staticLoad (e : WalkEnv) (w : WalkSt) (ea size : Nat) : Walked (WalkSt × List Byte) :=
  if rangeOf ea == .mmio && (size == 4 || size == 8) && ea % size == 0 then .error (.violation, w)
  else match access e.s (feCore e.ctx) .load ea size 0 with
  | .error i => .error (if i.cause = 10 || i.cause = 11 then .violation else .fallback, w)
  | .ok ps =>
    if rangeOf ea != .translated then .error (.violation, w)
    else
      let rs := [ea, ea + size - 1].filterMap fun a => regionAt e.s e.ctx a
      if !(rs.all fun r => r.mode == .sealed) then .error (.violation, w)
      else
        let all := (rs.map Region.base).foldl consIns w.regions
        if 4 < all.length then .error (.stop 9, w)
        else
          let bs := ps.map fun p => (p.key, readPart e.s 37376 0 p)
          .ok ({ w with regions := all, pois := (bs.filter fun x => anyPois x.2).map Prod.fst ++ w.pois }, bs.flatMap fun x => consume x.2)

/-- The new static values of a static LD. -/
def staticLd (e : WalkEnv) (w : WalkSt) (st : Stat) (f : Fields) : Walked (WalkSt × List (Nat × W64)) := do
  let val (x : Operand) : W64 := ((regCodes x).head?.bind st.get).getD 0
  let ea := (val f.opa + val f.opb + BitVec.ofInt 64 (immI false f)).toNat
  let size := f.typ.size
  let (w, bs) ← staticLoad e w ea size
  let v := ofBytes bs
  let n := regNo f.dst
  .ok (w, if f.typ = .q then [(n, BitVec.ofNat 64 (v % 2 ^ 64)), (n + 1, BitVec.ofNat 64 (v / 2 ^ 64))]
    else [(n, if f.mod = 1 then BitVec.ofInt 64 (toSigned (8 * size) v) else BitVec.ofNat 64 v)])

/-- Is each source of a static instruction static (R354)? -/
def allStatic (i : Instr) (o : OpInfo) (st : Stat) (f : Fields) : Bool :=
  st.has (guardCode f) && (reads i o f none).all st.has && f.opa != .lc && f.opb != .lc && f.opc != .lc

def mayBeStatic (i : Instr) : Bool :=
  (staticExec i).isSome || match i with
    | .br _ | .loop _ | .ld _ => true
    | _ => false

/-- The values that a static instruction with a true guard makes. -/
def staticVals (e : WalkEnv) (w : WalkSt) (pc : W64) (st : Stat) (i : Instr) (o : OpInfo) (f : Fields) :
    Walked (WalkSt × List (Nat × W64)) :=
  match i with
  | .ld _ => staticLd e w st f
  | .unif _ =>
    if ((List.range (2 ^ f.mod.val)).all fun k => e.mask.getD (f.imm.toNat + k) false) then other else .error (.violation, w)
  | _ => other
where
  other : Walked (WalkSt × List (Nat × W64)) :=
    match staticExec i with
    | none => .ok (w, [])
    | some g => match unitRun e.s (unitCore e.ctx e.block st pc) i o f g with
      | .vals l => .ok (w, l)
      | .fault => .error (.fallback, w)
      | .event => .error (.stop 7, w)

/-- A static LOOP is met, whatever its guard: its body's slots carry their numbers, and it lies at most three levels deep (R358). -/
def loopMet (e : WalkEnv) (w : WalkSt) (pc : W64) (ps : List Pass) (i : Instr) (f : Fields) : Walked Unit :=
  let target := relTarget pc (toSigned 32 f.imm.toNat)
  match i with
  | .loop _ =>
    if target.toNat ≤ pc.toNat && !e.loops.contains (target, pc) then .error (.again target pc, w)
    else if !(ps.any fun p => p.loop == pc) && 3 ≤ ps.length then .error (.stop 8, w)
    else .ok ()
  | _ => .ok ()

/-- A static LOOP whose guard is true: d, and where the walk goes. -/
def staticLoop (e : WalkEnv) (w : WalkSt) (pc : W64) (st : Stat) (ps : List Pass) (f : Fields) :
    Walked (Stat × W64 × List Pass) :=
  let a := (match f.opa with
    | .imm => some (BitVec.ofNat 64 (immBits false f .s64))
    | .k n => some (BitVec.ofNat 64 (constBits .s64 n.val))
    | .pc => some pc
    | .nc => some (BitVec.ofNat 64 (e.s.nc e.ctx))
    | x => (regCodes x).head?.bind st.get).getD 0
  let target := relTarget pc (toSigned 32 f.imm.toNat)
  let at_ := ps.findIdx? fun p => p.loop == pc
  let set (v : W64) : Stat := (regCodes f.dst).foldl (fun st c => st.set c v) st
  if a.toNat ≤ 1 then .ok (set 0, succPc pc, ps)
  else match at_ with
    | none => .ok (set (a - 1), target, ps)
    | some k =>
      let n := ((ps[k]?).map Pass.n).getD 0 + 1
      if 255 < n then .error (.stop 3, w)
      else .ok (set (a - 1), target, (ps.take k) ++ [{ loop := pc, target := target, n := n }] ++ ps.drop (k + 1))

/-- A static instruction. -/
def walkStatic (e : WalkEnv) (w : WalkSt) (pc : W64) (st : Stat) (ps : List Pass) (i : Instr) (o : OpInfo) (f : Fields) :
    Walked (WalkSt × Onward) := do
  if (fieldRegs f).any fun r => w.wins.any fun v => v.regs.contains r then .error (.stop 11, w)
  else if !mayBeStatic i || !allStatic i o st f then .error (.violation, w)
  else
    loopMet e w pc ps i f
    let on := (staticGuard st f).getD false
    let (w, vals) ← if on then staticVals e w pc st i o f else .ok (w, [])
    if f.stop then
      let w ← emit w (filler true (fillRec w (recOf e pc ps true))) true
      .ok (w, none)
    else
      let (st2, next, ps2) ← match on, i with
        | true, .br _ => .ok (st, relTarget pc (toSigned 32 f.imm.toNat), ps)
        | true, .loop _ => staticLoop e w pc st ps f
        | _, _ => .ok (vals.foldl (fun st (c, v) => st.set c v) st, succPc pc, ps)
      let w ← removed e w pc ps
      .ok (w, some (next, st2, ps2))

/-- The registers that an L op leaves pending. -/
def pendingRegs (i : Instr) (f : Fields) : List Reg :=
  match i with
  | .ld _ | .cas _ => pairRegs f.dst (f.typ == .q)
  | .ldf _ => regOf f.dst ++ regOf f.opb
  | _ => regOf f.dst

/-- A dynamic instruction whose guard is not static false. -/
def walkDynamic (e : WalkEnv) (w : WalkSt) (pc : W64) (st : Stat) (ps : List Pass) (i : Instr) (o : OpInfo) (f : Fields) :
    Walked (WalkSt × Onward) := do
  let sure := f.guard.p = 0
  let (g, need) := foldInstr i o st f
  let lost := gone i o f
  let keep := if sure then [] else (st.map Prod.fst).filter lost.contains
  let mats := (st.filter fun x => need.contains x.1 || keep.contains x.1).flatMap fun (c, v) => materialise c v (recOf e pc ps false)
  let w ← emitAll w mats true
  let idx := w.n
  let w ← emit w { op := i.opcode, three := o.three, f := g, rec_ := recOf e pc ps true } true
  let after := st.drop lost
  let w := match i with
    | .br _ | .loop _ =>
      if f.stop then w
      else
        let target := relTarget pc (toSigned 32 f.imm.toNat)
        let k : VKey := (target, after)
        { want w k (enterLoops e target ps) with fixes := (idx, k) :: w.fixes }
    | _ => w
  let w := if o.long && f.look != 0 then
      { w with wins := w.wins ++ [{ at_ := idx, left := f.look.val + 1, regs := pendingRegs i f }] } else w
  let ends : Bool := match i with
    | .br _ | .brx _ | .ret _ | .endTask _ => sure
    | _ => false
  .ok (w, if f.stop || ends then none else some (succPc pc, after, ps))

/-- The instruction at a slot, by the unit's fetch (R359, R360): its word's binding-time bit decides what an illegal one
does. -/
def fetchSlot (e : WalkEnv) (pc : W64) : Except Halt Instr :=
  if !slotOk pc then .error (.stop 10)
  else match fetchKey e.s (feCore e.ctx) pc with
    | .error _ => .error (.stop 10)
    | .ok key =>
      if lineWord e.s key != 0 || anyIn e.s.poison 16 (key + pc.toNat % 64) 12 then .error (.stop 10)
      else
        let w := codeWord e.s key pc
        match decode w with
        | .ok i => .ok i
        | .error _ => .error (if w.getLsbD 92 then .fallback else .stop 10)

/-- Walk one instruction; a unit spends 1 cc on each (log 7). -/
def walkOne (e : WalkEnv) (w : WalkSt) (pc : W64) (st : Stat) (ps : List Pass) : Walked (WalkSt × Onward) :=
  if 65536 ≤ w.walked then .error (.stop 4, w)
  else
    let w := { w with
      walked := w.walked + 1, lines := consIns w.lines (pc.toNat / 64), units := consIns w.units (pc.toNat / 65536) }
    match fetchSlot e pc with
    | .error h => .error (h, w)
    | .ok i => match i.info, i.fields? with
      | some o, some f =>
        if f.bt then walkStatic e w pc st ps i o f
        else
          let g := staticGuard st f
          let f := match g with
            | some b => { f with guard := { inv := !b, p := 0 } }
            | none => f
          let skip := g == some false
          if skip && !f.stop then (removed e w pc ps).map fun w => (w, some (succPc pc, st, ps))
          else match i, f.stop with
            | .call _, false => .error (.stop 6, w)
            | .spstop _, false => .error (.stop 5, w)
            | _, _ =>
              if skip then
                (emit w { op := i.opcode, three := o.three, f := f, rec_ := recOf e pc ps true } true).map
                  fun w => (w, none)
              else walkDynamic e w pc st ps i o f
      | _, _ => .error (.stop 10, w)

/-- A path, to its end (R358). -/
def walkPath : Nat → WalkEnv → WalkSt → W64 → Stat → List Pass → Bool → Walked WalkSt
  | 0, e, w, pc, st, ps, _ => .ok (stopExit e w pc st ps 4)
  | fuel + 1, e, w, pc, st, ps, first =>
    let ps := enterLoops e pc ps
    let stopped (h : Halt) (w : WalkSt) : Walked WalkSt :=
      match h with
      | .stop r => .ok (stopExit e w pc st ps r)
      | h => .error (h, w)
    if !first && w.vers.any (fun v => v.1 == (pc, st)) then
      let w := closeWins w fun _ => true
      match emit w { op := 0x0C0, three := false, f := blankFields, rec_ := recOf e pc ps false } true with
      | .ok w' => .ok { w' with fixes := (w.n, (pc, st)) :: w'.fixes }
      | .error (h, w) => stopped h w
    else match walkOne e w pc st ps with
      | .error (h, w) => stopped h w
      | .ok (w, next) =>
        let w := tickWins w
        match next with
        | none => .ok (closeWins w fun _ => true)
        | some (pc, st, ps) => walkPath fuel e w pc st ps false

/-- The worklist, version by version, each from a new line. -/
def walkAll : Nat → WalkEnv → WalkSt → Walked WalkSt
  | 0, _, w => .ok w
  | fuel + 1, e, w => match w.work with
    | [] => .ok (padLine 5 w)
    | ((pc, st), ps) :: rest =>
      let w := padLine 5 { w with work := rest }
      let w := { w with vers := w.vers ++ [((pc, st), w.n)] }
      if w.cut then walkAll fuel e (stopExit e w pc st ps 0)
      else match walkPath 70000 e w pc st ps true with
        | .ok w => walkAll fuel e w
        | .error x => .error x

/-- The static loops found, an enclosing one first. -/
def addLoop (loops : List (W64 × W64)) (t l : W64) : List (W64 × W64) :=
  let size (x : W64 × W64) : Nat := x.2.toNat - x.1.toNat
  loops.filter (fun x => l.toNat - t.toNat ≤ size x) ++ [(t, l)] ++ loops.filter fun x => size x < l.toNat - t.toNat

def walkFrom : Nat → WalkEnv → W64 → Walked WalkSt
  | 0, _, _ => .error (.fallback, WalkSt.empty)
  | fuel + 1, e, pc =>
    match walkAll 20000 e { WalkSt.empty with work := [((pc, []), enterLoops e pc [])] } with
    | .error (.again t l, _) => walkFrom fuel { e with loops := addLoop e.loops t l } pc
    | r => r

/-- The slots of a finished walk, branches aimed and look values set. -/
def finishSlots (w : WalkSt) : List RSlot :=
  let l := w.slots.reverse
  (l.zip (List.range l.length)).map fun (x, i) =>
    let x := match w.fixes.find? fun y => y.1 == i with
      | some (_, k) => match w.vers.find? fun v => v.1 == k with
        | some (_, j) => { x with f := { x.f with imm := BitVec.ofInt 32 ((j : Int) - i) } }
        | none => x
      | none => x
    match w.looks.find? fun y => y.1 == i with
    | some (_, n) => { x with f := { x.f with look := Fin.ofNat 16 n } }
    | none => x

/-! Storing the result (R361-R363). -/

/-- A die's cache holds 256 MiB of 64-byte lines, each with a back-map entry of 128 bytes. -/
def cacheLines : Nat := 0x10000000 / 192
/-- Lines of a die's window. -/
def windowLines : Nat := 0x10000000 / 64

/-- Some task runs in an entry, or has entered it and has not ended, or is on its way there (R362). -/
def pinned (s : State) (die : Nat) (e : SpecEntry) : Bool :=
  let inside (pc : W64) : Bool :=
    let b := residualBase die + e.line * 64
    b ≤ pc.toNat && pc.toNat < b + e.lines * 64
  let runs (x : CtxCore) : Bool := x.ctx == e.ctx && [x.b0, x.b1].any fun b => b.task.live && (inside b.pc || inside b.task.entry)
  let started (l : Launch) : Bool := s.cores.any fun c => (c.cx :: c.saved).any fun x =>
    [x.b0, x.b1].any fun b => b.task.live && b.task.launch == some l.id
  !e.refused && ((s.cores.any fun c => dieOf c.phys == die && (c.cx :: c.saved).any runs)
    || (s.launches.any fun l => l.ctx == e.ctx && inside l.pc && !l.ended && !started l)
    || (s.spec.toList.any fun d => d.walks.any fun w => (w.outcome.map inside).getD false))

def overlaps (a n b m : Nat) : Bool := a < b + m && b < a + n

/-- A run of free lines: the one a free value names (log 5), or the lowest. -/
def placeFor (d : SpecDie) (n fresh : Nat) : Option Nat :=
  let ok (a : Nat) : Bool := a + n ≤ windowLines && !(d.entries.any fun e => overlaps a n e.line e.lines)
  let a := (Config.freeWord fresh).toNat % windowLines
  if ok a then some a
  else (0 :: (d.entries.map fun e => e.line + e.lines)).find? ok

/-- The entry to evict: the unpinned one hit least recently. -/
def evictee (s : State) (die : Nat) (d : SpecDie) : Option SpecEntry :=
  (d.entries.filter fun e => !pinned s die e).foldl (fun b e => match b with
    | none => some e
    | some x => if e.hit < x.hit then some e else some x) none

def dropEntry (s : State) (die : Nat) (e : SpecEntry) : State :=
  countSpec (s.modSpec die fun d => d.without fun x => x == e) die 5

/-- Make room for n lines, and place them; none where the pinned entries leave none. -/
def makeRoom : Nat → State → Nat → Nat → State × Option Nat
  | 0, s, _, _ => (s, none)
  | fuel + 1, s, die, n =>
    if h : die < 8 then
      let d := s.spec[die]
      let used := d.entries.foldl (fun k e => k + e.lines) 0
      match (if used + n ≤ cacheLines then placeFor d n s.fresh else none) with
      | some a => (s.drawn, some a)
      | none => match evictee s die d with
        | some e => makeRoom fuel (dropEntry s die e) die n
        | none => (s, none)
    else (s, none)

/-- One residual line (R363). -/
def storeLine (s : State) (die line : Nat) (xs : List RSlot) : State :=
  let bytes := xs.flatMap fun x => (encodeFields x.op x.three { x.f with bt := false }).toBytes
  let s := { s with mem := writeCells s.mem (residualBase die + line * 64) (bytes ++ toBytes 4 (0x80000000 + line)) }
  s.modSpec die fun d => { d with backmap := d.backmap ++ [(line, xs.map RSlot.rec_)] }

def storeLines (s : State) (die base : Nat) (xs : List RSlot) : State :=
  (List.range (xs.length / 5)).foldl (fun s k => storeLine s die (base + k) (sub xs (5 * k) 5)) s

def addEntry (s : State) (die : Nat) (e : SpecEntry) : State := s.modSpec die fun d => { d with entries := d.entries ++ [e] }

/-- The entry that a walk's outcome makes. -/
def newSpec (s : State) (wk : Walk) (w : WalkSt) (refused : Bool) (line lines hit : Nat) : SpecEntry :=
  { ctx := wk.ctx, det := wk.det, pc := wk.pc, block := wk.block, version := versionOf s wk.ctx (wk.pc.toNat / 65536), refused := refused
    stale := false, line := line, lines := lines, regions := w.regions, units := w.units, hit := hit }

/-- Has any version count that the walk depends on changed since it started (R362)? -/
def walkStale (s : State) (wk : Walk) (w : WalkSt) : Bool :=
  (consIns w.units (wk.pc.toNat / 65536)).any fun u => versionIn wk.versions wk.ctx u != versionOf s wk.ctx u

/-- A walk, and what the launches that wait for it start at. -/
def doWalk (s : State) (die : Nat) (wk : Walk) : State × W64 :=
  let hit := if h : die < 8 then s.spec[die].lookups else 0
  let e : WalkEnv := { s := s, ctx := wk.ctx, det := wk.det, block := wk.block, mask := maskOf s wk.ctx wk.pc, loops := [] }
  -- what the walk has met counts however it ends: poison read, and stops (R359)
  let met (s : State) (w : WalkSt) : State :=
    (List.range w.limits).foldl (fun s _ => countSpec s die 2) (w.pois.foldl (fun s k => countPois s k 1) s)
  match walkFrom 65536 e wk.pc with
  | .error (.violation, w) =>
    let s := countSpec (met s w) die 4
    (if walkStale s wk w then s else addEntry s die (newSpec s wk w true 0 0 hit), wk.pc)
  | .error (_, w) => (countSpec (met s w) die 3, wk.pc)
  | .ok w =>
    let s := met s w
    if walkStale s wk w then (s, wk.pc)
    else
      let xs := finishSlots w
      let n := xs.length / 5
      let tries := (if h : die < 8 then s.spec[die].entries.length else 0) + 1
      match makeRoom tries s die n with
      | (s, none) => (s, wk.pc)
      | (s, some base) =>
        (addEntry (storeLines s die base xs) die (newSpec s wk w false base n hit), BitVec.ofNat 64 (residualBase die + base * 64))

/-- SPECIALISER_WALK: the k-th walk of a die is made, at once. -/
def execSpecialiserWalk (die k : Nat) (s : State) : Res :=
  .next (if h : die < 8 then
    match s.spec[die].walks[k]? with
    | none => s
    | some w =>
      if w.outcome.isSome then s
      else
        let (s, pc) := doWalk s die w
        s.modSpec die fun d => { d with walks := mapIf (fun x => x.id == w.id) (fun x => { x with outcome := some pc }) d.walks }
    else s)

end Sys2Proof.Machine
end

