-- ==== Sys2Proof/Machine/Stash.lean ====
section
/-! DEFINITION. The stash instructions and the local memory of unmapped frames (R187, R188, R217, R218). -/

namespace Sys2Proof.Machine

/-- Key of a frame's first byte of scratch. -/
def frameKey (phys n : Nat) : Nat := localKey phys (n * 256)

/-- Unmapping leaves undefined scratch and empty bits (R218): every byte of the frame is a free value. -/
def scrapFrame (s : State) (phys n : Nat) : State :=
  let key := frameKey phys n
  let s' := (List.range 256).foldl (fun (s : State) i =>
    { s with mem := writeCell s.mem (key + i) (Config.freeByte s.fresh), fresh := s.fresh + 1 }) s
  { s' with full := s'.full.filter fun w => !(key ≤ w * 8 && w * 8 < key + 256)
            poison := s'.poison.filter fun g => !(key ≤ g * 16 && g * 16 < key + 256) }

/-- A run of generic addresses meets a frame. -/
def inFrame (n : Nat) (r : Nat × Nat) : Bool := ownBase + n * 256 < r.1 + r.2 && r.1 < ownBase + n * 256 + 256

/-- A command of an engine, waiting or executing, names the frame; one whose addresses may still change counts as naming it. -/
def Cmd.names (s : State) (c : Core) (n : Nat) (k : Cmd) (x : Option Exec) : Bool :=
  match k.spans s c x with
  | none => true
  | some (rd, wr) => rd.any (inFrame n) || wr.any (inFrame n)

/-- Some operation or engine command of the core names the frame (R217). -/
def frameBusy (s : State) (c : Core) (n : Nat) : Bool :=
  (c.ops.any fun o => o.st != .done && o.parts.any fun p => !p.done && inFrame n (p.va, p.len))
    || (engs.any fun e => (c.eng e).waiting.any (fun k => k.names s c n none) || ((c.eng e).run.any fun x => x.cmd.names s c n (some x)))
    || (c.draining && (drainSpans c.cx.gear).any (inFrame n))

/-- STMAP (R187, R217): a SEALED block's frame is read-only. A block already mapped by another frame is an access fault. Its own
faults report a load of 256 bytes (log 24). -/
def execStmap (f : Fields) (s : State) : Res :=
  .next (run f (fun s =>
    let c := s.here
    let a := (rd s f f.opa).toNat
    let n := (rd s f f.opb).toNat
    if 256 ≤ n then .fault (illegalInfo (encode (.stmap f)))
    else if c.fenced then .stall
    else if a % 256 != 0 || 0x800000000000 ≤ a then .fault (addrFault a .load 256)
    else match translate s c a with
      | none => .fault (transFault a .load 256)
      | some (pa, _) => match regionCheck s c a .stmap (akWord .load 256) with
        | some i => .fault i
        | none =>
          if c.frames.any fun g => g.n != n && g.pa == pa then .fault (accessFault a .load 256)
          else if frameBusy s c n then .stall
          else
            let ro := ((regionAt s c.cx.ctx a).map fun r => r.mode == .sealed || sealedMark c r.base).getD false
            let fr : Frame := { n := n, va := a, pa := pa, readOnly := ro, filled := false, dirty := false }
            let key := frameKey c.phys n
            let s := s.setCore { c with frames := fr :: c.frames.filter fun g => g.n != n }
            .done { s with full := s.full.filter fun w => !(key ≤ w * 8 && w * 8 < key + 256) }) s)

/-- Unmap a frame: its block is written back and released, its local words hold undefined scratch (R218). -/
def unmapFrame (s : State) (phys n : Nat) : State :=
  let c := s.core phys
  if c.frames.any fun g => g.n == n then
    scrapFrame (s.setCore { c with frames := c.frames.filter fun g => g.n != n }) phys n
  else s

/-- Stores through these frames that have not applied: what a write-back waits for. -/
def frameStores (c : Core) (n : Nat) : Bool :=
  c.ops.any fun o => (o.isStore || o.isAtomic) && o.st != .done && o.parts.any fun p => !p.done && inFrame n (p.va, p.len)

/-- STSYNC (R218): a dirty block is written back, which leaves its bytes as they are, since a stash write is in its line's
serial order already when it is made (R188). -/
def execStsync (f : Fields) (s : State) : Res :=
  .next (run f (fun s =>
    let c := s.here
    let a := (rd s f f.opa).toNat
    let all := c.frames.map Frame.n
    if f.mod ≠ 1 && 256 ≤ a then .fault (illegalInfo (encode (.stsync f)))
    else if c.fenced then .stall
    else match f.mod.val with
      | 0 => if frameStores c a then .stall else .done (unmapFrame s c.phys a)
      | 1 => if all.any (frameStores c) then .stall else .done (all.foldl (fun s n => unmapFrame s c.phys n) s)
      | _ => if frameStores c a then .stall
             else .done (s.setCore { c with frames := mapIf (fun g => g.n == a) (fun g => { g with dirty := false }) c.frames })) s)

end Sys2Proof.Machine
end

