-- ==== Sys2Proof/Machine/Switch.lean ====
section
/-! DEFINITION. Switching a core from one context to another (R120, R163, R169, R274, R298, R312, R320, R428). -/

namespace Sys2Proof.Machine

/-- Step 2 of R163: everything has drained but a waiting CPYL, a suspended WRUN with what waits behind it, and a frozen drain
buffer with what waits behind it. -/
def shuDrained (q : EngQ) : Bool :=
  q.waiting.isEmpty && match q.run with
    | none => true
    | some x => x.phase == .waitFlag
def weftDrained (q : EngQ) : Bool :=
  match q.run with
  | none => q.waiting.isEmpty
  | some x => x.phase == .suspended
def gearDrained (c : Core) : Bool :=
  (!c.draining || c.drainHeld) && match c.gear.run with
    | none => c.gear.waiting.isEmpty
    | some x => x.phase == .waitBuffer && c.draining

/-- A deterministic context's core has done nothing since the boundary; an idle one stays idle till the next. -/
def atBoundary (s : State) (c : Core) : Bool :=
  !s.det c.cx.ctx || c.cx.qret == 0 && (c.cx.sel || idleCore c.cx) && (s.redo.all fun r => r.phys != c.phys)

/-- A core that may leave its context: no masked window is open, nothing is under way. A deterministic context leaves at a
boundary alone. -/
def maySwitch (s : State) (c : Core) : Bool :=
  c.cx.mwin == 0 && (c.ops.all fun o => o.st == .done && o.dst.isEmpty) && c.sending.isEmpty
    && c.vec.cmds.isEmpty && shuDrained c.shu && weftDrained c.weft && gearDrained c
    && atBoundary s c

/-- Move the bytes of one run of addresses to another place; what stood there is gone. Poison goes with its granule. -/
def moveRun (s : State) (src : Nat → Option Nat) (isDst : Nat → Bool) : State :=
  let cells := s.mem.filterMap fun c => (src c.1).map fun k => (k, c.2)
  let gran := s.poison.filterMap fun g => (src (g * 16)).map (· / 16)
  { s with
    mem := cells.foldl (fun m c => writeCell m c.1 c.2) (s.mem.filter fun c => !isDst c.1)
    poison := gran.foldl nins (s.poison.filter fun g => !isDst (g * 16)) }

/-- The offset in local memory that a byte of the save area holds (R171). -/
def saveOff (s : State) (ctx phys pa : Nat) : Option Nat :=
  (List.range 32).findSome? fun i =>
    let b := savePa s ctx phys (i * 4096)
    if b ≤ pa && pa < b + 4096 then some (i * 4096 + (pa - b)) else none

def isLocalOf (phys key : Nat) : Bool := isLocalKey key && localOwner key == phys

/-- Local memory and its full-empty bits to the save area (R169). -/
def saveLocal (s : State) (ctx phys : Nat) : State :=
  moveRun s (fun k => if isLocalOf phys k then some (savePa s ctx phys ((k - peerBase) % 0x20000)) else none)
    (fun k => (saveOff s ctx phys k).isSome)
def localFull (s : State) (phys : Nat) : List Nat :=
  (s.full.filter fun w => isLocalOf phys (w * 8)).map fun w => (w * 8 - peerBase) % 0x20000 / 8

/-- And back. -/
def loadLocal (s : State) (ctx phys : Nat) (full : List Nat) : State :=
  let s := moveRun s (fun k => (saveOff s ctx phys k).map (localKey phys)) (isLocalOf phys)
  { s with full := full.foldl (fun l w => nins l (localKey phys (w * 8) / 8)) (s.full.filter fun w => !isLocalOf phys (w * 8)) }

/-- What is not saved is undefined when the context returns: a bank that runs no task, a tile with tag 0 (R120; log 5). -/
def keptOnly (x : CtxCore) (n : Nat) : CtxCore :=
  { x with
    b0 := if x.b0.task.live then x.b0 else deadBank x.b0 n
    b1 := if x.b1.task.live then x.b1 else deadBank x.b1 (n + 128)
    tiles := Vector.ofFn fun (t : Fin 8) =>
      if x.tiles[t].tag = 0 then { x.tiles[t] with rows := freeRows (n + 256 + 32 * t.val) } else x.tiles[t] }

/-- The outgoing context's part of the core, with what R163 saves. -/
def outgoing (c : Core) (full : List Nat) (n : Nat) : CtxCore :=
  { keptOnly c.cx n with
    savedFull := full, savedWeft := c.weft.waiting.map savedEntry, savedRun := c.weft.run, savedGear := c.gear }

/-- The core with another context's part, or with none; the loupe's accumulators are cleared (R428). -/
def incoming (c : Core) (y : CtxCore) (saved : List CtxCore) : Core :=
  { c with
    cx := { y with savedFull := [], savedWeft := [], savedRun := none, savedGear := EngQ.reset }
    saved := saved, dacc := Vector.replicate 64 0
    weft := { waiting := y.savedWeft.filterMap SavedCmd.weft, run := y.savedRun }, gear := y.savedGear }

/-- Frames are written back and unmapped before local memory is saved: what was mapped is then undefined and empty (R169, R218). -/
def unmapAll (s : State) (phys : Nat) : State := (s.core phys).frames.foldl (fun s f => unmapFrame s phys f.n) s

/-- A CPYL with nothing behind it ends with −32 (R274). -/
def cancelWaiting (c : Core) : Core :=
  match c.shu.run with
  | some x => { writeToken c x.cmd tokCancelled with shu := EngQ.reset }
  | none => c

/-- A waiting CPYL that others wait behind is cancelled first, and these drain. -/
def cancelFirst (s : State) (p : Nat) : State :=
  s.modCore p fun c => match c.shu.run with
    | some x => if x.phase == .waitFlag && !c.shu.waiting.isEmpty && atBoundary s c then c.setRun .shu (some (cancelExec false x)) else c
    | none => c

/-- One core goes over to a context, or to none where it holds no image of it. A waiting CPYL is cancelled; an action accepted
while the context was out takes effect. -/
def switchCore (s : State) (phys ctx : Nat) : State :=
  let s := unmapAll (s.modCore phys cancelWaiting) phys
  let c := s.core phys
  let old := c.cx.ctx
  let s1 := if old = noCtx then s else saveLocal s old phys
  let kept := if old = noCtx then c.saved else c.saved ++ [outgoing c (localFull s phys) s.fresh]
  let y := (c.saved.find? fun x => x.ctx == ctx).getD (CtxCore.reset noCtx 0)
  let s2 := ({ s1 with fresh := s1.fresh + 512 } : State).setCore (incoming c y (kept.filter fun x => x.ctx != y.ctx))
  let s3 := if y.ctx = noCtx then s2 else loadLocal s2 ctx phys y.savedFull
  let s4 := match y.frz.accepted with
    | some a => if s.det ctx then s3 else takeAction s3 phys a
    | none => s3.modCore phys Core.leaveStop
  -- a stop asked for in a deterministic context, which this one is not (R425)
  if (s4.core phys).loupe.stopReq && !s.det y.ctx then
    haltCore (s4.modCore phys fun c => { c with loupe := { c.loupe with stopReq := false } }) phys
  else s4

/-- Does the context hold the core's train in gang form (R308)? -/
def gangCtx (s : State) (ctx phys : Nat) : Bool :=
  match s.ctx? ctx with
  | some x => (trainCores (trainOf phys)).all fun p => isCompute s.width p && x.grant.contains p
  | none => false

/-- Gang GMMs that a core has issued and whose step has not ended. -/
def gangWaiting (c : Core) : Nat := (cmds.filter isGang).length
where
  cmds : List Cmd := match c.gear.run with
    | some x => if x.phase == .faulted then c.gear.waiting else x.cmd :: c.gear.waiting
    | none => c.gear.waiting
  isGang (k : Cmd) : Bool := match k.ins with
    | .gmm f => f.mod == 1
    | _ => false

/-- Gang GMMs that a core has issued: those whose step has ended or timed out, and those that wait. -/
def gangIssued (c : Core) : Nat := c.cx.gear.steps.toNat + c.cx.gear.lost + gangWaiting c

/-- The cores of a train have issued equally many gang GMMs (R312), modulo the step count's 16 bits. Where a timeout has ended steps
that some had not issued for, equally many wait, or those that lag are held at a frozen drain buffer and can issue no more. -/
def gangLevel (s : State) (ps : List Nat) : Bool :=
  let like (n : Core → Nat) : Bool := ps.all fun p => n (s.core p) == n (s.core (ps.headD 0))
  let issued (p : Nat) : Nat := gangIssued (s.core p) % 65536
  let held (p : Nat) : Bool := (s.core p).draining && (s.core p).drainHeld
  like (fun c => gangIssued c % 65536) || like gangWaiting
    || (!like (fun c => c.cx.gear.lost) && ps.any fun q => ps.all fun p => issued p == issued q || held p)

/-- CONTEXT_SWITCH. A context with a train in gang form is switched on the train's eight cores at once, and leaves them once they are
level (R312). -/
def execContextSwitch (phys ctx : Nat) (s : State) : Res :=
  let c := s.core phys
  let ps := if gangCtx s c.cx.ctx phys || gangCtx s ctx phys then trainCores (trainOf phys) else [phys]
  .next (if c.cx.ctx = ctx || !s.alive ctx || !(c.saved.any fun x => x.ctx == ctx) then s
    else if (!gangCtx s c.cx.ctx phys || gangLevel s ps) && ps.all fun p => maySwitch s (s.core p) then
      ps.foldl (fun s p => if (s.core p).cx.ctx = ctx then s else switchCore s p ctx) s
    else ps.foldl cancelFirst s)

end Sys2Proof.Machine
end

