-- ==== Sys2Proof/Machine/TaskMsg.lean ====
section
/-! DEFINITION. Class 4, the task and message instructions (R137-R146). -/

namespace Sys2Proof.Machine

def execSend (f : Fields) (s : State) : Res :=
  .next (run f (fun s =>
    let a := rd s f f.opa
    let b := rd s f f.opb
    if !sendDescOk b then .fault (illegalInfo (encode (.send f)))
    else if (ncWord s).toNat ≤ a.toNat then .fault (msgFault a b)
    else sendTo s f 0 a.toNat b) s)

def execSpawn (f : Fields) (s : State) : Res :=
  .next (run f (fun s =>
    let a := rd s f f.opa
    let b := rd s f f.opb
    if !sendDescOk b then .fault (illegalInfo (encode (.spawn f)))
    else match targetOf s s.here a.toNat with
      | .error i => .fault i
      | .ok none => .fault (msgFault a b)
      | .ok (some d) => sendTo s f 1 d b) s)

def execBind (f : Fields) (s : State) : Res :=
  .next (run f (fun s =>
    let b := rd s f f.opb
    if bit b 7 || bits b 9 55 != 0 then .fault (illegalInfo (encode (.bind f)))
    else .done (s.setCore (s.here.setChan (bits b 0 4)
      (chanEntry (if bit b 8 then 1 else 2) (bits b 4 3) (rd s f f.opa))))) s)

def execUnbind (f : Fields) (s : State) : Res :=
  .next (run f (fun s =>
    let a := rd s f f.opa
    if 16 ≤ a.toNat then .fault (illegalInfo (encode (.unbind f)))
    else
      let e := s.here.chan a.toNat
      .done (s.setCore (s.here.setChan a.toNat (chanEntry 0 (chanPrio e) (chanHandler e))))) s)

/-- Discard a channel's messages in slots and overflow area; freed slots refill (R105, R142). DESIGN CHOICE (log 101): a launch of the
front end whose message is discarded never reports an end. -/
def flushChan (x : CtxCore) (n : Nat) : CtxCore :=
  let mine (h : Held) : Bool := h.msg.ch.toNat == n
  let k := (x.slots.filter fun t => mine t.held).length + (x.overflow.filter mine).length
  refill { x with
    slots := x.slots.filter fun t => !mine t.held
    overflow := x.overflow.filter fun h => !mine h
    msgDrop := x.msgDrop + BitVec.ofNat 64 k }

def execChctl (f : Fields) (s : State) : Res :=
  .next (run f (fun s =>
    let a := rd s f f.opa
    let b := rd s f f.opb
    if 16 ≤ a.toNat || (f.mod = 3 && 8 ≤ b.toNat) then .fault (illegalInfo (encode (.chctl f)))
    else
      let n := a.toNat
      let e := s.here.chan n
      let s := wres s f.dst e
      match f.mod.val with
      | 1 => .done (s.setCore (s.here.setChan n
          (if chanState e = 2 then chanEntry 1 (chanPrio e) (chanHandler e) else e)))
      | 2 => .done (s.setCore (s.here.setChan n
          (if chanState e = 1 then chanEntry 2 (chanPrio e) (chanHandler e) else e)))
      | 3 => .done (s.setCore (s.here.setChan n (chanEntry (chanState e) b.toNat (chanHandler e))))
      | 4 => .done (s.setCore { s.here with cx := flushChan s.here.cx n })
      | _ => .done s) s)

/-- MWIN counts from the instruction after it; an open window and bank 1 make it a no-op (R115). -/
def execMwin (f : Fields) (s : State) : Res :=
  .next (run f (fun s =>
    let c := s.here
    if c.rb || c.cx.mwin != 0 then .done s
    else .done (s.setCore { c with cx := { c.cx with mwin := f.imm.toNat + 2 } })) s)

/-- The queue whose QKICK register has this address, with its kick right held by the context (R140, R395). -/
def kickQueue (s : State) (ctx a : Nat) : Option Nat :=
  if mmioBase ≤ a && a < mmioBase + 8 * 0x400000 && a % 4096 == 0 then
    let n := (a - mmioBase) / 4096
    if ((s.ctx? ctx).map fun x => x.kicks.contains n).getD false then some n else none
  else none

def execQsend (f : Fields) (s : State) : Res :=
  .next (run f (fun s =>
    let a := rd s f f.opa
    let b := rd s f f.opb
    let len := bits b 8 6
    if bits b 14 50 != 0 || 52 < len then .fault (illegalInfo (encode (.qsend f)))
    else match kickQueue s s.here.cx.ctx a.toNat with
      | none => .fault (accessFault a.toNat .store 8)
      | some q =>
        if s.here.waits (sRange (regNo f.dst) ((len + 7) / 8)) then .stall
        else sendOut (traceUnit s)
          (.packet q (BitVec.ofNat 8 (bits b 0 8)) len (regBytes s.bank (regNo f.dst) len))) s)

def execHome (f : Fields) (s : State) : Res :=
  .next (run f (fun s =>
    match targetOf s s.here (rd s f f.opa).toNat with
    | .error i => .fault i
    | .ok none => .done (pushResult s (.home f) f (BitVec.ofNat 128 (2 ^ 64 - 1)) 0)
    | .ok (some l) => .done (pushResult s (.home f) f (BitVec.ofNat 128 l) 0)) s)

end Sys2Proof.Machine
end

