-- ==== Sys2Proof/Machine/UnitEvents.lean ====
section
/-! DEFINITION. Events of the shared units: keepers, translation and stash (R173, R178-R181, R187, R188), heddle units
(R330-R340) and collective engines (R376-R385). Those of a deterministic context happen at its boundaries alone. -/

namespace Sys2Proof.Machine

/-! Keepers. -/

/-- The translated address of a part, through a mapped frame where there is one. -/
def partVa (c : Core) (p : Part) : Nat :=
  match ownOffset p.va with
  | some o => match frameAt c o with
    | some f => f.va + o % 256
    | none => p.va
  | none => p.va

/-- A run of translated memory, and an access to it. -/
def meets (c : Core) (lo len : Nat) (p : Part) : Bool := lo < partVa c p + p.len && partVa c p < lo + len

/-- What an executing WRUN has checked of its tile and not read: its picks from the current one on (R286, R289). -/
def picksLeft (x : Exec) : List Part :=
  match x.cmd.ins with
  | .wrun _ =>
    if x.phase == .running then
      (List.range (64 - x.row)).map fun i => { va := x.cmd.addr + 128 * (x.row + i), key := 0, len := 128, off := 0, done := false }
    else []
  | _ => []

/-- Accesses of a core to a run of translated memory that it has checked and not made (R178); of an asking core those older than its
request alone, where `upTo` says so. -/
def uses (c : Core) (lo len : Nat) (upTo : Option Nat) : Bool :=
  let old (id : Nat) : Bool := upTo.all fun n => id < n
  let hit (p : Part) : Bool := !p.done && meets c lo len p
  (c.ops.any fun o => old o.id && o.st != .done && !o.late && o.parts.any hit)
    || engs.any fun e => match (c.eng e).run with
      | some x => old x.cmd.id && (x.rd.any hit || x.wr.any hit || (picksLeft x).any hit)
      | none => false

/-- Older accesses of the asking core that have not been checked yet: of late loads, and of engine commands that have not started
or have parts to come (R51, R54). -/
def usesLater (s : State) (c : Core) (lo len id : Nat) : Bool :=
  let hit (r : Nat × Nat) : Bool := meets c lo len { va := r.1 % 2 ^ 64, key := 0, len := r.2, off := 0, done := false }
  let open_ (k : Cmd) (x : Option Exec) : Bool := k.id < id && k.usesMem && match k.spans s c x with
    | none => true
    | some (rd, wr) => rd.any hit || wr.any hit
  (c.ops.any fun o => o.id < id && o.st != .done && o.late && o.parts.any (meets c lo len))
    || (engs.any fun e => ((c.eng e).waiting.any fun k => open_ k none) || ((c.eng e).run.any fun x => !x.wrote && open_ x.cmd (some x)))
    || (c.draining && c.cx.gear.did < id && (drainSpans c.cx.gear).any hit)

/-- Every core of the context has acknowledged a change: it has made every access that it has checked (R178). A CAPGIVE or SEAL follows
every older access of its core (R51, R54); behind a CLAIM no access of its core has issued (R52, `accessHeld`); a RMODE does neither,
so that all its core's accesses count. -/
def acknowledged (s : State) (r : KReq) (g : Region) : Bool :=
  match s.ctx? r.ctx with
  | none => true
  | some x => x.grant.all fun p =>
    let c := s.core p
    let len := g.units * 0x10000
    c.cx.ctx != r.ctx || (if p != r.phys then !uses c g.base len none else match r.ask with
      | .rmode _ => !uses c g.base len none
      | .claim => !uses c g.base len (some r.op)
      | .give _ | .seal => !uses c g.base len (some r.op) && !usesLater s c g.base len r.op)

/-- The entry that a request is about. -/
def KReq.region (s : State) (r : KReq) : Option Region := s.regions.find? fun g => g.ctx == r.ctx && g.base == r.base

def keeperNode (s : State) (ctx base : Nat) : Nat :=
  ((s.ctx? ctx).bind fun x => (walk s x.root base).map fun (b, _, pa, _) => homePhys s.width (pa + (base - b))).getD 0

def hasAuthority (s : State) (ctx lc : Nat) : Bool := ((s.ctx? ctx).map fun x => x.authority.contains lc).getD false

/-- What a request makes of the entry, if R179 still allows it when it is served. -/
def newEntry (s : State) (r : KReq) (g : Region) : Option Region :=
  let holds := g.mode == .held && g.holder == r.lc
  let auth := hasAuthority s r.ctx r.lc
  match r.ask with
  | .give d => if holds then some { g with holder := d } else none
  | .seal => if holds || ((g.mode == .opn || g.mode == .atomic) && auth) then some { g with mode := .sealed, holder := 0 } else none
  | .claim => if g.mode == .sealed then some { g with mode := .held, holder := r.lc } else none
  | .rmode m => if auth && (g.mode != .held || holds) then some { g with mode := m, holder := 0 } else none

/-- The recipient's capability arrival (R180). Its sender for R50 is the keeper's node, its header names the giver (log 75). -/
def capArrival (s : State) (r : KReq) (g : Region) (d : Nat) : State :=
  let p := payload (BitVec.ofNat 64 g.base) (BitVec.ofNat 64 (r.lc + g.units * 0x10000)) 0
  let m := mkMsg 6 16 15#4 0#16 (BitVec.ofNat 16 r.lc) p
  s.post { ctx := r.ctx, dst := d, src := .home (keeperNode s r.ctx g.base), held := { launch := none, msg := m } }

/-- Frames that lose their block; they stay mapped. -/
def unfill (p : Frame → Bool) (c : Core) : Core :=
  { c with frames := mapIf p (fun f => { f with filled := false, dirty := false }) c.frames }

/-- A mode change recalls the region's stashed blocks from every core but a new holder (R188). -/
def recallRegion (s : State) (ctx : Nat) (g new : Region) : State :=
  { s with cores := mapIf (fun c => c.cx.ctx == ctx && !(new.mode == .held && c.cx.lc == new.holder))
             (unfill fun f => g.base ≤ f.va && f.va < g.base + g.units * 0x10000) s.cores }

def dropMark (c : Core) (p : Mark → Bool) : Core := { c with cx := { c.cx with marks := c.cx.marks.filter fun m => !p m } }

def isGiven (base : Nat) : Mark → Bool
  | .given b _ _ => b == base
  | .sealed _ _ => false

def isSealed (base : Nat) : Mark → Bool
  | .given _ _ _ => false
  | .sealed b _ => b == base

/-- A request is served (R178-R181, R361): the entry, the specialiser's entries that read the region, the asking core. A
change that is no longer allowed is not made. -/
def keeperServe (s : State) (r : KReq) : State :=
  let s := countReplies s r.phys (keeperPart s (s.core r.phys) r.base)
  match s.regions.find? fun g => g.ctx == r.ctx && g.base == r.base with
  | none => s.modCore r.phys fun c => c.dropOp r.op
  | some g =>
    let new := newEntry s r g
    let s := match new with
      | none => s
      | some n =>
        let s := recallRegion { s with regions := mapIf (fun h => h.ctx == r.ctx && h.base == r.base) (fun _ => n) s.regions } r.ctx g n
        match r.ask with
        | .give d => capArrival s r g d
        | .seal => s
        | .claim | .rmode _ => staleWhere s fun e => e.ctx == r.ctx && e.regions.contains r.base
    s.modCore r.phys fun c => match r.ask with
      | .claim =>
        let c := if new.isSome then dropMark c (isGiven r.base) else c
        (c.op? r.op).elim c fun o => finishOp c o [if new.isSome then 1 else 0]
      | .seal => dropMark (c.dropOp r.op) (isSealed r.base)
      | _ => c.dropOp r.op

/-- The request at a place, the oldest of its region, once every core has acknowledged. -/
def keeperStep (s : State) (k : Nat) (claims : Bool) : State :=
  match s.keepers[k]? with
  | none => s
  | some r =>
    let ready := match s.regions.find? fun g => g.ctx == r.ctx && g.base == r.base with
      | some g => acknowledged s r g
      | none => true
    if (r.ask == .claim) != claims || (s.keepers.take k).any (fun q => q.ctx == r.ctx && q.base == r.base) || !ready then s
    else keeperServe { s with keepers := eraseAt s.keepers k } r

def execKeeperModeChange (k : Nat) (s : State) : Res := .next (keeperStep s k false)
def execClaimServe (k : Nat) (s : State) : Res := .next (keeperStep s k true)

/-! Translation and stash. -/

/-- The upper table entries that a walk uses stay in the die's cache of 512 entries (R173). -/
def cacheWalk (s : State) (c : Core) (root va : Nat) : State :=
  let e0 := (heldEntry s c false va).getD (rootEntry s root va)
  let e1 := (heldEntry s c true va).getD (midEntry s e0 va)
  let die := dieOf c.phys
  let put (l : List WalkEntry) (mid : Bool) (place : Nat) (w : W64) : List WalkEntry :=
    if (heldEntry s c mid va).isSome then l else { die := die, ctx := c.cx.ctx, mid := mid, place := place, word := w } :: l
  let l := put (put s.walkCache false (va / 2 ^ 34) e0) true (va / 2 ^ 21) e1
  { s with walkCache := (l.filter fun e => e.die == die).take 512 ++ l.filter fun e => e.die != die }

/-- PAGE_WALK fills the core's TLB of 64 entries (R173), by a request of the core's window (R390); `evict` names the entry that makes
room. -/
def execPageWalk (phys va evict : Nat) (s : State) : Res :=
  let c := s.core phys
  .next (if (tlbHit c c.cx.ctx va).isSome then s
    else match (s.ctx? c.cx.ctx).bind fun x => (coreWalk s c x.root va).map fun w => (x.root, w) with
      | none => s
      | some (root, b, n, pa, x) =>
        if walkHeld s c va then s else
        let s := countReplies s phys (missPart s c va)
        let c := s.core phys
        let e : TlbEntry := { ctx := c.cx.ctx, va := b, size := n, pa := pa, x := x }
        let kept := if c.tlb.length < 64 then c.tlb else eraseAt c.tlb (evict % c.tlb.length)
        (cacheWalk s c root va).setCore { c with tlb := e :: kept })

/-- An entry leaves a die's walk cache. -/
def forgetWalk (s : State) (die n : Nat) : State :=
  let mine := s.walkCache.filter fun e => e.die == die
  { s with walkCache := eraseAt mine n ++ s.walkCache.filter fun e => e.die != die }

def setFrame (c : Core) (n : Nat) (g : Frame → Frame) : Core := { c with frames := mapIf (fun f => f.n == n) g c.frames }

/-- STASH_FILL takes a frame's block exclusive, by a request to its home (R187, R390). -/
def execStashFill (phys frame : Nat) (s : State) : Res :=
  .next (match (s.core phys).frames.find? fun f => f.n == frame with
    | none => s
    | some f =>
      let p : Part := { va := f.va, key := f.pa, len := 256, off := 0, done := false }
      if f.filled || netFull s (s.core phys) [p] then s else
      let s := countReply s phys p
      let s := { s with cores := s.cores.map (unfill fun g => g.pa == f.pa) }
      s.modCore phys fun c => setFrame c frame fun f => { f with filled := true })

/-- STASH_RECALL writes a block back; the frame stays mapped (R188). -/
def execStashRecall (phys frame : Nat) (s : State) : Res :=
  .next (if (s.core phys).frames.any fun f => f.n == frame then
    s.modCore phys (unfill fun f => f.n == frame) else s)

/-! Heddle units. -/

def HReq.isCancel (r : HReq) : Bool :=
  match r.ask with
  | .pcancel _ => true
  | _ => false
/-- Requests of one core to one connector (R330). -/
def sameHeddle (a b : HReq) : Bool := a.ctx == b.ctx && a.lc == b.lc && a.handle == b.handle

/-- A request arrives at its unit, one core's to a connector in the order it sent them. -/
def heddleArrive (s : State) (k : Nat) (cancels : Bool) : State :=
  match s.hreqs[k]? with
  | none => s
  | some r =>
    if r.isCancel != cancels || (s.hreqs.take k).any (sameHeddle r) then s
    else heddleServe { s with hreqs := eraseAt s.hreqs k } r

def execOfferArrival (k : Nat) (s : State) : Res := .next (heddleArrive s k false)
def execPcancelArrival (k : Nat) (s : State) : Res := .next (heddleArrive s k true)

/-- LIFT_DECISION in free mode (R332, R333). -/
def execLiftDecision (unit slot : Nat) (s : State) : Res :=
  .next (match getBy Conn.slot (s.hunit unit).conns slot with
    | none => s
    | some c => if s.det c.ctx then s else (decide1 s unit slot).getD s)

/-- A PLOAD whose image has been read loads at its core's cluster (R340). -/
def loadConn (s : State) (phys : Nat) (o : Op) : State :=
  let (s, h) := loadImage s (clusterOf phys) (s.core phys).cx.ctx (o.buf.map PByte.b)
  s.setCore (finishOp (s.core phys) o [h.setWidth 128])

def execConnectorImageLoad (phys id : Nat) (s : State) : Res :=
  .next (match (s.core phys).op? id with
    | none => s
    | some o => match o.ins with
      | .pload _ => if o.st == .pending && o.allDone && !o.collected then loadConn s phys o else s
      | _ => s)

/-! Collective engines. -/

def execCollectiveRequestArrival (k : Nat) (s : State) : Res :=
  .next (match s.creqs[k]? with
    | none => s
    | some r =>
      if (s.creqs.take k).any fun q => q.ctx == r.ctx && q.lc == r.lc
        && keeperAt s q.ctx q.group == keeperAt s r.ctx r.group then s
      else collToKeeper { s with creqs := eraseAt s.creqs k } r)

def execMembershipChange (ctx group : Nat) (s : State) : Res :=
  .next (if s.det ctx then s else (membershipStep s ctx group).getD s)

/-- An open instance of a free-mode context's group. -/
def freeInst (s : State) (ctx group inst : Nat) : Option (Group × Inst) :=
  if s.det ctx then none
  else (s.group? ctx group).bind fun x => (x.insts.find? fun i => i.n == inst).map fun i => (x, i)

/-- One granule of an instance's data: a source part is read ahead, or, once every member has requested, a destination part is written
(R384). -/
def moveGranule (s : State) (ctx group inst part : Nat) (read : Bool) : State :=
  match freeInst s ctx group inst with
  | some (x, i) =>
    if i.moved.isSome then s
    else if read then moveRead s x i part
    else if i.complete then moveWrite s x i part
    else s
  | none => s

/-- INSTANCE_DATA_MOVE of the first granule that is left; the agenda names another, or a read ahead (`Choice.move`). -/
def execInstanceDataMove (ctx group inst : Nat) (s : State) : Res := .next (moveGranule s ctx group inst 0 false)

def execCollectiveCompletion (ctx group inst : Nat) (s : State) : Res :=
  .next (match freeInst s ctx group inst with
    | some (x, i) => match i.moved with
      | some (st, ev) => completeInst s x i st ev
      | none => s
    | none => s)

def execInstanceTimeout (ctx group inst : Nat) (s : State) : Res :=
  .next (match freeInst s ctx group inst with
    | some (x, i) => if !i.complete && i.since + Config.instanceLimit ≤ s.cc then timeoutInst s x i else s
    | none => s)

end Sys2Proof.Machine
end

