-- ==== Sys2Proof/Machine/Act.lean ====
section
/-! DEFINITION. What every step but a quantum boundary does. The boundary asks it which steps of a context's cores are left
(R56, R117). -/

namespace Sys2Proof.Machine

def act (i : Instr) (s : State) : Res :=
  match i with
  | .add f => Sys2Proof.Machine.execAdd f s
  | .sub f => Sys2Proof.Machine.execSub f s
  | .mul f => Sys2Proof.Machine.execMul f s
  | .mulh f => Sys2Proof.Machine.execMulh f s
  | .mulhn f => Sys2Proof.Machine.execMulhn f s
  | .div f => Sys2Proof.Machine.execDiv f s
  | .divn f => Sys2Proof.Machine.execDivn f s
  | .rem f => Sys2Proof.Machine.execRem f s
  | .remn f => Sys2Proof.Machine.execRemn f s
  | .and f => Sys2Proof.Machine.execAnd f s
  | .or f => Sys2Proof.Machine.execOr f s
  | .xor f => Sys2Proof.Machine.execXor f s
  | .andn f => Sys2Proof.Machine.execAndn f s
  | .shl f => Sys2Proof.Machine.execShl f s
  | .shr f => Sys2Proof.Machine.execShr f s
  | .sar f => Sys2Proof.Machine.execSar f s
  | .rol f => Sys2Proof.Machine.execRol f s
  | .clz f => Sys2Proof.Machine.execClz f s
  | .ctz f => Sys2Proof.Machine.execCtz f s
  | .popc f => Sys2Proof.Machine.execPopc f s
  | .min f => Sys2Proof.Machine.execMin f s
  | .minn f => Sys2Proof.Machine.execMinn f s
  | .max f => Sys2Proof.Machine.execMax f s
  | .maxn f => Sys2Proof.Machine.execMaxn f s
  | .abs f => Sys2Proof.Machine.execAbs f s
  | .sel f => Sys2Proof.Machine.execSel f s
  | .mov f => Sys2Proof.Machine.execMov f s
  | .movi f => Sys2Proof.Machine.execMovi f s
  | .lea f => Sys2Proof.Machine.execLea f s
  | .sext f => Sys2Proof.Machine.execSext f s
  | .zext f => Sys2Proof.Machine.execZext f s
  | .bfx f => Sys2Proof.Machine.execBfx f s
  | .bfi f => Sys2Proof.Machine.execBfi f s
  | .cmp f => Sys2Proof.Machine.execCmp f s
  | .plog f => Sys2Proof.Machine.execPlog f s
  | .pmov f => Sys2Proof.Machine.execPmov f s
  | .fadd f => Sys2Proof.Machine.execFadd f s
  | .fsub f => Sys2Proof.Machine.execFsub f s
  | .fmul f => Sys2Proof.Machine.execFmul f s
  | .ffma f => Sys2Proof.Machine.execFfma f s
  | .fdiv f => Sys2Proof.Machine.execFdiv f s
  | .fsqrt f => Sys2Proof.Machine.execFsqrt f s
  | .fmin f => Sys2Proof.Machine.execFmin f s
  | .fmax f => Sys2Proof.Machine.execFmax f s
  | .fcmp f => Sys2Proof.Machine.execFcmp f s
  | .fcvt f => Sys2Proof.Machine.execFcvt f s
  | .fclass f => Sys2Proof.Machine.execFclass f s
  | .fsgn f => Sys2Proof.Machine.execFsgn f s
  | .br f => Sys2Proof.Machine.execBr f s
  | .brx f => Sys2Proof.Machine.execBrx f s
  | .call f => Sys2Proof.Machine.execCall f s
  | .ret f => Sys2Proof.Machine.execRet f s
  | .loop f => Sys2Proof.Machine.execLoop f s
  | .endTask f => Sys2Proof.Machine.execEndTask f s
  | .send f => Sys2Proof.Machine.execSend f s
  | .spawn f => Sys2Proof.Machine.execSpawn f s
  | .bind f => Sys2Proof.Machine.execBind f s
  | .unbind f => Sys2Proof.Machine.execUnbind f s
  | .chctl f => Sys2Proof.Machine.execChctl f s
  | .mwin f => Sys2Proof.Machine.execMwin f s
  | .qsend f => Sys2Proof.Machine.execQsend f s
  | .home f => Sys2Proof.Machine.execHome f s
  | .csrr f => Sys2Proof.Machine.execCsrr f s
  | .csrw f => Sys2Proof.Machine.execCsrw f s
  | .trap f => Sys2Proof.Machine.execTrap f s
  | .brk f => Sys2Proof.Machine.execBrk f s
  | .ld f => Sys2Proof.Machine.execLd f s
  | .st f => Sys2Proof.Machine.execSt f s
  | .ldv f => Sys2Proof.Machine.execLdv f s
  | .stv f => Sys2Proof.Machine.execStv f s
  | .ldvs f => Sys2Proof.Machine.execLdvs f s
  | .stvs f => Sys2Proof.Machine.execStvs f s
  | .ldvg f => Sys2Proof.Machine.execLdvg f s
  | .stvx f => Sys2Proof.Machine.execStvx f s
  | .ldf f => Sys2Proof.Machine.execLdf f s
  | .sete f => Sys2Proof.Machine.execSete f s
  | .watch f => Sys2Proof.Machine.execWatch f s
  | .amo f => Sys2Proof.Machine.execAmo f s
  | .cas f => Sys2Proof.Machine.execCas f s
  | .amom f => Sys2Proof.Machine.execAmom f s
  | .fence f => Sys2Proof.Machine.execFence f s
  | .ntdrain f => Sys2Proof.Machine.execNtdrain f s
  | .pref f => Sys2Proof.Machine.execPref f s
  | .discard f => Sys2Proof.Machine.execDiscard f s
  | .stmap f => Sys2Proof.Machine.execStmap f s
  | .stsync f => Sys2Proof.Machine.execStsync f s
  | .capgive f => Sys2Proof.Machine.execCapgive f s
  | .sealCap f => Sys2Proof.Machine.execSealCap f s
  | .claim f => Sys2Proof.Machine.execClaim f s
  | .rmode f => Sys2Proof.Machine.execRmode f s
  | .vadd f => Sys2Proof.Machine.execVadd f s
  | .vsub f => Sys2Proof.Machine.execVsub f s
  | .vmul f => Sys2Proof.Machine.execVmul f s
  | .vfma f => Sys2Proof.Machine.execVfma f s
  | .vdiv f => Sys2Proof.Machine.execVdiv f s
  | .vsqrt f => Sys2Proof.Machine.execVsqrt f s
  | .vmin f => Sys2Proof.Machine.execVmin f s
  | .vmax f => Sys2Proof.Machine.execVmax f s
  | .vabs f => Sys2Proof.Machine.execVabs f s
  | .vneg f => Sys2Proof.Machine.execVneg f s
  | .vand f => Sys2Proof.Machine.execVand f s
  | .vor f => Sys2Proof.Machine.execVor f s
  | .vxor f => Sys2Proof.Machine.execVxor f s
  | .vshl f => Sys2Proof.Machine.execVshl f s
  | .vshr f => Sys2Proof.Machine.execVshr f s
  | .vsar f => Sys2Proof.Machine.execVsar f s
  | .vcmp f => Sys2Proof.Machine.execVcmp f s
  | .vsel f => Sys2Proof.Machine.execVsel f s
  | .vmov f => Sys2Proof.Machine.execVmov f s
  | .vsplat f => Sys2Proof.Machine.execVsplat f s
  | .vred f => Sys2Proof.Machine.execVred f s
  | .vscan f => Sys2Proof.Machine.execVscan f s
  | .viota f => Sys2Proof.Machine.execViota f s
  | .vwhile f => Sys2Proof.Machine.execVwhile f s
  | .vlen f => Sys2Proof.Machine.execVlen f s
  | .vpcnt f => Sys2Proof.Machine.execVpcnt f s
  | .vpfirst f => Sys2Proof.Machine.execVpfirst f s
  | .vget f => Sys2Proof.Machine.execVget f s
  | .vput f => Sys2Proof.Machine.execVput f s
  | .vperm f => Sys2Proof.Machine.execVperm f s
  | .vcmpr f => Sys2Proof.Machine.execVcmpr f s
  | .vexpd f => Sys2Proof.Machine.execVexpd f s
  | .vsfu f => Sys2Proof.Machine.execVsfu f s
  | .vcvt f => Sys2Proof.Machine.execVcvt f s
  | .vqnt f => Sys2Proof.Machine.execVqnt f s
  | .vrtag f => Sys2Proof.Machine.execVrtag f s
  | .pack5t f => Sys2Proof.Machine.execPack5t f s
  | .unpk5t f => Sys2Proof.Machine.execUnpk5t f s
  | .cpy f => Sys2Proof.Machine.execCpy f s
  | .cpyg f => Sys2Proof.Machine.execCpyg f s
  | .cpyx f => Sys2Proof.Machine.execCpyx f s
  | .cpyl f => Sys2Proof.Machine.execCpyl f s
  | .cpyset f => Sys2Proof.Machine.execCpyset f s
  | .cpyc f => Sys2Proof.Machine.execCpyc f s
  | .wcfg f => Sys2Proof.Machine.execWcfg f s
  | .wload f => Sys2Proof.Machine.execWload f s
  | .wscl f => Sys2Proof.Machine.execWscl f s
  | .wrun f => Sys2Proof.Machine.execWrun f s
  | .wdrain f => Sys2Proof.Machine.execWdrain f s
  | .wzero f => Sys2Proof.Machine.execWzero f s
  | .wstat f => Sys2Proof.Machine.execWstat f s
  | .gcfg f => Sys2Proof.Machine.execGcfg f s
  | .gbld f => Sys2Proof.Machine.execGbld f s
  | .gmm f => Sys2Proof.Machine.execGmm f s
  | .gzero f => Sys2Proof.Machine.execGzero f s
  | .grd f => Sys2Proof.Machine.execGrd f s
  | .gst f => Sys2Proof.Machine.execGst f s
  | .gwait f => Sys2Proof.Machine.execGwait f s
  | .pload f => Sys2Proof.Machine.execPload f s
  | .pfree f => Sys2Proof.Machine.execPfree f s
  | .popen f => Sys2Proof.Machine.execPopen f s
  | .pclose f => Sys2Proof.Machine.execPclose f s
  | .put f => Sys2Proof.Machine.execPut f s
  | .get f => Sys2Proof.Machine.execGet f s
  | .pcancel f => Sys2Proof.Machine.execPcancel f s
  | .pbind f => Sys2Proof.Machine.execPbind f s
  | .pstat f => Sys2Proof.Machine.execPstat f s
  | .unif f => Sys2Proof.Machine.execUnif f s
  | .spstop f => Sys2Proof.Machine.execSpstop f s
  | .spinv f => Sys2Proof.Machine.execSpinv f s
  | .spqry f => Sys2Proof.Machine.execSpqry f s
  | .join f => Sys2Proof.Machine.execJoin f s
  | .leave f => Sys2Proof.Machine.execLeave f s
  | .cbar f => Sys2Proof.Machine.execCbar f s
  | .cgath f => Sys2Proof.Machine.execCgath f s
  | .creds f => Sys2Proof.Machine.execCreds f s
  | .cxch f => Sys2Proof.Machine.execCxch f s
  | .faultPacketSend phys => Sys2Proof.Machine.execFaultPacketSend phys s
  | .faultPacketResend phys => Sys2Proof.Machine.execFaultPacketResend phys s
  | .deferredFaultReport phys => Sys2Proof.Machine.execDeferredFaultReport phys s
  | .dbgResume phys seq writer => Sys2Proof.Machine.execDbgResume phys seq writer s
  | .dbgSkip phys seq writer => Sys2Proof.Machine.execDbgSkip phys seq writer s
  | .dbgEnd phys seq writer => Sys2Proof.Machine.execDbgEnd phys seq writer s
  | .messageArrival k => Sys2Proof.Machine.execMessageArrival k s
  | .unitMessageResend k => Sys2Proof.Machine.execUnitMessageResend k s
  | .messageSend phys k => Sys2Proof.Machine.execMessageSend phys k s
  | .taskActivation phys => Sys2Proof.Machine.execTaskActivation phys s
  | .preemption phys => Sys2Proof.Machine.execPreemption phys s
  | .maskedWindowClose phys => Sys2Proof.Machine.execMaskedWindowClose phys s
  | .loadPerform phys id part => Sys2Proof.Machine.execLoadPerform phys id part s
  | .longLatencyResult phys id => Sys2Proof.Machine.execLongLatencyResult phys id s
  | .storeLeave phys => Sys2Proof.Machine.execStoreLeave phys s
  | .storeApply phys id part => Sys2Proof.Machine.execStoreApply phys id part s
  | .ntApply phys id part => Sys2Proof.Machine.execNtApply phys id part s
  | .atomicApply phys id => Sys2Proof.Machine.execAtomicApply phys id s
  | .releaseComplete phys id => Sys2Proof.Machine.execReleaseComplete phys id s
  | .engineCommandStart phys e => Sys2Proof.Machine.execEngineCommandStart phys e s
  | .engineCommandFinish phys e => Sys2Proof.Machine.execEngineCommandFinish phys e s
  | .engineAccessPerform phys e acc => Sys2Proof.Machine.execEngineAccessPerform phys e acc s
  | .tokenWrite phys => Sys2Proof.Machine.execTokenWrite phys s
  | .cpylFlagTest phys => Sys2Proof.Machine.execCpylFlagTest phys s
  | .cpylTimeout phys => Sys2Proof.Machine.execCpylTimeout phys s
  | .gangStepStart train => Sys2Proof.Machine.execGangStepStart train s
  | .gangStepEnd train => Sys2Proof.Machine.execGangStepEnd train s
  | .gangTimeout train => Sys2Proof.Machine.execGangTimeout train s
  | .gstBufferStore phys part => Sys2Proof.Machine.execGstBufferStore phys part s
  | .pageWalk phys va evict => Sys2Proof.Machine.execPageWalk phys va evict s
  | .stashFill phys frame => Sys2Proof.Machine.execStashFill phys frame s
  | .stashRecall phys frame => Sys2Proof.Machine.execStashRecall phys frame s
  | .keeperModeChange k => Sys2Proof.Machine.execKeeperModeChange k s
  | .claimServe k => Sys2Proof.Machine.execClaimServe k s
  | .quantumBoundary _ => .next s
  | .tickPeriod => Sys2Proof.Machine.execTickPeriod s
  | .offerArrival k => Sys2Proof.Machine.execOfferArrival k s
  | .pcancelArrival k => Sys2Proof.Machine.execPcancelArrival k s
  | .liftDecision unit slot => Sys2Proof.Machine.execLiftDecision unit slot s
  | .connectorImageLoad phys id => Sys2Proof.Machine.execConnectorImageLoad phys id s
  | .collectiveRequestArrival k => Sys2Proof.Machine.execCollectiveRequestArrival k s
  | .membershipChange ctx group => Sys2Proof.Machine.execMembershipChange ctx group s
  | .instanceDataMove ctx group inst => Sys2Proof.Machine.execInstanceDataMove ctx group inst s
  | .collectiveCompletion ctx group inst => Sys2Proof.Machine.execCollectiveCompletion ctx group inst s
  | .instanceTimeout ctx group inst => Sys2Proof.Machine.execInstanceTimeout ctx group inst s
  | .routingWindow die level busiest least => Sys2Proof.Machine.execRoutingWindow die level busiest least s
  | .escapement => Sys2Proof.Machine.execEscapement s
  | .contextSwitch phys ctx => Sys2Proof.Machine.execContextSwitch phys ctx s
  | .qkick q tail => Sys2Proof.Machine.execQkick q tail s
  | .qsendWrite k => Sys2Proof.Machine.execQsendWrite k s
  | .packetFetch q => Sys2Proof.Machine.execPacketFetch q s
  | .packetRecheck q => Sys2Proof.Machine.execPacketRecheck q s
  | .nop q => Sys2Proof.Machine.execNop q s
  | .launch q => Sys2Proof.Machine.execLaunch q s
  | .launchRange q => Sys2Proof.Machine.execLaunchRange q s
  | .indirect q => Sys2Proof.Machine.execIndirect q s
  | .pred q => Sys2Proof.Machine.execPred q s
  | .packetLoop q => Sys2Proof.Machine.execPacketLoop q s
  | .wait q => Sys2Proof.Machine.execWait q s
  | .waitRetest q => Sys2Proof.Machine.execWaitRetest q s
  | .signal q => Sys2Proof.Machine.execSignal q s
  | .barrier q => Sys2Proof.Machine.execBarrier q s
  | .fetchFence q => Sys2Proof.Machine.execFetchFence q s
  | .connect q => Sys2Proof.Machine.execConnect q s
  | .launchResend q => Sys2Proof.Machine.execLaunchResend q s
  | .taskEndReport k => Sys2Proof.Machine.execTaskEndReport k s
  | .qactRetry q => Sys2Proof.Machine.execQactRetry q s
  | .qactSkip q => Sys2Proof.Machine.execQactSkip q s
  | .qactStop q => Sys2Proof.Machine.execQactStop q s
  | .qcfg q v => Sys2Proof.Machine.execQcfg q v s
  | .specialiserWalk die k => Sys2Proof.Machine.execSpecialiserWalk die k s
  | .ctxcreate record => Sys2Proof.Machine.execCtxcreate record s
  | .ctxkill v => Sys2Proof.Machine.execCtxkill v s
  | .shootva v => Sys2Proof.Machine.execShootva v s
  | .shootdownComplete => Sys2Proof.Machine.execShootdownComplete s
  | .lctlStop phys w => Sys2Proof.Machine.execLctlStop phys w s
  | .lctlResume phys w => Sys2Proof.Machine.execLctlResume phys w s
  | .lctlStep phys w => Sys2Proof.Machine.execLctlStep phys w s
  | .ldeleg phys v w => Sys2Proof.Machine.execLdeleg phys v w s
  | .ldclr phys w => Sys2Proof.Machine.execLdclr phys w s
  | .registerWrite w addr size v => Sys2Proof.Machine.execRegisterWrite w addr size v s
  | .hostWrite addr bytes => Sys2Proof.Machine.execHostWrite addr bytes s
  | .hostRead addr size => Sys2Proof.Machine.execHostRead addr size s
  | .ucieLinkDown => Sys2Proof.Machine.execUcieLinkDown s
  | .ucieRetrain => Sys2Proof.Machine.execUcieRetrain s
  | .rhohimenLinkFail die => Sys2Proof.Machine.execRhohimenLinkFail die s
  | .powerOn fails => Sys2Proof.Machine.execPowerOn fails s
  | .bootrecWrite v => Sys2Proof.Machine.execBootrecWrite v s
  | .tamperSensor => Sys2Proof.Machine.execTamperSensor s
  | .glitchDetected => Sys2Proof.Machine.execGlitchDetected s
  | .powerThrottle => Sys2Proof.Machine.execPowerThrottle s
  | .overtempShutdown => Sys2Proof.Machine.execOvertempShutdown s
  | .correctableError die => Sys2Proof.Machine.execCorrectableError die s
  | .uncorrectableError die granule source => Sys2Proof.Machine.execUncorrectableError die granule source s
  | .powerRemoved => Sys2Proof.Machine.execPowerRemoved s

end Sys2Proof.Machine
end

