-- ==== Sys2Proof/Machine/Agenda.lean ====
section
/-! DEFINITION. The steps that the machine's parts may take next, in the canonical order (log 1). -/

namespace Sys2Proof.Machine

/-- Steps of one outstanding operation. -/
def opEvents (p : Nat) (o : Op) : List Instr :=
  let parts (g : Nat → Instr) : List Instr := (List.range o.parts.length).map g
  (if o.isLoad then parts (.loadPerform p o.id) else [])
    ++ (if o.isStore || o.isWatch || o.mmio then parts (.storeApply p o.id) else [])
    ++ (if o.isNt then parts (.ntApply p o.id) else [])
    ++ (if o.isAtomic then [.atomicApply p o.id] else [])
    ++ [.connectorImageLoad p o.id, .longLatencyResult p o.id, .releaseComplete p o.id]

/-- Accesses of an executing command, and the opening of its next row. -/
def engEvents (c : Core) (e : Eng) : List Instr :=
  let parts := match (c.eng e).run with
    | none => []
    | some x => (List.range (x.rd.length + 1)).map (fun k => Instr.engineAccessPerform c.phys e (.rd k))
        ++ (List.range x.wr.length).map fun k => Instr.engineAccessPerform c.phys e (.wr k)
  parts ++ [.engineCommandFinish c.phys e, .engineCommandStart c.phys e]

/-- Steps of a core that no time holds back. -/
def coreEvents (s : State) (p : Nat) : List Instr :=
  let c := s.core p
  [.deferredFaultReport p, .maskedWindowClose p, .preemption p, .taskActivation p, .storeLeave p]
    ++ c.ops.flatMap (opEvents p)
    ++ engs.flatMap (engEvents c)
    ++ (if c.draining then (List.range 576).map (Instr.gstBufferStore p) else [])
    ++ (if c.gear.run.isSome then [.gangStepStart (trainOf p), .gangStepEnd (trainOf p)] else [])
    ++ (if c.shu.run.isSome then [.cpylFlagTest p, .tokenWrite p] else [])
    ++ (List.range c.sending.length).map (Instr.messageSend p)
    ++ (if c.cx.frz.toSend.isSome then [.faultPacketSend p] else [])
    ++ (if c.cx.ctx = noCtx then c.saved.map fun x => Instr.contextSwitch p x.ctx else [])

/-- Steps of the shared units: messages, keepers, heddle units, collective engines. -/
def unitEvents (s : State) : List Instr :=
  (List.range s.flights.length).map Instr.messageArrival
    ++ (List.range s.keepers.length).flatMap (fun k => [Instr.keeperModeChange k, .claimServe k])
    ++ (List.range s.hreqs.length).flatMap (fun k => [Instr.offerArrival k, .pcancelArrival k])
    ++ (List.range s.creqs.length).map Instr.collectiveRequestArrival
    ++ s.hunits.flatMap (fun u => u.conns.map fun c => Instr.liftDecision u.n c.slot)
    ++ s.groups.flatMap (fun g => Instr.membershipChange g.ctx g.g :: g.insts.flatMap fun i =>
        [Instr.instanceDataMove g.ctx g.g i.n, .collectiveCompletion g.ctx g.g i.n])

/-- Steps of one queue: a fetch, a dispatch of each kind of packet. -/
def queueEvents (q : Queue) : List Instr :=
  if q.state != 1 then []
  else
    [.packetFetch q.n, .packetRecheck q.n, .waitRetest q.n, .nop q.n, .launch q.n, .launchRange q.n, .indirect q.n, .pred q.n, .packetLoop q.n, .wait q.n,
      .signal q.n, .barrier q.n, .fetchFence q.n, .connect q.n]

/-- Steps of the front end, the specialisers and the driver's units. -/
def frontEvents (s : State) : List Instr :=
  (List.range s.qsends.length).map Instr.qsendWrite
    ++ (List.range s.launches.length).map Instr.taskEndReport
    ++ s.queues.flatMap queueEvents
    ++ (List.range 8).flatMap (fun d =>
        if h : d < 8 then (List.range s.spec[d].walks.length).map (Instr.specialiserWalk d) else [])
    ++ [.shootdownComplete]

/-- Every step of the canonical order before an instruction issues. -/
def candidates (s : State) : List Instr :=
  s.cores.flatMap (fun c => coreEvents s c.phys) ++ unitEvents s ++ frontEvents s

/-- The first of these steps that changes the state. -/
def firstStep (s : State) : List Instr → Option State
  | [] => none
  | e :: es => match act e s with
    | .next t => if t = s then firstStep s es else some t
    | _ => firstStep s es

/-- Does none of these steps change the state? -/
def quietSteps (s : State) (es : List Instr) : Bool := (firstStep s es).isNone

end Sys2Proof.Machine
end

