-- ==== Sys2Proof/Machine/Issue.lean ====
section
/-! DEFINITION. What the task engine does before an instruction's own effect: may it issue, the checks before decoding, and
the fetch (R61-R63, R77, R78, R117, R363, R423, R439). -/

namespace Sys2Proof.Machine

/-- Instructions that the context's cores retire a quantum, where it runs in deterministic mode (R117). -/
def quantumOf (s : State) (ctx : Nat) : Option Nat := (s.ctx? ctx).bind fun x => if x.det then some x.q else none

/-- May the core issue the next instruction of its running bank? A DISCARD of more lines than the store queue has room for stalls until
they have entered: nothing issues before (R212, R219; log 27). -/
def mayIssue (s : State) (c : Core) : Bool :=
  c.bank.task.live && !c.halted && !s.unreported c.cx && s.alive c.cx.ctx
    && (match quantumOf s c.cx.ctx with
      | some q => c.cx.qret < q
      | none => true)
    && (c.rb || c.cx.mwin != 1) && !mustSwitch s c && c.storesQueued ≤ 16

/-- An enabled breakpoint stands at an original PC (R423). -/
def breakpointAt (c : Core) (pc : W64) : Bool :=
  !c.loupe.skipCheck && c.loupe.bp.toList.any fun b => bit b 48 && bits b 0 48 == pc.toNat

/-- What comes of the next instruction of the core `cur`. -/
inductive Fetch
  /-- Nothing issues. -/
  | idle
  /-- The core stops or freezes. -/
  | stop (s : State)
  /-- The instruction at the PC. -/
  | instr (i : Instr)

/-- The instruction that a code line's slot and line word give, or why it is illegal (R61, R77). -/
def slotInstr (w : IWord) (lw : Nat) : Except FaultInfo Instr :=
  if lw != 0 && lw < 2 ^ 31 then .error (illegalInfo w)
  else match decode w with
    | .error _ => .error (illegalInfo w)
    | .ok i => .ok i

def lineInstr (s : State) (key : Nat) (pc : W64) : Except FaultInfo Instr := slotInstr (codeWord s key pc) (lineWord s key)

/-- The slot to issue holds poisoned data: an instruction-cache error, and a consumption (R153, R439). -/
def codePoisoned (s : State) (key : Nat) (pc : W64) : State :=
  raise (countPois s key 1) { cause := 3, s5 := BitVec.ofNat 64 (pc.toNat / 64 * 64), s6 := 0, s7 := 0 }

/-- A line that the core's instruction cache holds. -/
def Core.cached (c : Core) (key : Nat) : Option (List PByte) := (c.icache.find? fun l => l.1 == key).map Prod.snd

/-- Steps 1 to 3 of R78, with the breakpoint check after step 1. The line is fetched anew; `held` takes it from the instruction cache
where that has it. What a misaligned PC reports after a supervisor has written it is log 76. -/
def fetchBy (held : Bool) (s : State) : Fetch :=
  let c := s.here
  if !mayIssue s c then .idle
  else
    let b := c.bank
    let pc := b.pc
    if !slotOk pc then
      .stop (raise s { cause := 1, s5 := 0, s6 := b.task.producer, s7 := 0 })
    else if breakpointAt c (originOf s c pc).pc then .stop (loupeStop s s.cur 3)
    else match fetchKey s c pc with
      | .error w => .stop (raise s { cause := 2, s5 := pc, s6 := b.task.producer, s7 := BitVec.ofNat 64 w })
      | .ok key =>
        match (if held then c.cached key else none) with
        | some line =>
          let slot := sub line (pc.toNat % 64) 12
          if anyPois slot then .stop (codePoisoned s key pc)
          else (match slotInstr (IWord.ofBytes (slot.map PByte.b)) (ofBytes ((sub line 60 4).map PByte.b)) with
           | .error i => .stop (raise s i)
           | .ok i => .instr i)
        | none =>
          if anyIn s.poison 16 (key + pc.toNat % 64) 12 then .stop (codePoisoned s key pc)
          else match lineInstr s key pc with
            | .error i => .stop (raise s i)
            | .ok i => .instr i

def fetch (s : State) : Fetch := fetchBy false s

/-! The instruction cache (R1, R161, R369): 512 lines of original code, by physical address. Which lines it still holds is the
hardware's: every fetch may be made anew (log 42). -/

/-- A code line as it stands in memory. -/
def codeLine (s : State) (key : Nat) : List PByte :=
  (List.range 64).map fun i => { b := readCell s.mem (key + i), p := poisoned s (key + i) }

/-- A line as it stands in memory enters the cache; the line held longest makes room. -/
def fillLine (s : State) (c : Core) (key : Nat) : State :=
  if mmioBase ≤ key then s
  else (touchStash s c.phys { va := 0, key := key, len := 64, off := 0, done := false } false).setCore
    { c with icache := (key, codeLine s key) :: (c.icache.filter fun l => l.1 != key).take 511 }

/-- The line that the current core issues from is fetched. -/
def State.fetched (s : State) : State :=
  match fetchKey s s.here s.here.bank.pc with
  | .ok key => fillLine s s.here key
  | .error _ => s

/-- A slot is fetched ahead. A fault found raises nothing: the line is invalidated and the fault counted (R161). -/
def fetchAhead (s : State) (p : Nat) (pc : W64) : State :=
  let c := s.core p
  if !s.alive c.cx.ctx || !slotOk pc then s
  else match fetchKey s c pc with
    | .error _ => s.setCore { c with fetchDrop := c.fetchDrop + 1 }
    | .ok key =>
      if anyIn s.poison 16 (key + pc.toNat % 64) 12 then
        s.setCore { c with fetchDrop := c.fetchDrop + 1, icache := c.icache.filter fun l => l.1 != key }
      else fillLine s c key

end Sys2Proof.Machine
end

