-- ==== Sys2Proof/Machine/Boundary.lean ====
section
/-! DEFINITION. The quantum boundary of a deterministic context (R56-R58, R117-R119, R162, R275, R311, R338, R385, R413,
R425). -/

namespace Sys2Proof.Machine

/-! Step 1: every core has finished the quantum, and everything that step 2 drains has drained by ordinary steps, which no
other core can see before step 2. -/

/-- The core's next instruction does not issue now: it has retired Q, its tasks have ended, it is frozen, or it stalls
(R117). -/
def stuck (s : State) (p : Nat) : Bool :=
  let s := { s with cur := p }
  match fetch s with
  | .idle => true
  | .stop _ => false
  | .instr i => match act i s with
    | .next t => t = s
    | _ => true

def boundaryReady (s : State) (x : Ctx) : Bool :=
  x.det && x.dead.isNone
    && x.grant.all fun p =>
      let c := s.core p
      c.cx.ctx == x.id && (!c.loupe.stopped || c.loupe.freed) && quietSteps s (coreEvents s p) && stuck s p

/-! Step 2. -/

/-- A WATCH of the quantum arms or cancels before the quantum's stores apply (R204). -/
def armWatches (s : State) (p : Nat) : State := (s.core p).ops.foldl (fun s o => armOp s p o) s

/-- Instances whose last request came at an earlier boundary move their data (R385). -/
def moveInst (s : State) (g : Group) (i : Inst) : State :=
  match s.group? g.ctx g.g with
  | some x => match x.insts.find? fun j => j.n == i.n with
    | some j => if j.complete && j.moved.isNone then moveData s x j else s
    | none => s
  | none => s
def moveInsts (s : State) (ctx : Nat) : State :=
  (s.groups.filter fun g => g.ctx == ctx).foldl (fun s g => g.insts.foldl (fun s i => moveInst s g i) s) s

/-! After step 2 (R275, R311, R403, R118). -/

/-- The one flag test of a waiting CPYL; t + 1 tests in all. -/
def cpylTest (s : State) (p : Nat) : State :=
  match (s.core p).shu.run with
  | some x => if x.phase == .waitFlag then testStep s p x (x.cmd.limit true ≤ x.tests) else s
  | none => s

def gangTests (s : State) (x : Ctx) : State :=
  (((x.grant.filter fun p => (s.core p).cx.ctx == x.id).map trainOf).foldl nins []).foldl gangLate (x.grant.foldl markReady s)

/-- Ends of launched tasks are reported. -/
def reportAll (s : State) (ctx : Nat) : State :=
  (s.launches.filter fun l => l.ctx == ctx && l.ended && taskQuiet s l).foldl reportEnd s

/-- Host kicks enter where every core is idle and the collector is empty (R118). -/
def takeKicks (s : State) (x : Ctx) : State :=
  if (x.grant.all fun p => idleCore (s.core p).cx) && x.collected.isEmpty then
    (s.queues.filter fun q => q.ctx == x.id).foldl (fun s q =>
      q.hostKicks.foldl (fun s v => kick s q.n v) (s.setQueue { q with hostKicks := [] })) s
  else s

/-! Step 3: the collector (R57). -/

/-- What a capability request asks its keeper. -/
def Op.capAsk (o : Op) : Option KAsk :=
  match o.ins with
  | .capgive _ => some (.give o.b.toNat)
  | .sealCap _ => some .seal
  | .claim _ => some .claim
  | .rmode f => some (.rmode (if f.mod = 0 then .opn else .atomic))
  | _ => none

/-- A request that its core's operation stands for. -/
def serveOp (s : State) (phys : Nat) (o : Op) : State :=
  let c := s.core phys
  match o.capAsk with
  | some k => keeperServe s { ctx := c.cx.ctx, base := o.addr, lc := c.cx.lc, phys := phys, op := o.id, ask := k }
  | none =>
  match o.ins with
  | .amo _ | .cas _ | .amom _ =>
    if hostGone s ((o.parts.head?.map Part.key).getD 0) then
      lateFault s phys o (accessFault o.addr .atomic ((o.parts.head?.map Part.len).getD 8))
    else atomicDo s phys o true
  | .ldf f => match o.parts with
    | p :: _ =>
      let bs := readPart s phys o.id p
      let word := wordOf phys o.addr
      let full := nmem s.full word
      let s := countPois (reach s phys p false) p.key (boolNat (anyPois bs))
      let s := if full then setEmpty s word else s
      s.setCore (finishOp (s.core phys) o (ldfRes f (ofBytes (consume bs)) full))
    | [] => s
  | .st _ => match o.parts with
    | p :: _ => mmioWrite (s.setCore (c.dropOp o.id)) (.core phys) p.va p.len (ofBytes (o.buf.map PByte.b))
    | [] => s
  | .pload _ => loadConn s phys o
  | .pstat _ =>
    s.setCore (finishOp c o [(pstatWord s c.cx.ctx (o.b.setWidth 64) (o.c.setWidth 64)).setWidth 128])
  | _ => s

/-- A group's membership changes that may take effect (R380). -/
def memberSteps (ctx g : Nat) : Nat → State → State
  | 0, s => s
  | n + 1, s => match membershipStep s ctx g with
    | some t => memberSteps ctx g n t
    | none => s
def settleGroup (s : State) (ctx g : Nat) : State := memberSteps ctx g (s.group ctx g).waiting.length s

def serveOut (s : State) (ctx lc : Nat) (o : Out) : State :=
  match o with
  | .msg d m => s.post { ctx := ctx, dst := d, src := .core lc, held := { msg := m, launch := none } }
  | .packet q t n b => qsendWrite s { ctx := ctx, lc := lc, queue := q, typ := t, len := n, body := b, slot := none, wrote := [] }
  | .heddle r => heddleServe s r
  | .coll r => if (keeperAt s ctx r.group).isNone then cross s (.coll r) else settleGroup (collArrive s r) ctx r.group

/-- May the collector serve the operation now? A change of a region's mode comes once every core has made the accesses that it has
checked, those that the collector holds among them (R54, R178; log 68), and a PLOAD once its image has been read. -/
def servable (s : State) (phys : Nat) (o : Op) : Bool :=
  let c := s.core phys
  match o.capAsk with
  | none => !o.isPload || o.allDone
  | some k =>
    let r : KReq := { ctx := c.cx.ctx, base := o.addr, lc := c.cx.lc, phys := phys, op := o.id, ask := k }
    match r.region s with
    | some g => acknowledged s r g
    | none => true

def serveOne (s : State) (ctx : Nat) (x : Collected) : State :=
  match x.ask with
  | .out o => serveOut s ctx x.lc o
  | .op id => match (s.core x.phys).op? id with
    | some o =>
      if servable s x.phys o then serveOp s x.phys o else s.modCtx ctx fun y => { y with collected := y.collected ++ [x] }
    | none => s

/-- Requests in their order; what cannot be served yet stays with the collector. -/
def serveList (s : State) (ctx : Nat) (items : List Collected) : State := items.foldl (fun s i => serveOne s ctx i) s

/-- In ascending logical-core order, each core's in issue order, and then those that waited for others of the quantum; what still
cannot be served waits for the next boundary. One behind an exempt command that stays waiting is served too (log 74). -/
def serveAll (s : State) (x : Ctx) : State :=
  let items := sortBy Collected.lc (sortBy Collected.id x.collected)
  let take (s : State) : List Collected × State := (((s.ctx? x.id).map Ctx.collected).getD [], s.modCtx x.id fun y => { y with collected := [] })
  let s := (take s).2
  let s := (s.groups.filter fun g => g.ctx == x.id).foldl (fun s g => settleGroup s x.id g.g) s
  let (late, s) := take (serveList s x.id items)
  serveList s x.id late

/-- Instances that time out here (R385). -/
def lateInst (s : State) (g : Group) (i : Inst) : State :=
  match s.group? g.ctx g.g with
  | some x => match x.insts.find? fun j => j.n == i.n with
    | some j => if !j.complete && j.since + Config.instanceLimitQuanta ≤ collClock s g.ctx then timeoutInst s x j else s
    | none => s
  | none => s

/-! Queues (R413): served after step 3, so that a kick of the quantum takes effect, in ascending order. -/

/-- Fetch what can be fetched; a packet that was not valid is read again once a boundary (R398). -/
def fetchAll : Nat → State → Nat → State
  | 0, s, _ => s
  | fuel + 1, s, n =>
    let q := s.queue n
    let t := if q.running s then fetchNext s q else s
    if t = s then s else fetchAll fuel t n

def recheck (s : State) (n : Nat) : State :=
  let q := s.queue n
  if q.running s then fetchAgain s q else s

/-- Make the walks that launches of the die wait for. -/
def walkNow (s : State) : State :=
  (List.range 8).foldl (fun s d => if h : d < 8 then
    (List.range s.spec[d].walks.length).foldl (fun s k => match act (.specialiserWalk d k) s with
      | .next t => t
      | _ => s) s else s) s

/-- Dispatch until the queue waits; each packet takes at most a few rounds. -/
def runQueue : Nat → State → Nat → State
  | 0, s, _ => s
  | fuel + 1, s, n =>
    let s := fetchAll 64 s n
    let t := walkNow (dispatchOne s n)
    if t = s || (t.queue n).waiting then t else runQueue fuel t n

/-- Rounds of a queue at one boundary: a range may take one for each of its 2^48 elements. -/
def queueRounds : Nat := 2 ^ 64

/-- A failed WAIT is tested again. -/
def serveQueue (s : State) (n : Nat) : State :=
  let q := s.queue n
  runQueue queueRounds (recheck (s.setQueue { q with waiting := false }) n) n

def resendAll (s : State) (n : Nat) : State :=
  (List.range (s.launches.filter fun l => l.queue == n && l.bounced).length).foldl (fun s _ => resendLaunch s n) s

def serveQueues (s : State) (ctx : Nat) : State :=
  ((s.queues.filter fun q => q.ctx == ctx).map Queue.n).foldl (fun s n => serveQueue (resendAll s n) n) s

/-! Step 4. -/

/-- Connectors lift until no rule is enabled; every lift takes an offer (R338). -/
def liftCtx (s : State) (ctx : Nat) : State :=
  (s.hunits.flatMap fun u => (u.conns.filter fun c => c.ctx == ctx).map fun c => (u.n, c.slot, c.ports.foldl (fun n p => n + p.fifo.length) 0)).foldl
    (fun s (u, slot, n) => liftAll u slot n s) s

/-! Step 5. -/

/-- Completions of the instances that moved at step 2, in rank order (R385). -/
def completeAll (s : State) (ctx : Nat) : State :=
  (s.groups.filter fun g => g.ctx == ctx).foldl (fun s g => g.insts.foldl (fun s i =>
    match s.group? g.ctx g.g, i.moved with
    | some x, some (st, ev) => completeInst s x i st ev
    | _, _ => s) s) s

/-- Signal writes, in dispatch order (R413). -/
def fireAdds (s : State) (ctx : Nat) : State :=
  (s.queues.filter fun q => q.ctx == ctx).foldl (fun s q =>
    q.adds.foldl (fun s a => match feAdd s ctx a 1 with
      | .ok t => t
      | .error _ => faultRecord s (s.queue q.n) 7 a) (s.setQueue { q with adds := [] })) s

/-- A message that its unit keeps holds the later ones of its route behind it (R107). -/
def placeOne (s : State) (f : Flight) : State :=
  if s.kept.any (sameRoute f) then { s with kept := s.kept ++ [f] }
  else if f.held.launch.any (behindLaunch s f) then bounce s f
  else arrive s f

/-- Place the messages in the order produced; a bounce return comes behind what is there. -/
def placeAll : Nat → State → Nat → State
  | 0, s, _ => s
  | fuel + 1, s, ctx =>
    match (s.ctx? ctx).map Ctx.outbox with
    | some (f :: t) => placeAll fuel (placeOne (s.modCtx ctx fun x => { x with outbox := t }) f) ctx
    | _ => s

/-- Messages that their unit keeps are tried first. -/
def retryKept (s : State) (ctx : Nat) : State :=
  let mine := s.kept.filter fun f => f.ctx == ctx
  mine.foldl placeOne { s with kept := s.kept.filter fun f => f.ctx != ctx }

def isReply (f : Flight) : Bool := f.held.msg.kind == 8#4
def srcLc (f : Flight) : Nat :=
  match f.src with
  | .core lc => lc
  | _ => 0

/-- Fault packets of the frozen cores, in ascending order (R162). -/
def packetAt (s : State) (p : Nat) : State :=
  let x := (s.core p).cx
  match x.frz.toSend with
  | some m => sendPacket s x m
  | none => s

/-- Messages, then fault packets, then fault replies. -/
def placeStep (s : State) (x : Ctx) : State :=
  let out := ((s.ctx? x.id).map Ctx.outbox).getD []
  let replies := sortBy srcLc (out.filter isReply)
  let s := s.modCtx x.id fun y => { y with outbox := out.filter fun f => !isReply f }
  let s := placeAll (2 * out.length) (retryKept s x.id) x.id
  let s := x.grant.foldl packetAt s
  -- a teardown that a packet began leaves nothing to deliver (R164)
  let s := if s.dead x.id then s else s.modCtx x.id fun y => { y with outbox := y.outbox ++ replies }
  placeAll (2 * (out.length + x.grant.length)) s x.id

/-! Step 6. -/

/-- Accepted actions take effect (R117); a core with a further report freezes again before it issues anything (R158). -/
def actOn (s : State) (p : Nat) : State :=
  match (s.core p).cx.frz.accepted with
  | some a => reportHead (takeAction s p a) p
  | none => s

/-- A stop request reaches every core of the context (R425). -/
def stopAll (s : State) (x : Ctx) : State :=
  if x.grant.any fun p => (s.core p).loupe.stopReq then
    x.grant.foldl (fun s p =>
      let s := s.modCore p fun c => { c with loupe := { c.loupe with stopReq := false } }
      haltCore s p) s
  else s

/-- The next quantum begins: nothing is retired in it, and a selection is due where there is something to select (R117,
R118). -/
def freshQuantum (s : State) (p : Nat) : State :=
  s.modCore p fun c => { c with cx := { c.cx with
    qret := 0, sel := c.cx.b0.task.live || c.cx.b1.task.live || !idleCore c.cx, due := (c.cx.choose true).isSome } }

/-- The sequence of R56. A quantum in which every core was idle and the collector served nothing is not counted (R118). -/
def boundary (s : State) (x : Ctx) : State :=
  let busy := (x.grant.any fun p => !idleCore (s.core p).cx || (s.core p).cx.qret != 0) || !x.collected.isEmpty
  let s := s.modCtx x.id fun y => { y with bounds := y.bounds + 1 }
  let s := x.grant.foldl armWatches s
  let s := moveInsts (redoAll s x.id) x.id
  let s := redoAll (x.grant.foldl cpylTest s) x.id
  let s := reportAll (gangTests s x) x.id
  let s := x.grant.foldl (fun s p => if (s.core p).cx.ctx = x.id then reportQuantum s p else s) s
  let s := serveAll (takeKicks s x) x
  let s := (s.groups.filter fun g => g.ctx == x.id).foldl (fun s g => g.insts.foldl (fun s i => lateInst s g i) s) s
  let s := serveQueues s x.id
  let s := fireAdds (completeAll (liftCtx s x.id) x.id) x.id
  let s := placeStep s x
  let s := x.grant.foldl actOn s
  let s := if busy then traceTick (s.modCtx x.id fun y => { y with quanta := y.quanta + 1 }) x.grant (BitVec.ofNat 64 (x.quanta + 1)) else s
  x.grant.foldl freshQuantum (redoAll (stopAll s x) x.id)

def execQuantumBoundary (ctx : Nat) (s : State) : Res :=
  .next (match s.ctx? ctx with
    | some x => if boundaryReady s x then boundary s x else s
    | none => s)

end Sys2Proof.Machine
end

