-- ==== Sys2Proof/Machine/Canonical.lean ====
section
/-! DEFINITION. What moves next where the agenda is silent, and a program placed where the next step fetches it (log 1, log 3). -/

namespace Sys2Proof.Machine

/-- A package held in reset takes no step but the removal of its power (R437, R438), or, where the self-check failed, the next start
(R436). -/
def heldBack (s : State) (i : Instr) : Bool :=
  s.pkg.hold && match i with
    | .powerRemoved => false
    | .powerOn _ => !s.pkg.retry
    | _ => true

/-- The core that issues next: the first that can, in turn after the one that issued last. -/
def issuer (s : State) : Option Nat :=
  let ps := s.cores.map Core.phys
  ((ps.filter fun p => s.cur < p) ++ ps.filter fun p => p ≤ s.cur).find? fun p => !stuck s p

/-- Something waits for a boundary: a task, a request, a message, an engine, a queue. -/
def awaits (s : State) (x : Ctx) : Bool :=
  !x.collected.isEmpty || !x.outbox.isEmpty
    || (x.grant.any fun p =>
      let c := s.core p
      !idleCore c.cx || c.cx.qret != 0 || c.cx.frz.toSend.isSome || c.cx.frz.accepted.isSome || c.loupe.stopReq
        || engs.any fun e => (c.eng e).run.isSome)
    || (s.groups.any fun g => g.ctx == x.id && !g.insts.isEmpty)
    || (s.kept.any fun f => f.ctx == x.id)
    || (s.redo.any fun r => r.ctx == x.id)
    || (s.launches.any fun l => l.ctx == x.id)
    || s.queues.any fun q => q.ctx == x.id && q.state == 1 && (!q.hostKicks.isEmpty || q.wants.isSome || q.copy.isSome)

/-- The context whose quantum ends next. -/
def dueBoundary (s : State) : Option Nat := (s.ctxs.find? fun x => awaits s x && boundaryReady s x).map Ctx.id

/-! Time (R107, R119, R151, R269, R311, R380, R392, R401): what is due at a cc happens before the cc passes. -/

/-- The tests of a waiting CPYL in free mode. -/
def settleCpyl (s : State) (p : Nat) : State :=
  match waitingCpyl s p with
  | none => s
  | some x =>
    if x.tests != 0 && x.since + x.cmd.limit false ≤ s.cc then testStep s p x true
    else if testDue s x then testStep s p x (x.tests == 0 && x.cmd.limit false == 0)
    else s

/-- A train whose core became ready, or whose step has missed its limit in free mode. -/
def settleGang (s : State) (p : Nat) : State :=
  let s := markReady s p
  if s.det (s.core p).cx.ctx || (s.core p).gear.run.isNone then s else gangLate s (trainOf p)

/-- An instance of a free-mode context that has not completed in time. -/
def settleInst (s : State) (ctx g n : Nat) : State :=
  match freeInst s ctx g n with
  | some (x, i) => if !i.complete && i.since + Config.instanceLimit ≤ s.cc then timeoutInst s x i else s
  | none => s

/-- A queue of a free-mode context whose packet is read, or whose WAIT is tested, again every 1 µs (R398, R405). -/
def settleQueueTimes (s : State) (n : Nat) : State :=
  let turn (s : State) : State := match act (.packetRecheck n) s with
    | .next t => (match act (.waitRetest n) t with
      | .next u => u
      | _ => t)
    | _ => s
  (List.range 8).foldl (fun s _ => turn s) s

/-- What was refused and is due to be sent again: fault packets, units' messages, launches (R107, R151, R401). -/
def settleResends (s : State) : State :=
  let s := s.cores.foldl (fun s c => packetStep s c.phys true) s
  let s := (List.range s.kept.length).reverse.foldl unitResend s
  s.launches.foldl (fun s l => if s.det l.ctx then s else resendLaunch s l.queue) s

def settleEscapement (s : State) : State := if escapementAt s ≤ s.cc then escapement s else s

/-- Everything that is due now. -/
def settleDue (s : State) : State :=
  let ps := s.cores.map Core.phys
  let s := ps.foldl settleGang (ps.foldl settleCpyl s)
  let s := s.groups.foldl (fun s g => g.insts.foldl (fun s i => settleInst s g.ctx g.g i.n) s) s
  let s := settleResends ((s.queues.map Queue.n).foldl settleQueueTimes s)
  settleEscapement (advanceTick s)

/-- The cc at which these are due next. -/
def deadlines (s : State) : List Nat :=
  ((s.tick.toNat + 1) * Config.tickPeriod) :: escapementAt s
    :: (s.cores.flatMap fun c => match waitingCpyl s c.phys with
        | some x => (x.since + x.cmd.limit false) :: (if x.cmd.fields.mod == 0 then [] else [x.since + 64 * x.tests])
        | none => [])
    ++ (s.cores.flatMap fun c => match gangRun c .waitTrain with
        | some (x, _) => if x.tests = 0 || s.det c.cx.ctx then [] else [x.since + Config.gangLimit]
        | none => [])
    ++ (s.cores.filterMap fun c => let z := c.cx.frz; if z.toSend.isSome && z.refused && !s.det c.cx.ctx then some z.again else none)
    ++ ((s.kept.filter fun f => !s.det f.ctx).map Flight.again)
    ++ ((s.launches.filter fun l => l.bounced && !s.det l.ctx).map Launch.again)
    ++ ((s.queues.filter fun q => (q.waiting || q.retrying) && !s.det q.ctx).map Queue.again)
    ++ s.groups.flatMap fun g => if s.det g.ctx then [] else g.insts.map fun i => i.since + Config.instanceLimit

/-- Time passes: n cc, but not past the next of them. -/
def State.pass (s : State) (n : Nat) : State :=
  let t := settleDue s
  { t with cc := (deadlines t).foldl (fun m d => if t.cc < d then min m d else m) (t.cc + n) }

/-- The core issues: it, and 1 cc, are the step's. -/
def State.begin (s : State) (p : Nat) : State :=
  let t := settleDue s
  { t with cur := p, cc := t.cc + 1 }

/-! A program in place (log 3). -/

/-- Where the next instruction of the current core stands, if it can be fetched there. -/
def fetchPlace (s : State) : Option Nat :=
  let c := s.here
  let pc := c.bank.pc
  if s.pkg.hold || 37376 ≤ s.cur || !mayIssue s c || !slotOk pc || breakpointAt c (originOf s c pc).pc then none
  else match fetchKey s c pc with
    | .ok key => some (key + pc.toNat % 64)
    | .error _ => none

/-- The stand-in for a load from outside: a context of the one core, whose page at VA 0 is PA 0x20_0000, and a task at PC 0. -/
def standIn (s : State) : State :=
  let p := if s.cur < 37376 then s.cur else 0
  let x : Ctx :=
    { id := 0, det := false, q := 4096, dumpFirst := false, root := 0x10000, grant := [p], slots := [0], supv := [0], authority := [], kicks := []
      dump := 0, record := 0, packages := 1, dead := none, dying := none, dropLaunch := 0, dropWb := 0, quanta := 0, bounds := 0
      collected := [], outbox := [] }
  let c := s.core p
  let task : TaskSt := { TaskSt.reset with live := true, serial := c.nextTask }
  let cx := { CtxCore.reset 0 0 with b0 := { Bank.reset with task := task, vown := task.serial } }
  let m := writeWord (writeWord s.mem 0x10000 8 0x20001) 0x20000 8 0x200007
  ({ s with mem := m, cur := p, ctxs := putBy Ctx.id s.ctxs x, pkg := { s.pkg with hold := false } } : State).setCore
    { c with cx := cx, nextTask := c.nextTask + 1 }

/-- An instruction's bytes at the place, in a line of original code; the current core issues next, its line fetched anew. -/
def placeWord (s : State) (key : Nat) (bs : List Byte) : State :=
  let line := key / 64 * 64
  { s with
    mem := writeCells (writeCells s.mem key bs) (line + 60) (List.replicate 4 0)
    poison := (List.range 4).foldl (fun l k => ndel l (line / 16 + k)) s.poison
    agenda := .issue s.cur :: s.agenda }

def withWord (s : State) (nbits w : Nat) : State :=
  let bs := toBytes 12 (w % 2 ^ nbits)
  match fetchPlace s with
  | some key => placeWord s key bs
  | none => placeWord (standIn s) 0x200000 bs

end Sys2Proof.Machine
end

