-- ==== Sys2Proof/Machine/Rhohimen.lean ====
section
/-! DEFINITION. What comes and goes over the Rhohimen links of a context that spans packages (R386, R433). The other packages are no part
of this machine: what they send is the agenda's to say (log 16). -/

namespace Sys2Proof.Machine

/-- May another package send something of a context to one of its logical cores here? -/
def linkOpen (s : State) (ctx : Nat) : Bool := s.pkg.rhoUp != 0 && s.alive ctx

/-- A sender that is no part of this package: a core of the context, or a collective engine there. -/
def farSource (s : State) (ctx : Nat) : Source → Bool
  | .core lc => s.remote ctx lc
  | .coll c => 576 ≤ c
  | _ => false

/-- A message or a collective request comes in; a deterministic context's collector takes those of a core until the boundary (R57). -/
def linkIn (s : State) (x : Cross) : State :=
  let put (ctx lc : Nat) (o : Out) : State := s.modCtx ctx fun y =>
    { y with collected := y.collected ++ [{ lc := lc, phys := 37376, id := y.collected.length, ask := .out o }] }
  if !linkOpen s x.ctx then s
  else match x with
    | .msg f =>
      if (s.physOf f.ctx f.dst).isNone || !farSource s f.ctx f.src || f.held.launch.isSome || f.held.msg.kind == 2#4 || f.after.isSome then s
      else match f.src with
        | .core lc => if s.det f.ctx then put f.ctx lc (.msg f.dst f.held.msg) else s.post f
        | _ => s.post f
    | .coll r =>
      if !s.remote r.ctx r.lc || (keeperAt s r.ctx r.group).isNone then s
      else if s.det r.ctx then put r.ctx r.lc (.coll r) else { s with creqs := s.creqs ++ [r] }

/-- A launch of another package's front end comes in, with the PC that its lookup gave (R361, R401). -/
def linkLaunch (s : State) (ctx dst : Nat) (pc : W64) (block : List Byte) (m : Msg) : State :=
  if !linkOpen s ctx || (s.physOf ctx dst).isNone || m.kind != 2#4 || s.nc ctx = ((s.ctx? ctx).map fun x => x.grant.length).getD 0 then s
  else
    let l : Launch := { id := s.nextLaunch, queue := linkQueue, pkt := 0, ctx := ctx, dst := dst, pc := pc, block := block, msg := m
                        bounced := false, ended := false, phys := 0, upTo := 0 }
    ({ s with launches := s.launches ++ [l], nextLaunch := s.nextLaunch + 1 }).post
      { ctx := ctx, dst := dst, src := .queue linkQueue, held := { msg := m, launch := some l.id } }

/-- A packet on a link has reached the other package. -/
def linkOut (s : State) (n : Nat) : State := { s with pkg := { s.pkg with onLink := eraseAt s.pkg.onLink n } }

/-- A task that this package's front end has launched on another package reports its end (R403). -/
def linkEnd (s : State) (id : Nat) : State :=
  { s with launches := mapIf (fun l => l.id == id && s.remote l.ctx l.dst) (fun l => { l with ended := true, phys := 37376, upTo := 0 }) s.launches }

/-- The granule of a member's access for an instance that another package keeps, where it passes the check as its core's access (R381). -/
def linkPart (s : State) (ctx lc : Nat) (k : AK) (a n : Nat) : Option Part :=
  if !linkOpen s ctx then none
  else (s.physOf ctx lc).bind fun p => match checkedParts s (coreAs (s.core p) ctx) k a n 0 with
    | ([q], none) => if s.nc ctx = ((s.ctx? ctx).map fun x => x.grant.length).getD 0 then none else some q
    | _ => none

/-- A read of a source here. -/
def linkRead (s : State) (ctx lc a n : Nat) : State :=
  match linkPart s ctx lc .load a n with
  | some p => countPois (touchMember s ctx lc p) p.key (boolNat (poisoned s (keyAs s ctx p.key)))
  | none => s

/-- A write of a destination here. -/
def linkWrite (s : State) (ctx lc a : Nat) (bs : List PByte) : State :=
  match linkPart s ctx lc .store a bs.length with
  | some p => writeMember s ctx lc p bs []
  | none => s

end Sys2Proof.Machine
end

