-- ==== Sys2Proof/Machine/Step.lean ====
section
/-! DEFINITION. One step of the machine (log 1): what the agenda names next, or where it is empty the canonical order. -/

namespace Sys2Proof.Machine

/-- The current core issues its next instruction, if it may (R78). -/
def issueStep (s : State) : Res :=
  match fetch s with
  | .idle => .next s
  | .stop t => .next t
  | .instr i => exec i s.fetched

/-- The same from a line that its instruction cache holds. -/
def holdStep (s : State) : Res :=
  match fetchBy true s with
  | .idle => .next s
  | .stop t => .next t
  | .instr i => exec i s

/-- Where nothing is named: a step of the canonical order, else an instruction, else a boundary, else 1 cc passes. -/
def canonicalStep (s : State) : Res :=
  if s.pkg.hold then .next s
  else match s.cores.find? fun c => !c.loupe.tq.isEmpty with
    | some c => .next (writeTrace s c.phys)
    | none => if !s.pkg.onLink.isEmpty then .next (linkOut s 0) else match hostNext s with
    | some (n, k) => .next (hostStep s n k)
    | none => match firstStep s (candidates s) with
    | some t => .next t
    | none => match issuer s with
      | some p => issueStep (s.begin p)
      | none => match dueBoundary s with
        | some ctx => exec (.quantumBoundary ctx) s
        | none => .next (s.pass 1)

/-- One step. -/
def step (s : State) : Res :=
  match s.agenda with
  | [] => canonicalStep s
  | c :: rest =>
    let t := { s with agenda := rest }
    match c with
    | .wait n => .next (t.pass n)
    | .ahead p pc => .next (if t.pkg.hold then t else fetchAhead t p pc)
    | .forget die n => .next (forgetWalk t die n)
    | .writeBack line => .next (if t.pkg.hold then t else writeBack t line)
    | .linkIn x => .next (if t.pkg.hold then t else linkIn t x)
    | .linkLaunch ctx dst pc block m => .next (if t.pkg.hold then t else linkLaunch t ctx dst pc block m)
    | .linkOut n => .next (if t.pkg.hold then t else linkOut t n)
    | .linkEnd id => .next (if t.pkg.hold then t else linkEnd t id)
    | .linkRead ctx lc a n => .next (if t.pkg.hold then t else linkRead t ctx lc a n)
    | .linkWrite ctx lc a bs => .next (if t.pkg.hold then t else linkWrite t ctx lc a bs)
    | .hostPart n k => .next (if t.pkg.hold then t else hostStep t n k)
    | .trace p => .next (if t.pkg.hold then t else writeTrace t p)
    | .passLdf p id => .next (if t.pkg.hold then t else passLdf t p id)
    | .move ctx g i part read => .next (if t.pkg.hold then t else moveGranule t ctx g i part read)
    | .hold p =>
      if 37376 ≤ p then .fault (.noSuchCore p)
      else if t.pkg.hold then .next t
      else holdStep (t.begin p)
    | .event i => if i.isEvent && !heldBack t i then exec i t else .next t
    | .issue p =>
      if 37376 ≤ p then .fault (.noSuchCore p)
      else if t.pkg.hold then .next t
      else issueStep (t.begin p)

/-- The state with an instruction where the next step fetches it (log 3). -/
def State.withFetchWord (s : State) (nbits w : Nat) : State := withWord s nbits w

end Sys2Proof.Machine
end

