-- ==== Sys2Proof/Safety.lean ====
section
/-! DEFINITION. What a safe run is, in the terms that claims use: where a step may stop, and the form that a state keeps. -/

namespace Sys2Proof

/-- Instructions that read their guard as a mask of elements (R198, R233); every other one reads its bit 0 (R232, R246). -/
def Instr.elementwise : Instr → Bool
  | .ldv _ | .stv _ | .ldvs _ | .stvs _ | .ldvg _ | .stvx _ | .vadd _ | .vsub _ | .vmul _ | .vfma _ | .vdiv _ | .vsqrt _
  | .vmin _ | .vmax _ | .vabs _ | .vneg _ | .vand _ | .vor _ | .vxor _ | .vshl _ | .vshr _ | .vsar _ | .vcmp _ | .vsel _
  | .vmov _ | .vsplat _ | .vred _ | .vscan _ | .viota _ | .vperm _ | .vcmpr _ | .vexpd _ | .vsfu _ | .vcvt _ | .vqnt _
  | .vrtag _ | .pack5t _ | .unpk5t _ => true
  | _ => false

end Sys2Proof

namespace Sys2Proof.Machine

/-- A step that goes on: neither a fault nor a refusal. -/
def GoesOn (r : Res) : Prop := ∃ t, r = .next t

/-- Memory in its canonical form: the form that every step keeps. -/
def State.memOk (s : State) : Bool := Memory.wf s.mem

/-- The state a run has reached after some steps, each of which went on. -/
inductive Reach : State → State → Prop
  | here (s : State) : Reach s s
  | next {s t u : State} (first : step s = .next t) (rest : Reach t u) : Reach s u

/-- A safe run: wherever it leads from s, the machine can take a further step. -/
def Safe (s : State) : Prop := ∀ t, Reach s t → GoesOn (step t)

/-! The words that claims about instructions are written with. -/

/-- The registers of a bank: what instructions read and write. -/
structure Regs where
  s : Vector W64 64
  p : Vector PBits 16
  v : Vector VBits 32
  o : Vector VBits 16
  lv : VBits
  vtag : Vector (BitVec 4) 32
  otag : Vector (BitVec 4) 16
  lvtag : BitVec 4
  ls : W64
  fflags : BitVec 5
  fenable : BitVec 5
  deriving DecidableEq, Repr

def Bank.regs (b : Bank) : Regs :=
  { s := b.s, p := b.p, v := b.v, o := b.o, lv := b.lv, vtag := b.vtag, otag := b.otag, lvtag := b.lvtag, ls := b.ls
    fflags := b.fflags, fenable := b.fenable }

/-- The registers of a core's bank. -/
def State.regs (s : State) (phys : Nat) (hi : Bool) : Regs := ((s.core phys).bankOf hi).regs

/-- The instruction passes the lookahead check and the scoreboard (R75, R9). -/
def Issues (f : Fields) (s : State) : Prop :=
  violation s s.bank.task f = none ∧ s.here.waits (fieldRegs f) = false

/-- It issues, and its guard reads true by bit 0 (R71, R232). -/
def Guarded (f : Fields) (s : State) : Prop := Issues f s ∧ guard0 s.bank f = true

/-- The instruction's effect is u, and it retires on it. -/
def Completes (i : Instr) (f : Fields) (s u : State) : Prop := exec i s = .next (retire u f none)

/-- The instruction's effect is u, and it retires with a transfer to pc. -/
def Transfers (i : Instr) (f : Fields) (s u : State) (pc : W64) : Prop := exec i s = .next (retire u f (some pc))

/-- The instruction raises a precise fault (R150). -/
def Raises (i : Instr) (s : State) (x : FaultInfo) : Prop := exec i s = .next (raise s x)

/-- No trace is written for the core: its trace is off, and its encoder holds no record (R426, R427). -/
def Untraced (s : State) (phys : Nat) : Prop :=
  (s.core phys).loupe.trc.getLsbD 0 = false ∧ (s.core phys).loupe.tq = []

/-- Every byte of memory reads as before. -/
def SameBytes (s t : State) : Prop := ∀ a, readCell t.mem a = readCell s.mem a

/-- What a message, an offer or a request leaves: in free mode an entry of the core's send buffer, next in program order (R146);
in deterministic mode an entry of the quantum collector (R57). -/
def sentOut (s : State) (o : Out) : State :=
  if s.det s.here.cx.ctx then collect s (.out o)
  else s.setCore { s.here with sending := s.here.sending ++ [{ id := s.here.nextId, out := o }], nextId := s.here.nextId + 1 }

/-- The send buffer takes one more: always in deterministic mode, else while it holds fewer than 8 (R146). -/
def MaySend (s : State) : Prop := s.det s.here.cx.ctx = true ∨ s.here.sending.length < 8

/-- The instruction issues and leaves one outstanding operation of its own, last in the core's list and at a stage, of which `p`
holds; it retires with no register changed, and its access is made by later events. -/
def LeavesOpAs (st : OpSt) (i : Instr) (f : Fields) (s : State) (p : Op → Prop) : Prop :=
  ∃ u o, Completes i f s u ∧ u.here.ops = s.here.ops ++ [o] ∧ o.id = s.here.nextId ∧ o.ins = i ∧ o.st = st ∧ p o ∧
    ∀ hi, u.regs s.cur hi = s.regs s.cur hi

/-- The same where nothing of the operation has happened yet. -/
def LeavesOp (i : Instr) (f : Fields) (s : State) (p : Op → Prop) : Prop := LeavesOpAs .pending i f s p

/-- The core may start another memory access: no fence and no other acquire holds it, its network window and its store queue have room. -/
def MemoryReady (s : State) : Prop :=
  s.here.fenced = false ∧ accessHeld s = false ∧ netCount s s.here < s.here.netWindow ∧ storeQueueFull s.here = false

/-- The instruction issues and puts one command, of which `p` holds, last into the queue of engine e, to wait there with the guard
as its mask; `r` are the registers of the running bank afterwards. -/
def Queues (i : Instr) (f : Fields) (s : State) (e : Eng) (r : Regs) (p : Cmd → Prop) : Prop :=
  ∃ u k, Completes i f s u ∧ u.here.eng e = { s.here.eng e with waiting := (s.here.eng e).waiting ++ [k] } ∧
    k.id = s.here.nextId ∧ k.ins = i ∧ k.bank = s.here.rb ∧ k.task = s.bank.task.serial ∧ k.pc = s.bank.pc ∧
    k.mask = guardMask s.bank f ∧ u.regs s.cur s.here.rb = r ∧ p k

/-- An engine takes a command: fewer than two wait (R9), and no acquire holds it. -/
def HasRoom (s : State) (e : Eng) : Prop := (s.here.eng e).waiting.length < 2 ∧ commandHeld s = false

/-- A vector source carries a type's tag; an immediate, a constant and zv take the type that is asked for (R92). -/
def Carries (s : State) (o : Operand) (t : Typ) : Prop := ∀ x, tagOf s.bank o = some x → x.toNat = t.code

end Sys2Proof.Machine
end

