-- ==== Sys2Proof/Certificates/Slice0/Obligations.lean ====
section
/-! DEFINITION. The statements about the machine, for the provers. Each docstring names the rules of spec/ it formalises. -/

open Sys2Proof Sys2Proof.Machine

/-! Decoding (R59, R60, R73, R77, R79). -/

/-- Every well-formed instruction decodes back from the word it is encoded as, with every operand at every value that its
encoding admits; and the decoder accepts well-formed instructions only, each only from the one word that encodes it: no bit of a word is
ignored and no two words mean the same (R59, R64, R73, R77, R79). -/
def Obligations.EncodingAndDecodingAgree : Prop :=
  (∀ i : Instr, i.wf = true → decode (encode i) = .ok i) ∧
    ∀ (w : IWord) (i : Instr), decode w = .ok i → i.wf = true ∧ encode i = w

/-- A word put together from its fields, from bit 95 down (R59): stop, a zero, c3, bt, look, mod <5:3>, sat, rnd, imm, opb, opa, dst,
guard, typ, op. -/
def wordOf59 (stop c3 bt : BitVec 1) (look : BitVec 4) (md : BitVec 3) (sat : BitVec 1) (rnd : BitVec 2) (imm : BitVec 32)
    (opb opa dst : BitVec 10) (guard typ : BitVec 5) (op : BitVec 10) : IWord :=
  stop ++ 0#1 ++ c3 ++ bt ++ look ++ md ++ sat ++ rnd ++ imm ++ opb ++ opa ++ dst ++ guard ++ typ ++ op

/-- Some words written out from their encodings decode to the instructions that they stand for, and as bytes they are three
little-endian 32-bit words (R59, R60, R64, R67, R69, R73, R79): add s10, s2, s3; ld.d s9, [s1] with look 2; a branch of −9 under
not p2; end with stop; ffma.f32 s1, s2, s3, ls; vadd.s8.sat v0, v1, o2. -/
def Obligations.WordsDecodeAsTheSpecEncodesThem : Prop :=
  let f : Fields := { stop := false, bt := false, look := 0, mod := 0, sat := false, rnd := .rne, imm := 0, opc := .s 0, opb := .s 0
                      opa := .s 0, dst := .s 0, guard := { inv := false, p := 0 }, typ := .untyped }
  decode (wordOf59 0 0 0 0 0 0 0 0 0x003 0x002 0x00A 0 4 0x000) =
    .ok (.add { f with opb := .s 3, opa := .s 2, dst := .s 10, typ := .s64 }) ∧
  decode (wordOf59 0 0 0 2 0 0 0 0 0x000 0x001 0x009 0 8 0x180) =
    .ok (.ld { f with look := 2, opa := .s 1, dst := .s 9, typ := .n64 }) ∧
  decode (wordOf59 0 0 0 0 0 0 0 0xFFFFFFF7 0 0 0 18 0 0x0C0) =
    .ok (.br { f with imm := 0xFFFFFFF7, guard := { inv := true, p := 2 } }) ∧
  decode (wordOf59 1 0 0 0 0 0 0 0 0 0 0 0 0 0x0C5) = .ok (.endTask { f with stop := true }) ∧
  decode (wordOf59 0 1 0 0 0 0 0 0x200 0x003 0x002 0x001 0 11 0x083) =
    .ok (.ffma { f with opc := .ls, opb := .s 3, opa := .s 2, dst := .s 1, typ := .f32 }) ∧
  decode (wordOf59 0 0 0 0 0 1 0 0 0x102 0x041 0x040 0 1 0x240) =
    .ok (.vadd { f with sat := true, opb := .o 2, opa := .v 1, dst := .v 0, typ := .s8 }) ∧
  ∀ (w : IWord) (k : Fin 12), w.toBytes[k.val]? = some (w.extractLsb' (8 * k.val) 8) ∧ IWord.ofBytes w.toBytes = w

/-- Where bytes that decode to an instruction lie at the program counter of a core that may issue, a step that issues for this
core runs exactly that instruction, in the state in which what is due has happened, the core has become current and 1 cc has passed
(R59-R63, R78; the agenda is the model's own, log 1). The bytes are those in memory, and enter the instruction cache, or, where the
agenda says so, those of a line that the cache holds, unless its slot was read poisoned: then the fetch faults (R1, R153, R369, R439;
log 42). `fetchKey` is the place of the code line, `lineWord` its last word. -/
def Obligations.StepRunsTheDecodedInstruction : Prop :=
  ∀ (s : State) (p : Nat) (rest : List Choice) (key : Nat) (i : Instr),
    s.agenda = .issue p :: rest ∨ s.agenda = .hold p :: rest → p < 37376 → s.pkg.hold = false →
    let u := ({ s with agenda := rest } : State).begin p
    let pc := u.bank.pc
    let slot := pc.toNat % 64
    let isCode (word : Nat) : Prop := word = 0 ∨ 2 ^ 31 ≤ word
    mayIssue u u.here = true → slotOk pc = true → breakpointAt u.here (originOf u u.here pc).pc = false →
    fetchKey u u.here pc = .ok key →
    (anyIn u.poison 16 (key + slot) 12 = false → isCode (lineWord u key) →
      decodeBytes (readCells u.mem (key + slot) 12) = some (.ok i) →
      (s.agenda = .issue p :: rest → step s = exec i u.fetched) ∧
      (s.agenda = .hold p :: rest → u.here.cached key = none → step s = exec i u)) ∧
    (∀ line, s.agenda = .hold p :: rest → u.here.cached key = some line →
      (anyPois (sub line slot 12) = false → isCode (ofBytes ((sub line 60 4).map PByte.b)) →
        decodeBytes ((sub line slot 12).map PByte.b) = some (.ok i) → step s = exec i u) ∧
      (anyPois (sub line slot 12) = true → ∃ t, step s = .next t ∧ t.here.cx.frz.frozen = true ∧ t.here.cx.frz.cause = 3))

/-- An event that the agenda names is carried out by the step, with the rest of the agenda left; time that it names passes, but never
past what is due: the next tick, the next escapement, the end of a waiting CPYL, of a gang's step, of an instance (R119, R269, R311,
R380, R392). A package held in reset takes no step but the removal of its power and, where the self-check of its start failed, the next
start (R436-R438; log 1, log 7). -/
def Obligations.StepCarriesOutTheNamedEvent : Prop :=
  ∀ (s : State) (rest : List Choice),
    let t := { s with agenda := rest }
    (∀ i : Instr, s.agenda = .event i :: rest → i.isEvent = true →
      let allowed : Prop := i = .powerRemoved ∨ s.pkg.retry = true ∧ ∃ l, i = .powerOn l
      (s.pkg.hold = false ∨ allowed → step s = exec i t) ∧ (s.pkg.hold = true → ¬ allowed → step s = .next t)) ∧
    (∀ p, s.agenda = .issue p :: rest ∨ s.agenda = .hold p :: rest → p < 37376 → s.pkg.hold = true → step s = .next t) ∧
    ∀ n, s.agenda = .wait n :: rest → ∃ u, step s = .next u ∧ s.cc ≤ u.cc ∧ u.cc ≤ s.cc + n ∧
      (∀ d ∈ deadlines u, s.cc < d → u.cc ≤ d) ∧
      (u.tick.toNat + 1) * 1400 ∈ deadlines u ∧ (u.pkg.escapements + 1) * 65536 ∈ deadlines u ∧
      (∀ c ∈ u.cores, ∀ x, waitingCpyl u c.phys = some x → x.since + x.cmd.fields.imm.toNat % 65536 * 1024 ∈ deadlines u) ∧
      (∀ c ∈ u.cores, ∀ x f, gangRun c .waitTrain = some (x, f) → x.tests ≠ 0 → u.det c.cx.ctx = false →
        x.since + 1048576 ∈ deadlines u) ∧
      ∀ g ∈ u.groups, u.det g.ctx = false → ∀ i ∈ g.insts, i.since + 16777216 ∈ deadlines u

/-- Every instruction and every event of the machine goes on, none faults and none is refused; a step stops only where the agenda
names a core that the package does not have (R1; log 1). -/
def Obligations.StepsStopOnlyAtAMissingCore : Prop :=
  (∀ (i : Instr) (s : State), ∃ t, exec i s = .next t) ∧
  ∀ s : State, (∃ t, step s = .next t) ∨
    ∃ p rest, (s.agenda = .issue p :: rest ∨ s.agenda = .hold p :: rest) ∧ 37376 ≤ p ∧ step s = .fault (.noSuchCore p)

/-! Memory as the model holds it. -/

/-- Every step keeps memory in its canonical form: addresses strictly rising, no entry equal to what an unlisted byte reads as
(log 6: the model's own form of memory). -/
def Obligations.EveryStepKeepsMemoryCanonical : Prop :=
  ∀ s t : State, s.memOk = true → step s = .next t → t.memOk = true

/-- The machine right after reset: memory lists nothing and is in canonical form; nothing runs; every channel is unbound, the
priority pointers stand at ch15, the counters and the loupe are 0, every queue is off (R102, R112, R119, R149, R395, R416, R422,
R440). That memory lists nothing is the model's choice (log 6). -/
def Obligations.ResetStateIsTheSpecs : Prop :=
  let s := State.reset
  s.mem = [] ∧ s.memOk = true ∧ s.ctxs = [] ∧ s.cc = 0 ∧ s.tick = 0 ∧ s.pkg.shootDone = 0 ∧ s.pkg.createRes = 0 ∧
  (∀ p < 37376, let c := s.core p
    (∀ n < 16, c.chan n = 0) ∧ c.cx.rr = 0xFFFFFFFF#32 ∧ c.cx.instret = 0 ∧ c.cx.frz.frozen = false ∧ c.cx.b0.task.live = false ∧
    c.cx.b1.task.live = false ∧ c.loupe = Loupe.reset ∧ c.loupe.stat = 0) ∧
  (∀ n < 8192, (s.queue n).state = 0) ∧
  ∀ d : Fin 8, s.errs[d] = { ecce := 0, eccue := 0, poiscons := 0, elast := 0, hostDrops := 0, power := 0, temp := 0 }

/-- A little-endian word reads as it was written, and a write leaves every byte outside it as it was (R4, R19). -/
def Obligations.WordsReadAsWritten : Prop :=
  ∀ (s : State) (a n x : Nat), s.memOk = true →
    readWord (writeWord s.mem a n x) a n = x % 256 ^ n ∧
    ∀ b, b < a ∨ a + n ≤ b → readCell (writeWord s.mem a n x) b = readCell s.mem b

/-! What issuing an instruction can reach. -/

/-- What issuing an encoded instruction can reach, where the core is not traced: no byte of memory changes, since every store is
performed by an event of its own, later (R41, R43, R47), but that STSYNC leaves the local bytes under the frames it unmaps
undefined (R218); nothing of any other core changes (R8, R11), but that SPINV takes lines out of the instruction caches of its
context's cores (R369), and a collective that reads its descriptor through a mapped frame takes the block from other stashes (R187).
Traced or not, no register of another core or of the bank that does not run changes (R110), and of another core nothing but cached lines
and what its frames hold. -/
def Obligations.IssueChangesOnlyItsOwnCore : Prop :=
  ∀ (i : Instr) (s t : State), i.isEvent = false → exec i s = .next t →
    (s.memOk = true → Untraced s s.cur → ((∀ f, i ≠ .stsync f) → t.mem = s.mem) ∧
      ∀ a, a < localKey s.cur 0 ∨ localKey s.cur 0x10000 ≤ a → readCell t.mem a = readCell s.mem a) ∧
    t.regs s.cur (!s.here.rb) = s.regs s.cur (!s.here.rb) ∧
    ∀ p, p ≠ s.cur →
      (Untraced s s.cur → (∀ f, i ∉ [Instr.spinv f, .cgath f, .creds f, .cxch f]) → t.core p = s.core p) ∧
      t.core p = { s.core p with icache := (t.core p).icache, frames := (t.core p).frames } ∧
      (∀ l ∈ (t.core p).icache, l ∈ (s.core p).icache) ∧
      ∀ g ∈ (t.core p).frames, ∃ h ∈ (s.core p).frames, g = h ∨ g = { h with filled := false, dirty := false }

/-! Registers and the course of an instruction. -/

/-- s0 reads zero and p0 reads true whatever was written to them; every other register reads the value last written to it, and a
write leaves all others as they were (R64). A vector result goes to its destination, v, o or lv, and to lv too unless it comes late; so
does its tag, and nothing else of the bank changes (R66, R91, R229). -/
def Obligations.RegistersReadAsWritten : Prop :=
  ∀ (b : Bank) (n k : Fin 64) (p q : Fin 16) (x : W64) (y : PBits),
    (b.ws n x).rs k = (if k = 0 then 0 else if k = n then x else b.rs k) ∧
    (b.wp p y).rp q = (if q = 0 then BitVec.allOnes 128 else if q = p then y else b.rp q) ∧
    (b.ws n x).regs = { b.regs with s := (b.ws n x).s } ∧ (b.wp p y).regs = { b.regs with p := (b.wp p y).p } ∧
    ∀ (d : Operand) (long : Bool) (z : VBits) (t : BitVec 4) (i : Fin 32) (j : Fin 16),
      (∃ m, d = .v m) ∨ (∃ m, d = .o m) ∨ d = .lv →
      let w := wvec b d long z
      let r := retag b d long t
      w.v[i] = (if d = .v i then z else b.v[i]) ∧ w.o[j] = (if d = .o j then z else b.o[j]) ∧
      w.lv = (if d = .lv ∨ long = false then z else b.lv) ∧ w.regs = { b.regs with v := w.v, o := w.o, lv := w.lv } ∧
      r.vtag[i] = (if d = .v i then t else b.vtag[i]) ∧ r.otag[j] = (if d = .o j then t else b.otag[j]) ∧
      r.lvtag = (if d = .lv ∨ long = false then t else b.lvtag) ∧
      r.regs = { b.regs with vtag := r.vtag, otag := r.otag, lvtag := r.lvtag }

/-- A scalar result goes to d and also to ls, even when d is s0; with a destination of ls it goes to ls alone; nothing else of
the state changes (R64, R66, R123). A materialising slot of residual code leaves ls alone (R357). -/
def Obligations.ScalarResultsGoToDestinationAndLatch : Prop :=
  ∀ (s : State) (d : Operand) (x : W64),
    let b := (wres s d x).here.bankOf s.here.rb
    (∀ k : Fin 64, b.rs k = if d = .s k ∧ k ≠ 0 then x else s.bank.rs k) ∧
    b.ls = (if (originOf s s.here s.bank.pc).mater ∧ d ≠ .ls then s.bank.ls else x) ∧
    wres s d x = s.setBank { s.bank with s := b.s, ls := b.ls }

/-- An instruction whose guard reads false retires with no effect, no flag, no memory access and no fault of its own; a guard of
no true bit is false for every encoded instruction, those that read it as a mask of elements among them, and for every other
instruction a guard whose bit 0 is false, whatever its other bits are (R71, R231-R233). -/
def Obligations.FalseGuardsRetireWithoutEffect : Prop :=
  ∀ (i : Instr) (f : Fields) (s : State), i.fields? = some f → Issues f s →
    guardMask s.bank f = 0#128 ∨ (i.elementwise = false ∧ (guardMask s.bank f).getLsbD 0 = false) → Completes i f s s

/-- Naming a pending register of an open window raises a lookahead-violation fault of cause 5, whatever the guard reads, and nothing
else of the instruction happens: there is a violation exactly where a register that a field of the instruction names is pending in an
open window, s0 and p0 never (R75, R78). Under a lookahead state that a supervisor has rewritten it is open (R121, log 5). Which field is
named first is log 20; windows that younger instructions than an executing-again L op opened count (log 92). -/
def Obligations.LookaheadViolationsFault : Prop :=
  ∀ (s : State) (f : Fields),
    (∀ (i : Instr) (x : FaultInfo), i.fields? = some f → violation s s.bank.task f = some x → exec i s = .next (raise s x .lookahead)) ∧
    (s.bank.task.form = none → s.bank.task.noCheck = false →
      ((violation s s.bank.task f).isSome ↔ ∃ w ∈ s.bank.task.windows, ∃ r ∈ fieldRegs f, r ∈ w.regs) ∧
      (∀ x, violation s s.bank.task f = some x → x.cause = 5) ∧ Reg.s 0 ∉ fieldRegs f ∧ Reg.p 0 ∉ fieldRegs f)

/-- An instruction that reads or writes a register whose result has not arrived waits (R75, R9); CPYC waits for its guard only, and
issues whatever its other fields name (R264, R270). Only the running task's own results count (log 10). -/
def Obligations.PendingRegistersStallIssue : Prop :=
  ∀ (f : Fields) (s : State), violation s s.bank.task f = none →
    (∀ i : Instr, i.fields? = some f → i ≠ .cpyc f → s.here.waits (fieldRegs f) = true → exec i s = .next s) ∧
    (let guard : List Reg := if f.guard.p = 0 then [] else [.p f.guard.p]
     (s.here.waits guard = true → exec (.cpyc f) s = .next s) ∧
     (s.here.waits guard = false → guard0 s.bank f = false → Completes (.cpyc f) f s s) ∧
     (s.here.waits guard = false → guard0 s.bank f = true → ∃ u, Completes (.cpyc f) f s u ∧ u.here.shu.waiting =
        s.here.shu.waiting.filter fun k => !(k.bank == s.here.rb && (f.mod = 1 || k.tok == f.dst))))

/-- Retiring leaves every register of every bank, the full-empty bits, the contexts and the regions as they are, and, where no trace is
written, every byte of memory and every other core; a precise fault does so too (R150, R426). A trace that is written takes its block
from the frames of other stashes, and nothing else from another core (R188, R427). -/
def Obligations.RetiringAndFaultingLeaveRegisters : Prop :=
  ∀ (s : State) (f : Fields) (pc : Option W64) (x : FaultInfo) (k : FreezeKind) (t : State),
    t = retire s f pc ∨ t = raise s x k →
    (∀ p hi, t.regs p hi = s.regs p hi) ∧ t.full = s.full ∧ t.ctxs = s.ctxs ∧ t.regions = s.regions ∧
    (∀ p, p ≠ s.cur → ∃ fr, t.core p = { s.core p with frames := fr }) ∧
    (Untraced s s.cur → SameBytes s t ∧ ∀ p, p ≠ s.cur → t.core p = s.core p)

/-- Where the PC goes when an instruction retires: to its target, else to the next slot of the line, from slot 4 to slot 0 of
the next line; stop ends the task without transfer (R62, R71). A relative target of displacement d goes from global slot g to global slot
g + d (R63). An L op that executes again after a late fault goes on where its
continuation says (R76). sys.instret counts it, unless a deterministic context runs a slot of residual code that stands for none
(R149, R365). -/
def Obligations.RetiringMovesThePc : Prop :=
  ∀ (s : State) (f : Fields) (pc : Option W64),
    let after := if s.bank.pc.toNat % 64 = 48 then s.bank.pc + 16 else s.bank.pc + 12
    let onward := match s.bank.again with
      | some k => k.next
      | none => after
    ((retire s f pc).here.bankOf s.here.rb).pc = (if f.stop = true then after else pc.getD onward) ∧
    ((retire s f pc).here.bankOf s.here.rb).task.live = (s.bank.task.live && !f.stop) ∧
    (retire s f pc).here.cx.instret =
      (if (originOf s s.here s.bank.pc).counts || !s.det s.here.cx.ctx then s.here.cx.instret + 1 else s.here.cx.instret) ∧
    ∀ (at_ : W64) (d : Int), slotOk at_ = true →
      let slot (w : W64) : Int := w.toNat / 64 * 5 + w.toNat % 64 / 12
      0 ≤ slot at_ + d → slot at_ + d < 2 ^ 42 * 5 → slotOk (relTarget at_ d) = true ∧ slot (relTarget at_ d) = slot at_ + d

/-! Integer instructions (R126-R128). -/

/-- The 64-bit form of an exact result: wrapped, or with sat clamped to −2^63 … 2^63 − 1 (R95, R126). -/
def fit64 (sat : Bool) (x : Int) : W64 :=
  if sat then BitVec.ofInt 64 (if x < -2 ^ 63 then -2 ^ 63 else if 2 ^ 63 - 1 < x then 2 ^ 63 - 1 else x) else BitVec.ofInt 64 x

/-- Sums, differences, products, logic, shifts, minima and maxima: d and ls take the table's value (R126). -/
def Obligations.TwoSourceIntegerResults : Prop :=
  ∀ (f : Fields) (s : State), Guarded f s →
    let a := rd s f f.opa
    let b := rd s f f.opb
    let n := b.toNat % 64
    let gives (i : Instr) (x : W64) : Prop := Completes i f s (wres s f.dst x)
    gives (.add f) (fit64 f.sat (a.toInt + b.toInt)) ∧ gives (.sub f) (fit64 f.sat (a.toInt - b.toInt)) ∧
    gives (.mul f) (fit64 f.sat (a.toInt * b.toInt)) ∧ gives (.mulh f) (BitVec.ofInt 64 (a.toInt * b.toInt / 2 ^ 64)) ∧
    gives (.mulhn f) (BitVec.ofNat 64 (a.toNat * b.toNat / 2 ^ 64)) ∧
    gives (.and f) (a &&& b) ∧ gives (.or f) (a ||| b) ∧ gives (.xor f) (a ^^^ b) ∧ gives (.andn f) (a &&& ~~~ b) ∧
    gives (.shl f) (fit64 f.sat (a.toInt * 2 ^ n)) ∧ gives (.shr f) (a >>> n) ∧ gives (.sar f) (a.sshiftRight n) ∧
    gives (.rol f) (a <<< n ||| a >>> (64 - n)) ∧
    gives (.min f) (BitVec.ofInt 64 (min a.toInt b.toInt)) ∧ gives (.max f) (BitVec.ofInt 64 (max a.toInt b.toInt)) ∧
    gives (.minn f) (BitVec.ofNat 64 (min a.toNat b.toNat)) ∧ gives (.maxn f) (BitVec.ofNat 64 (max a.toNat b.toNat)) ∧
    gives (.lea f) (a + b * BitVec.ofNat 64 (2 ^ f.mod.val) + f.imm.signExtend 64)

/-- Bit counts, moves, extensions and absolute values; SEL takes the first source where the predicate's bit 0 is true, else the second;
BFX takes the field of a that b names, zero- or sign-extended; BFI writes b's low bits into the field that c names (R126, R128). -/
def Obligations.MoveSelectAndBitFieldResults : Prop :=
  ∀ (f : Fields) (s : State), Guarded f s →
    let a := rd s f f.opa
    let gives (i : Instr) (x : W64) : Prop := Completes i f s (wres s f.dst x)
    gives (.mov f) a ∧ gives (.abs f) (fit64 f.sat a.toInt.natAbs) ∧
    (∃ n ≤ 64, gives (.clz f) (BitVec.ofNat 64 n) ∧ (∀ k < n, a.getLsbD (63 - k) = false) ∧ (n < 64 → a.getLsbD (63 - n) = true)) ∧
    (∃ n ≤ 64, gives (.ctz f) (BitVec.ofNat 64 n) ∧ (∀ k < n, a.getLsbD k = false) ∧ (n < 64 → a.getLsbD n = true)) ∧
    gives (.popc f) (BitVec.ofNat 64 ((List.range 64).countP fun k => a.getLsbD k)) ∧
    (f.typ = .s8 → gives (.sext f) ((a.setWidth 8).signExtend 64)) ∧ (f.typ = .s16 → gives (.sext f) ((a.setWidth 16).signExtend 64)) ∧
    (f.typ = .s32 → gives (.sext f) ((a.setWidth 32).signExtend 64)) ∧ (f.typ = .n8 → gives (.zext f) ((a.setWidth 8).setWidth 64)) ∧
    (f.typ = .n16 → gives (.zext f) ((a.setWidth 16).setWidth 64)) ∧ (f.typ = .n32 → gives (.zext f) ((a.setWidth 32).setWidth 64)) ∧
    (f.mod = 0 → gives (.movi f) (f.imm.signExtend 64)) ∧ (f.mod = 1 → gives (.movi f) (f.imm ++ a.setWidth 32)) ∧
    gives (.sel f) (if (rdP s f.opc).getLsbD 0 then rd3 s f f.opa else rd3 s f f.opb) ∧
    (∃ x, gives (.bfx f) x ∧
      let a := rd s f f.opa
      let lo := (rd s f f.opb).toNat % 64
      let w := (rd s f f.opb).toNat / 256 % 64 + 1
      ∀ k : Fin 64, x.getLsbD k = if k.val < w then a.getLsbD (lo + k.val) else f.mod = 1 && a.getLsbD (lo + w - 1)) ∧
    (∃ x, gives (.bfi f) x ∧
      let lo := (rd3 s f f.opc).toNat % 64
      let w := (rd3 s f f.opc).toNat / 256 % 64 + 1
      ∀ k : Fin 64, x.getLsbD k =
        if lo ≤ k.val ∧ k.val < lo + w then (rd3 s f f.opb).getLsbD (k.val - lo) else (rd3 s f f.opa).getLsbD k)

/-- Division never faults and sets no flag: a divisor of zero gives all ones or a, −2^63 by −1 gives −2^63 or with sat
2^63 − 1, and the remainder 0; otherwise the quotient is truncated toward zero (R126, R127). The result arrives later (R74). -/
def Obligations.DivisionResults : Prop :=
  ∀ (f : Fields) (s : State), Guarded f s →
    let a := rd s f f.opa
    let b := rd s f f.opb
    let gives (i : Instr) (x : W64) : Prop := Completes i f s (pushResult s i f (x.setWidth 128) 0)
    gives (.div f) (if b = 0 then BitVec.allOnes 64 else fit64 f.sat (a.toInt.tdiv b.toInt)) ∧
    gives (.divn f) (if b = 0 then BitVec.allOnes 64 else a / b) ∧
    gives (.rem f) (if b = 0 then a else BitVec.ofInt 64 (a.toInt - a.toInt.tdiv b.toInt * b.toInt)) ∧
    gives (.remn f) (if b = 0 then a else a % b)

/-- CMP writes its condition to every bit of a predicate and leaves the scalar registers and ls (R123, R126, R232). -/
def Obligations.ComparesWritePredicates : Prop :=
  ∀ (f : Fields) (s : State) (n : Fin 16), Guarded f s → f.dst = .p n → f.mod.val < 6 →
    let a := rd s f f.opa
    let b := rd s f f.opb
    let lt : Bool := if f.typ = .n64 then a.toNat < b.toNat else a.toInt < b.toInt
    let c : Bool := match f.mod.val with
      | 0 => a == b
      | 1 => a != b
      | 2 => lt
      | 3 => !lt
      | 4 => lt || a == b
      | _ => !lt && a != b
    Completes (.cmp f) f s (s.setBank (s.bank.wp n (if c then BitVec.allOnes 128 else 0)))

/-- PLOG, op 0x040, untyped, with c3 = 1, applies the truth table of imm<67:60> to every bit, and imm<81:68> is 0; PMOV copies, packs bit 0 of every predicate, or unpacks (R129, R130). -/
def Obligations.PredicateInstructionResults : Prop :=
  ∀ (f : Fields) (s : State), Guarded f s →
    (Instr.plog f).opcode = 0x040 ∧
    ((Instr.plog f).wf = true → f.typ = .untyped ∧ f.imm.toNat < 256 ∧ (encode (.plog f)).getLsbD 93 = true ∧
      (encode (.plog f)).extractLsb' 60 8 = f.imm.setWidth 8 ∧ (encode (.plog f)).extractLsb' 68 14 = 0) ∧
    (∃ x, Completes (.plog f) f s (wpred s f.dst x) ∧
      ∀ k : Fin 128, x.getLsbD k = f.imm.getLsbD (4 * ((rdP s f.opa).getLsbD k).toNat + 2 * ((rdP s f.opb).getLsbD k).toNat
        + ((rdP s f.opc).getLsbD k).toNat)) ∧
    (f.mod = 0 → Completes (.pmov f) f s (wpred s f.dst (rdP s f.opa))) ∧
    (s.here.waits allPreds = false →
      (f.mod = 1 → ∃ x, Completes (.pmov f) f s (wres s f.dst x) ∧
        ∀ k : Fin 64, x.getLsbD k = if h : k.val < 16 then (s.bank.rp ⟨k.val, h⟩).getLsbD 0 else false) ∧
      (f.mod = 2 → ∃ b, Completes (.pmov f) f s (s.setBank b) ∧
        ∀ n : Fin 16, b.rp n = if n = 0 ∨ (rd s f f.opa).getLsbD n then BitVec.allOnes 128 else 0))

/-- The integer that element bits of an integer type stand for, and the bits of an exact integer: wrapped, or with sat clamped (R95). -/
def intVal (t : Typ) (x : Nat) : Int := if t.isSigned ∧ 2 ^ (8 * t.size - 1) ≤ x then x - 2 ^ (8 * t.size) else x
def intLo (t : Typ) : Int := if t.isSigned then -2 ^ (8 * t.size - 1) else 0
def intHi (t : Typ) : Int := if t.isSigned then 2 ^ (8 * t.size - 1) - 1 else 2 ^ (8 * t.size) - 1
def intFit (t : Typ) (sat : Bool) (y : Int) : Nat :=
  ((if sat then max (intLo t) (min (intHi t) y) else y) % 2 ^ (8 * t.size)).toNat

/-! Scalar floating point (R82-R84, R94-R99, R131-R135) and control (R136). -/

/-- The magnitude that bits without a sign stand for, in units of the format's least subnormal; infinity's bits stand for the value that the
next exponent would have (R82, R83). -/
def unitsOf (m : Fmt) (y : Nat) : Nat := if y < 2 ^ m.m then y else (2 ^ m.m + y % 2 ^ m.m) * 2 ^ (y / 2 ^ m.m - 1)

/-- The value one is 2 to this power of these units. -/
def oneExp (m : Fmt) : Nat := 2 ^ (m.e - 1) - 2 + m.m

/-- An exact value is rounded once to a result with its events (R83, R94, R98). `neg` is its sign, or that of an exact zero, and `ord k`
says how its magnitude compares with k quarters of a unit. -/
def RoundsTo (m : Fmt) (r : Rnd) (neg : Bool) (ord : Nat → Ordering) (res : FRes) : Prop :=
  let inf := infBits m
  let at_ (y : Nat) : Nat := 4 * unitsOf m y
  let away : Bool := r = .rup && !neg || r = .rdn && neg
  let beyond : Bool := ord (at_ inf) != .lt
  ∃ y, res.1 = y + (if neg then 2 ^ (m.e + m.m) else 0) ∧
    (beyond = true → y = if r = .rne ∨ away = true then inf else inf - 1) ∧
    (beyond = false → ∃ z < inf, ord (at_ z) ≠ .lt ∧ ord (at_ (z + 1)) = .lt ∧ y =
      if ord (at_ z) = .eq then z
      else if r = .rne then (match ord ((at_ z + at_ (z + 1)) / 2) with
        | .lt => z
        | .eq => z + z % 2
        | .gt => z + 1)
      else if away then z + 1 else z) ∧
    (let overflow : Bool := beyond || y == inf
     let inexact : Bool := overflow || ord (at_ y) != .eq
     -- below the smallest normal after rounding to the format's precision
     let least := at_ (2 ^ m.m)
     let tiny : Bool := ord least == .lt && !(r = .rne && ord (least - 1) != .lt) && !(away && ord (least - 2) == .gt)
     res.2 = (if overflow then evOverflow else 0) ||| (if tiny && inexact then evUnderflow else 0) ||| if inexact then evInexact else 0)

/-- The exact value num / den, of sign `zneg` where it is zero, rounded. -/
def RoundsRat (m : Fmt) (r : Rnd) (zneg : Bool) (num : Int) (den : Nat) : FRes → Prop :=
  RoundsTo m r (if num = 0 then zneg else decide (num < 0)) fun k => compare (4 * num.natAbs) (k * den)

/-- num / den rounded to an integer (R94, R95). -/
def roundedInt (r : Rnd) (neg : Bool) (num den : Nat) : Int :=
  let up : Bool := match r with
    | .rne => den < 2 * (num % den) || (den == 2 * (num % den) && num / den % 2 == 1)
    | .rtz => false
    | .rdn => neg && num % den != 0
    | .rup => !neg && num % den != 0
  let k : Nat := num / den + if up then 1 else 0
  if neg then -k else k

/-- Which result an FP instruction gives, in this order: cause 1 for a signalling NaN operand; another generated NaN, with invalid; the
first quiet NaN operand; a result that an infinity or a zero divisor fixes; the exact value rounded (R96, R97, R132). -/
def Arithmetic (m : Fmt) (ops : List Nat) (bad : Option Nat) (fixed : Option FRes) (rounded : FRes → Prop) (res : FRes) : Prop :=
  let nan (x : Nat) : Bool := infBits m < x % 2 ^ (m.e + m.m)
  let generated (k : Nat) : FRes := (infBits m + 2 ^ (m.m - 1) + k, 16)
  if ops.any (fun x => nan x && x / 2 ^ (m.m - 1) % 2 == 0) then res = generated 1
  else match bad, ops.find? nan, fixed with
    | some k, _, _ => res = generated k
    | none, some q, _ => res = (q, 0)
    | none, none, some y => res = y
    | none, none, none => rounded res

/-- What the FP operations that the results are named by compute: the exact sum, product, fused sum, quotient or root, rounded once, with its
events; their NaNs and infinities; the conversions between FP formats, from an integer and to one (R82, R83, R94-R98, R132, R134). -/
def FpArithmetic : Prop :=
  ∀ (t : Typ) (r : Rnd), t.isFp = true →
    let m := fmtOf t
    let half := 2 ^ (m.e + m.m)
    let mag (x : Nat) : Nat := x % half
    let neg (x : Nat) : Bool := half ≤ x
    let nan (x : Nat) : Bool := infBits m < mag x
    let inf (x : Nat) : Bool := mag x == infBits m
    let zero (x : Nat) : Bool := mag x == 0
    let signed (n : Bool) (y : Nat) : Nat := y + if n then half else 0
    let val (x : Nat) : Int := if neg x then -(unitsOf m (mag x) : Int) else unitsOf m (mag x)
    let one := 2 ^ oneExp m
    (∀ a < 2 * half, ∀ b < 2 * half,
      let n := neg a != neg b
      let sum (nb : Bool) : FRes → Prop :=
        Arithmetic m [a, b] (if inf a ∧ inf b ∧ neg a ≠ nb then some 3 else none)
          (if inf a then some (a, 0) else if inf b then some (signed nb (infBits m), 0) else none)
          (RoundsRat m r (if neg a = nb then nb else r = .rdn) (val a + if nb = neg b then val b else -val b) 1)
      sum (neg b) (fadd m r a b) ∧ sum (!neg b) (fsub m r a b) ∧
      Arithmetic m [a, b] (if (inf a ∧ zero b) ∨ (zero a ∧ inf b) then some 4 else none)
        (if inf a ∨ inf b then some (signed n (infBits m), 0) else none)
        (RoundsRat m r n (val a * val b) one) (fmul m r a b) ∧
      Arithmetic m [a, b] (if (inf a ∧ inf b) ∨ (zero a ∧ zero b) then some 5 else none)
        (if inf a then some (signed n (infBits m), 0) else if inf b then some (signed n 0, 0)
          else if zero b then some (signed n (infBits m), 8) else none)
        (RoundsRat m r n ((if n then -1 else 1) * (unitsOf m (mag a) * one)) (unitsOf m (mag b))) (fdiv m r a b) ∧
      Arithmetic m [a] (if neg a ∧ ¬ zero a ∧ ¬ nan a then some 5 else none) (if inf a then some (a, 0) else none)
        (RoundsTo m r (neg a) fun k => compare (16 * (unitsOf m (mag a) * one)) (k ^ 2)) (fsqrt m r a) ∧
      ∀ c < 2 * half, Arithmetic m [a, b, c]
        (if (inf a ∧ zero b) ∨ (zero a ∧ inf b) then some 4
          else if (inf a ∨ inf b) ∧ ¬ nan a ∧ ¬ nan b ∧ inf c ∧ n ≠ neg c then some 3 else none)
        (if inf a ∨ inf b then some (signed n (infBits m), 0) else if inf c then some (c, 0) else none)
        (RoundsRat m r (if n = neg c then n else r = .rdn) (val a * val b + val c * one) one) (ffma m r a b c)) ∧
    ∀ (u : Typ) (sat : Bool),
      (u.isFp = true →
        let g := fmtOf u
        ∀ a < 2 * half,
          let res := convert t u r false a
          if nan a then res =
            if a / 2 ^ (m.m - 1) % 2 = 0 then (infBits g + 2 ^ (g.m - 1) + 6, 16)
            else (infBits g + 2 ^ (g.m - 1) + a % 2 ^ (m.m - 1) % 2 ^ (g.m - 1) + (if neg a then 2 ^ (g.e + g.m) else 0), 0)
          else if inf a then res = (infBits g + (if neg a then 2 ^ (g.e + g.m) else 0), 0)
          else RoundsRat g r (neg a) (val a * 2 ^ oneExp g) one res) ∧
      (u.isInt = true →
        (∀ a < 2 ^ (8 * u.size), RoundsRat m r false (intVal u a * one) 1 (convert u t r false a)) ∧
        ∀ a < 2 * half, convert t u r sat a =
          if nan a then (0, 16)
          else if inf a then (if sat then intFit u true (if neg a then intLo u else intHi u) else 0, 16)
          else
            let k := roundedInt r (neg a) (unitsOf m (mag a)) one
            (intFit u sat k, if k < intLo u ∨ intHi u < k then 16 else if unitsOf m (mag a) % one = 0 then 0 else 1))


/-- FP results are written zero-extended to d and ls and their events accrue in sys.fflags; FDIV and FSQRT arrive later, with
their events (R84, R98, R131, R132). -/
def Obligations.ScalarFpResults : Prop :=
  ∀ (f : Fields) (s : State), Guarded f s →
    let m := fmtOf f.typ
    let a := rdF s false f f.opa
    let b := rdF s false f f.opb
    let gives (i : Instr) (r : FRes) : Prop := exec i s = .next (retireFp (wres s f.dst (BitVec.ofNat 64 r.1)) f r.2)
    gives (.fadd f) (fadd m f.rnd a b) ∧ gives (.fsub f) (fsub m f.rnd a b) ∧ gives (.fmul f) (fmul m f.rnd a b) ∧
    gives (.ffma f) (ffma m f.rnd (rdF s true f f.opa) (rdF s true f f.opb) (rdF s true f f.opc)) ∧
    gives (.fmin f) (fminmax m false a b) ∧ gives (.fmax f) (fminmax m true a b) ∧
    gives (.fcvt f) (convert (fcvtFrom f.mod.val) f.typ f.rnd f.sat
      (fpBits (fcvtFrom f.mod.val) (rdT s false f (fcvtFrom f.mod.val) f.opa))) ∧
    Completes (.fclass f) f s (wres s f.dst (BitVec.ofNat 64 (fclass m a))) ∧
    Completes (.fsgn f) f s (wres s f.dst (BitVec.ofNat 64 (fsgn m f.mod.val a b))) ∧
    (let r := fcmp m f.mod.val a b
     exec (.fcmp f) s = .next (retireFp (wpred s f.dst (if r.1 then BitVec.allOnes 128 else 0)) f r.2)) ∧
    (let r := fdiv m f.rnd a b
     Completes (.fdiv f) f s (pushResult s (.fdiv f) f (BitVec.ofNat 128 r.1) r.2)) ∧
    (let r := fsqrt m f.rnd a
     Completes (.fsqrt f) f s (pushResult s (.fsqrt f) f (BitVec.ofNat 128 r.1) r.2))

/-- The FP operations compute exactly and round once, with R98's events (R82, R83, R94-R98, R132, R134). Events of an instruction accrue in
sys.fflags; one whose enable bit is set freezes the core with cause 13 after the
instruction has retired, at its successor or, where it has executed again, where its continuation says (R76, R98, R99, R153). -/
def Obligations.FpEventsAccrueAndTrap : Prop :=
  FpArithmetic ∧ ∀ (s : State) (f : Fields) (ev : Events),
    let hi := s.here.rb
    let t := retireFp s f ev
    (t.regs s.cur hi).fflags = s.bank.fflags ||| ev ∧ (t.regs s.cur hi).s = (s.regs s.cur hi).s ∧
    (ev &&& s.bank.fenable ≠ 0#5 →
      t.here.cx.frz.frozen = true ∧ t.here.cx.frz.cause = 13 ∧ (t.here.bankOf hi).pc = s.bank.seqPc) ∧
    (s.bank.again = none → s.bank.seqPc = succPc s.bank.pc)

/-- Branches, calls, returns and loops: where they go and what they write (R62, R63, R136). With stop the task ends without
transfer and CALL leaves d (R71, R136). END ends the task; `.drain` only when every queued engine is empty. Targets keep their upper bits (log 44). -/
def Obligations.ControlInstructionsTransfer : Prop :=
  ∀ (f : Fields) (s : State), Guarded f s →
    let a := rd s f f.opa
    let there := relTarget s.bank.pc f.imm.toInt
    let wrote (x : W64) : State := s.setBank (s.bank.wd f.dst x)
    Transfers (.br f) f s s there ∧ Transfers (.brx f) f s s a ∧ Transfers (.ret f) f s s a ∧
    (f.stop = false → Transfers (.call f) f s (wrote (succPc s.bank.pc)) (if f.mod = 0 then there else a)) ∧
    (f.stop = true → Completes (.call f) f s s) ∧
    (1 < a.toNat → Transfers (.loop f) f s (wrote (a - 1)) there) ∧ (a.toNat ≤ 1 → Completes (.loop f) f s (wrote 0)) ∧
    ((f.mod = 1 → ∀ e, (s.here.eng e).cmds = []) → exec (.endTask f) s = .next (retire s { f with stop := true } none)) ∧
    (f.mod = 1 → (∃ e, (s.here.eng e).cmds ≠ []) → exec (.endTask f) s = .next s)

/-- TRAP and BRK freeze the core at their own PC with causes 14 and 15 and their code in the packet; they count as retired. With
armed breakpoints BRK stops the core after it retires instead (R148, R152, R423). That they count as retired at the freeze is log 23. -/
def Obligations.TrapAndBrkFreeze : Prop :=
  ∀ (f : Fields) (s : State), Guarded f s →
    let hi := s.here.rb
    let entered (t : State) (cause : Nat) : Prop :=
      t.here.cx.frz.frozen = true ∧ t.here.cx.frz.cause = cause ∧ t.here.cx.frz.seq = s.here.cx.frz.seq + 1 ∧
      (t.here.bankOf hi).pc = s.bank.pc ∧ t.here.cx.mwin = 0 ∧
      t.here.cx.instret = s.here.cx.instret + (if (originOf s s.here s.bank.pc).counts || !s.det s.here.cx.ctx then 1 else 0) ∧
      (t.here.cx.frz.packet[0]).toNat / 2 ^ 32 % 2 ^ 16 = f.imm.toNat % 2 ^ 16
    (∃ t, exec (.trap f) s = .next t ∧ entered t 14) ∧
    (s.here.loupe.armed = false → ∃ t, exec (.brk f) s = .next t ∧ entered t 15) ∧
    (s.here.loupe.armed = true → exec (.brk f) s = .next (loupeStop (retireOnly s f none) s.cur 2))

/-- A precise fault freezes the core: nothing of the instruction happens, the packet holds the cause and the three cause words,
and it waits to go to the supervisor (R150, R152). -/
def Obligations.PreciseFaultsFreezeTheCore : Prop :=
  ∀ (s : State) (x : FaultInfo), x.cause < 256 →
    let t := raise s x
    t.here.cx.frz.frozen = true ∧ t.here.cx.frz.cause = x.cause ∧ (t.here.bankOf s.here.rb).pc = s.bank.pc ∧
    (t.here.cx.frz.packet[0]).toNat % 256 = x.cause ∧ t.here.cx.frz.packet[2].toNat = s.bank.pc.toNat % 2 ^ 48 ∧
    t.here.cx.frz.packet[4] = x.s5 ∧ t.here.cx.frz.packet[5] = x.s6 ∧ t.here.cx.frz.packet[6] = x.s7 ∧
    t.here.cx.frz.toSend.isSome ∧ t.here.cx.mwin = 0 ∧ (x.cause ≠ 6 → t.fresh = s.fresh)

/-- CSRR writes a system register's value, or raises an access fault where it needs a right that the context lacks; CSRW writes the new
bits of sys.fflags or sys.fenable (R147, R149). Who is the supervisor for sys.ctximg is log 100, the access kind of the fault log 24. -/
def Obligations.SystemRegisterInstructions : Prop :=
  ∀ (f : Fields) (s : State), Guarded f s →
    (∀ v, readCsr s f.imm.toNat = .ok v → Completes (.csrr f) f s (wres s f.dst v)) ∧
    (f.imm = 0x000#32 → Completes (.csrr f) f s (wres s f.dst (s.bank.fflags.setWidth 64))) ∧
    (f.imm = 0x001#32 → Completes (.csrr f) f s (wres s f.dst (s.bank.fenable.setWidth 64))) ∧
    (f.imm = 0x011#32 → Completes (.csrr f) f s (wres s f.dst s.here.cx.instret)) ∧
    (f.imm = 0x023#32 → Completes (.csrr f) f s (wres s f.dst (BitVec.ofNat 64 s.here.cx.ctx))) ∧
    (f.imm = 0x012#32 → Completes (.csrr f) f s (wres s f.dst (if s.det s.here.cx.ctx then 0 else BitVec.ofNat 64 s.cc))) ∧
    (f.imm = 0x024#32 → Completes (.csrr f) f s (wres s f.dst 0x10000#64)) ∧
    (f.imm = 0x030#32 → Completes (.csrr f) f s (wres s f.dst
      (BitVec.ofNat 64 (s.here.cx.slots.length + s.here.cx.overflow.length * 2 ^ 16)))) ∧
    (f.imm = 0x031#32 → Completes (.csrr f) f s (wres s f.dst s.here.cx.bounceDrop)) ∧
    (f.imm = 0x032#32 → Completes (.csrr f) f s (wres s f.dst s.here.cx.msgDrop)) ∧
    -- two registers need a right, without which they raise an access fault
    (let refused : FaultInfo := { cause := 8, s5 := f.imm.setWidth 64, s6 := 0x306#64, s7 := 0 }
     let own : Prop := supvOf s s.here.cx.ctx s.here.cx.lc = s.here.cx.lc
     let debug : Prop := s.here.loupe.deleg.toNat = 2 ^ 12 + s.here.cx.ctx
     (f.imm = 0x040#32 → (own → Completes (.csrr f) f s (wres s f.dst (BitVec.ofNat 64 (imagePa s s.here.cx.ctx s.cur)))) ∧
       (¬ own → Raises (.csrr f) s refused)) ∧
     (f.imm = 0x041#32 → (debug → Completes (.csrr f) f s (wres s f.dst (BitVec.ofNat 64 s.cur))) ∧
       (¬ debug → Raises (.csrr f) s refused))) ∧
    (let a := (rd s f f.opa).setWidth 5
     let new (old : BitVec 5) : BitVec 5 := if f.mod = 0 then a else if f.mod = 1 then old ||| a else old &&& ~~~ a
     (f.imm = 0#32 → Completes (.csrw f) f s (s.setBank { s.bank with fflags := new s.bank.fflags })) ∧
     (f.imm = 1#32 → Completes (.csrw f) f s (s.setBank { s.bank with fenable := new s.bank.fenable })))

/-! Messages and channels (R137-R146). -/

/-- SEND and SPAWN send one message with the payload registers, the channel, tag and length of the descriptor and the core's lc as
sender; a full buffer stalls both, an illegal descriptor faults, and so does a target that is no core of the context: for SEND a number
not below nc, for SPAWN a data address for which HOME would fault or that has no target core (R137-R139, R144, R146). -/
def Obligations.SendAndSpawnSendAMessage : Prop :=
  ∀ (f : Fields) (s : State), Guarded f s →
    let a := rd s f f.opa
    let b := rd s f f.opb
    let len := b.toNat / 16 % 64
    let ch := b.toNat % 16
    let msg (kind : Nat) : Msg := mkMsg kind len (BitVec.ofNat 4 ch) (BitVec.ofNat 16 (b.toNat / 65536))
      (BitVec.ofNat 16 s.here.cx.lc) (payloadOf s.bank (regNo f.dst) len)
    (sendDescOk b = true → s.here.waits (sRange (regNo f.dst) ((len + 7) / 8)) = false → MaySend s →
      (a.toNat < (ncWord s).toNat → Completes (.send f) f s (sentOut (traceSend s a.toNat ch) (.msg a.toNat (msg 0)))) ∧
      (∀ d, targetOf s s.here a.toNat = .ok (some d) → Completes (.spawn f) f s (sentOut (traceSend s d ch) (.msg d (msg 1))))) ∧
    (sendDescOk b = true → s.here.waits (sRange (regNo f.dst) ((len + 7) / 8)) = false → ¬ MaySend s →
      (a.toNat < (ncWord s).toNat → exec (.send f) s = .next s) ∧
      ∀ d, targetOf s s.here a.toNat = .ok (some d) → exec (.spawn f) s = .next s) ∧
    (sendDescOk b = false → Raises (.send f) s (illegalInfo (encode (.send f))) ∧
      Raises (.spawn f) s (illegalInfo (encode (.spawn f)))) ∧
    (sendDescOk b = true →
      ((ncWord s).toNat ≤ a.toNat → Raises (.send f) s { cause := 12, s5 := 0, s6 := a, s7 := b }) ∧
      (targetOf s s.here a.toNat = .ok none → Raises (.spawn f) s { cause := 12, s5 := 0, s6 := a, s7 := b }) ∧
      (∀ x, targetOf s s.here a.toNat = .error x → Raises (.spawn f) s x) ∧
      -- MMIO, the host window and the peer window of a core outside the grant have no target core
      (mmioBase ≤ a.toNat → a.toNat < 2 ^ 48 → targetOf s s.here a.toNat = .ok none) ∧
      (∀ x p, s.ctx? s.here.cx.ctx = some x → p < 37376 → p ∉ x.grant → a.toNat = 0xFE0000000000 + p * 0x20000 →
        targetOf s s.here a.toNat = .ok none))

/-- BIND, UNBIND and CHCTL change the channel entry their operands name: its state in bits 63:62 (0 unbound, 1 armed, 2 masked),
its priority in bits 61:59, its handler in bits 47:0; CHCTL's d takes the old entry, as every scalar result is written
(R102, R140-R142). Its `.flush` discards the channel's messages and counts them; other operand values are illegal. What BIND cuts off and UNBIND keeps is log 25; which bits are illegal is log 66. -/
def Obligations.ChannelInstructionsWriteTheEntry : Prop :=
  ∀ (f : Fields) (s : State), Guarded f s →
    let a := rd s f f.opa
    let b := rd s f f.opb
    let entry (state prio : Nat) (handler : W64) : W64 := BitVec.ofNat 64 (state * 2 ^ 62 + prio * 2 ^ 59 + handler.toNat % 2 ^ 48)
    let setTo (t : State) (n : Nat) (e : W64) : State := t.setCore (t.here.setChan n e)
    (b.toNat / 2 ^ 9 = 0 → b.getLsbD 7 = false → Completes (.bind f) f s
      (setTo s (b.toNat % 16) (entry (if b.getLsbD 8 then 1 else 2) (b.toNat / 16 % 8) a))) ∧
    (b.toNat / 2 ^ 9 ≠ 0 ∨ b.getLsbD 7 = true → Raises (.bind f) s (illegalInfo (encode (.bind f)))) ∧
    (∀ n, a.toNat = n → n < 16 →
      let e := s.here.chan n
      let p := e.toNat / 2 ^ 59 % 8
      let st := e.toNat / 2 ^ 62
      Completes (.unbind f) f s (setTo s n (entry 0 p e)) ∧
      (f.mod = 0 → Completes (.chctl f) f s (wres s f.dst e)) ∧
      (f.mod = 1 → Completes (.chctl f) f s (setTo (wres s f.dst e) n (if st = 2 then entry 1 p e else e))) ∧
      (f.mod = 2 → Completes (.chctl f) f s (setTo (wres s f.dst e) n (if st = 1 then entry 2 p e else e))) ∧
      (f.mod = 3 → b.toNat < 8 → Completes (.chctl f) f s (setTo (wres s f.dst e) n (entry st b.toNat e))) ∧
      (f.mod = 4 → ∃ u, Completes (.chctl f) f s u ∧ (∀ t ∈ u.here.cx.slots, t.held.msg.ch.toNat ≠ n) ∧
        (∀ h ∈ u.here.cx.overflow, h.msg.ch.toNat ≠ n) ∧ u.here.chan n = e ∧
        (∀ t ∈ s.here.cx.slots, t.held.msg.ch.toNat ≠ n → t ∈ u.here.cx.slots) ∧
        u.here.cx.msgDrop = s.here.cx.msgDrop + BitVec.ofNat 64
          (s.here.cx.slots.countP (fun t => t.held.msg.ch.toNat == n) + s.here.cx.overflow.countP fun h => h.msg.ch.toNat == n) ∧
        (u.regs s.cur s.here.rb) = ((wres s f.dst e).regs s.cur s.here.rb))) ∧
    (Instr.chctl f).opcode = 0x104 ∧ ((Instr.chctl f).wf = true → f.typ = .untyped ∧ f.mod.val ≤ 4) ∧
    (f.mod = 3 → 8 ≤ b.toNat → Raises (.chctl f) s (illegalInfo (encode (.chctl f)))) ∧
    (16 ≤ a.toNat → Raises (.unbind f) s (illegalInfo (encode (.unbind f))) ∧ Raises (.chctl f) s (illegalInfo (encode (.chctl f))))

/-- MWIN, op 0x105, untyped, opens a masked window over the next imm instructions, 1 to 64, in bank 0, and does nothing in bank 1 or inside a window; QSEND sends
its packet bytes to the queue whose kick register a names, and faults on a bad descriptor or where a names no queue that the context may
kick; HOME's result is the logical core that homes the address, −1 for no core, and an address that is not assigned or not mapped faults
(R115, R140, R143-R145; the access kind of HOME's faults is log 24). The model's `mwin` counts MWIN itself and the window's end beside its instructions. -/
def Obligations.WindowQueueAndHomeInstructions : Prop :=
  ∀ (f : Fields) (s : State), Guarded f s →
    (Instr.mwin f).opcode = 0x105 ∧
    ((Instr.mwin f).wf = true → f.typ = .untyped ∧ 1 ≤ f.imm.toNat ∧ f.imm.toNat ≤ 64) ∧
    (s.here.rb = false → s.here.cx.mwin = 0 →
      Completes (.mwin f) f s (s.setCore { s.here with cx := { s.here.cx with mwin := f.imm.toNat + 2 } })) ∧
    (s.here.rb = true ∨ s.here.cx.mwin ≠ 0 → Completes (.mwin f) f s s) ∧
    (let a := rd s f f.opa
     let b := rd s f f.opb
     let len := b.toNat / 256 % 64
     ∀ q, kickQueue s s.here.cx.ctx a.toNat = some q → b.toNat / 2 ^ 14 = 0 → len ≤ 52 →
       s.here.waits (sRange (regNo f.dst) ((len + 7) / 8)) = false → MaySend s →
       Completes (.qsend f) f s
         (sentOut (traceUnit s) (.packet q (BitVec.ofNat 8 b.toNat) len (regBytes s.bank (regNo f.dst) len)))) ∧
    (let a := rd s f f.opa
     let b := rd s f f.opb
     let bad : Prop := b.toNat / 2 ^ 14 ≠ 0 ∨ 52 < b.toNat / 256 % 64
     (bad → Raises (.qsend f) s (illegalInfo (encode (.qsend f)))) ∧
     (¬ bad → kickQueue s s.here.cx.ctx a.toNat = none → Raises (.qsend f) s (accessFault a.toNat .store 8)) ∧
     (∀ x, targetOf s s.here a.toNat = .error x → Raises (.home f) s x) ∧
     (2 ^ 48 ≤ a.toNat ∨ rangeOf a.toNat = .unassigned → Raises (.home f) s (addrFault a.toNat .load 1)) ∧
     (a.toNat < 0x800000000000 → translate s s.here a.toNat = none → Raises (.home f) s (transFault a.toNat .load 1))) ∧
    (∀ r, targetOf s s.here (rd s f f.opa).toNat = .ok r →
      Completes (.home f) f s (pushResult s (.home f) f (match r with
        | some l => BitVec.ofNat 128 l
        | none => BitVec.ofNat 128 (2 ^ 64 - 1)) 0))

/-! Scalar memory, synchronisation, atomics, fences and capabilities: what they leave outstanding (R41, R191-R218). -/

/-- LD and ST issue on an address that is mapped and allowed: the effective address is the sum of base, index and immediate modulo
2^64, a store holds the low bytes of its data, a load names its destination, or the pair of .q, as pending; a failed check raises its
fault (R191-R193, R196, R197). An address of MMIO goes through the checks of MMIO, where another width than 4 or 8 bytes and a misaligned
address fault (R194); in free mode a load with a window that misses
the TLB is checked when it performs (R76). Which loads are checked late is log 11. -/
def Obligations.LoadsAndStoresBecomeOutstanding : Prop :=
  ∀ (f : Fields) (s : State), Guarded f s → MemoryReady s →
    let ea := (rd s f f.opa + rd s f f.opb + f.imm.signExtend 64).toNat
    let size := f.typ.size
    let mmio := ea < 2 ^ 48 ∧ rangeOf ea = .mmio
    let aligned := (size = 4 ∨ size = 8) ∧ ea % size = 0
    let late := ea < 0x800000000000 ∧ tlbHit s.here s.here.cx.ctx ea = none ∧ f.look ≠ 0 ∧ s.det s.here.cx.ctx = false
    let dst := pairRegs f.dst (f.typ == .q)
    (s.here.waits dst = false →
      (mmio → mmioCheck s s.cur false size ea = none → LeavesOp (.ld f) f s fun o => o.addr = ea ∧ o.mmio = true ∧ o.dst = dst) ∧
      (∀ x, mmio → mmioCheck s s.cur false size ea = some x → Raises (.ld f) s x) ∧
      (mmio → ¬ aligned → Raises (.ld f) s (addrFault ea .load size)) ∧
      (¬ mmio → late → LeavesOp (.ld f) f s fun o => o.addr = ea ∧ o.late = true ∧ o.dst = dst) ∧
      (∀ ps, ¬ mmio → ¬ late → access s s.here .load ea size 0 = .ok ps →
        LeavesOp (.ld f) f s fun o => o.addr = ea ∧ o.parts = ps ∧ o.dst = dst) ∧
      (∀ x, ¬ mmio → ¬ late → access s s.here .load ea size 0 = .error x → Raises (.ld f) s x)) ∧
    ((f.typ = .q → s.here.waits (pairRegs f.dst true) = false) →
      (mmio → mmioCheck s s.cur true size ea = none → LeavesOp (.st f) f s fun o => o.addr = ea ∧ o.mmio = true) ∧
      (∀ x, mmio → mmioCheck s s.cur true size ea = some x → Raises (.st f) s x) ∧
      (mmio → ¬ aligned → Raises (.st f) s (addrFault ea .store size)) ∧
      (∀ ps, ¬ mmio → access s s.here .store ea size 0 = .ok ps →
        LeavesOp (.st f) f s fun o => o.addr = ea ∧ o.parts = ps ∧ o.dst = [] ∧
          o.buf.map PByte.b = toBytes size (storeData s f)) ∧
      (∀ x, ¬ mmio → access s s.here .store ea size 0 = .error x → Raises (.st f) s x))

/-- LDF, SETE and WATCH: one aligned word of local memory, or an aligned block of 8 to 128 bytes; a misaligned address faults, one that
is not local memory faults under LDF and SETE, and a descriptor that breaks WATCH's layout is illegal (R185, R201-R204). WATCH arms or
cancels later. -/
def Obligations.SynchronisingInstructionsIssue : Prop :=
  ∀ (f : Fields) (s : State), Guarded f s → MemoryReady s →
    (∀ ps, syncAccess s s.here .load (baseAddr s f) = .ok ps →
      LeavesOp (.ldf f) f s fun o => o.addr = baseAddr s f ∧ o.parts = ps ∧ o.dst = regOf f.dst ++ regOf f.opb) ∧
    (∀ ps, syncAccess s s.here .store (effAddr s f) = .ok ps →
      LeavesOp (.sete f) f s fun o => o.addr = effAddr s f ∧ o.parts = ps) ∧
    (let b := rd s f f.opb
     let size := 8 * 2 ^ (b.toNat / 16 % 8)
     let ea := baseAddr s f
     watchDescOk b = true → ea % size = 0 → ∀ ps, access s s.here .watch ea size 0 = .ok ps →
       LeavesOp (.watch f) f s fun o => o.addr = ea ∧ o.parts = ps ∧ o.b = b.setWidth 128) ∧
    (let ok (ea : Nat) : Prop := ea % 8 = 0 ∧ ea < 2 ^ 48 ∧ (rangeOf ea = .own ∨ rangeOf ea = .peer)
     (¬ ok (baseAddr s f) → Raises (.ldf f) s (addrFault (baseAddr s f) .load 8)) ∧
     (¬ ok (effAddr s f) → Raises (.sete f) s (addrFault (effAddr s f) .store 8)) ∧
     (∀ x, ok (baseAddr s f) → access s s.here .load (baseAddr s f) 8 0 = .error x → Raises (.ldf f) s x) ∧
     (∀ x, ok (effAddr s f) → access s s.here .store (effAddr s f) 8 0 = .error x → Raises (.sete f) s x)) ∧
    (let b := rd s f f.opb
     let size := 8 * 2 ^ (b.toNat / 16 % 8)
     let ea := baseAddr s f
     let bad : Prop := b.toNat / 2 ^ 24 ≠ 0 ∨ b.getLsbD 7 = true ∨ 4 < b.toNat / 16 % 8 ∨ b.toNat % 16 = 15
     (bad → Raises (.watch f) s (illegalInfo (encode (.watch f)))) ∧
     (¬ bad → ea % size ≠ 0 → Raises (.watch f) s (addrFault ea .watch size)) ∧
     (∀ x, ¬ bad → ea % size = 0 → access s s.here .watch ea size 0 = .error x → Raises (.watch f) s x))

/-- AMO, CAS and AMOM leave one atomic outstanding, with their operands read at issue; a misaligned address faults, and so does
an AMOM whose target or channel cannot be notified (R185, R205-R208). -/
def Obligations.AtomicsBecomeOutstanding : Prop :=
  ∀ (f : Fields) (s : State), Guarded f s → MemoryReady s →
    let opnd : W128 := BitVec.ofNat 128 ((rdT s false f f.typ f.opb).toNat % 2 ^ (8 * f.typ.size))
    (∀ ps, atomicAccess s s.here (baseAddr s f) f.typ.size = .ok ps →
      LeavesOp (.amo f) f s fun o => o.addr = baseAddr s f ∧ o.parts = ps ∧ o.b = opnd ∧ o.dst = regOf f.dst) ∧
    ((f.typ = .q → s.here.waits (pairRegs f.dst true ++ pairRegs f.opb true ++ pairRegs f.opc true) = false) →
      ∀ ps, atomicAccess s s.here (baseAddr3 s f) f.typ.size = .ok ps →
        LeavesOp (.cas f) f s fun o => o.addr = baseAddr3 s f ∧ o.parts = ps ∧ o.b = casValue s f f.opb ∧
          o.c = casValue s f f.opc ∧ o.dst = pairRegs f.dst (f.typ == .q)) ∧
    (let ea := (rd s f f.opa).toNat
     f.imm.toNat / 16 % 16 = 0 → f.imm.toNat % 16 ≠ 15 →
     (f.imm.toNat / 65536 < (ncWord s).toNat ∨ 0xFFFD < f.imm.toNat / 65536) →
      ∀ ps, atomicAccess s s.here ea f.typ.size = .ok ps →
        LeavesOp (.amom f) f s fun o => o.addr = ea ∧ o.parts = ps ∧ o.b = opnd ∧ o.dst = regOf f.dst) ∧
    -- a misaligned one faults
    (baseAddr s f % f.typ.size ≠ 0 → Raises (.amo f) s (addrFault (baseAddr s f) .atomic f.typ.size)) ∧
    ((f.typ = .q → s.here.waits (pairRegs f.dst true ++ pairRegs f.opb true ++ pairRegs f.opc true) = false) →
      baseAddr3 s f % f.typ.size ≠ 0 → Raises (.cas f) s (addrFault (baseAddr3 s f) .atomic f.typ.size)) ∧
    (let ea := (rd s f f.opa).toNat
     f.imm.toNat / 16 % 16 = 0 → f.imm.toNat % 16 ≠ 15 →
     (f.imm.toNat / 65536 < (ncWord s).toNat ∨ 0xFFFD < f.imm.toNat / 65536) →
      ea % f.typ.size ≠ 0 → Raises (.amom f) s (addrFault ea .atomic f.typ.size)) ∧
    -- so does an AMOM that names no core of the context, or channel 15
    (f.imm.toNat / 16 % 16 = 0 →
      f.imm.toNat % 16 = 15 ∨ ((ncWord s).toNat ≤ f.imm.toNat / 65536 ∧ f.imm.toNat / 65536 ≤ 0xFFFD) →
      Raises (.amom f) s { cause := 12, s5 := 0, s6 := BitVec.ofNat 64 (f.imm.toNat / 65536), s7 := f.imm.setWidth 64 })

/-- FENCE and NTDRAIN become outstanding; PREF, op 0x1CE, untyped, with mod 0 or 1, is a hint: it changes
no value, faults never and leaves nothing outstanding; DISCARD leaves one store for every whole 128-byte line of its range, in its
eight granules, and acts on no byte outside those lines; STMAP maps a block of an allowed page to a frame that nothing uses, and STSYNC
unmaps one frame, all frames, or writes one back, which stays mapped (R42, R187, R209-R213, R217, R218). -/
def Obligations.FencesHintsAndFrames : Prop :=
  ∀ (f : Fields) (s : State), Guarded f s → MemoryReady s →
    LeavesOp (.fence f) f s (fun _ => True) ∧ LeavesOp (.ntdrain f) f s (fun _ => True) ∧ Completes (.pref f) f s s ∧
    (Instr.pref f).opcode = 0x1CE ∧ ((Instr.pref f).wf = true → f.typ = .untyped ∧ f.mod.val ≤ 1) ∧
    (let a := baseAddr s f
     let n := (rd s f f.opb).toNat
     storeQueueFull s.here = false → ∀ ps, checkParts s s.here .store 128 (linesIn a n) = .ok ps →
       ∃ u l, Completes (.discard f) f s u ∧ u.here.ops = s.here.ops ++ l ∧ (∀ hi, u.regs s.cur hi = s.regs s.cur hi) ∧
         (∀ o ∈ l, o.ins = .discard f ∧ o.st = .pending ∧ o.parts.length = 8 ∧ ∀ q ∈ o.parts, q.len = 16) ∧
         ∀ b, (∃ o ∈ l, ∃ q ∈ o.parts, q.va ≤ b ∧ b < q.va + q.len) ↔ a ≤ b / 128 * 128 ∧ b / 128 * 128 + 128 ≤ a + n) ∧
    (linesIn (baseAddr s f) (rd s f f.opb).toNat = [] → Completes (.discard f) f s s) ∧
    (let a := (rd s f f.opa).toNat
     let n := (rd s f f.opb).toNat
     ∀ pa x, n < 256 → a % 256 = 0 → a < 0x800000000000 → translate s s.here a = some (pa, x) →
       regionCheck s s.here a .stmap (akWord .load 256) = none → (∀ g ∈ s.here.frames, g.n ≠ n → g.pa ≠ pa) →
       frameBusy s s.here n = false →
       ∃ u g, Completes (.stmap f) f s u ∧ g ∈ u.here.frames ∧ g.n = n ∧ g.va = a ∧ g.pa = pa ∧ g.filled = false ∧ g.dirty = false) ∧
    (let n := (rd s f f.opa).toNat
     (n < 256 → frameStores s.here n = false →
       (f.mod = 0 → ∃ u, Completes (.stsync f) f s u ∧ ∀ g ∈ u.here.frames, g.n ≠ n) ∧
       (f.mod = 2 → ∃ u, Completes (.stsync f) f s u ∧ (∀ g ∈ u.here.frames, g.n = n → g.dirty = false) ∧
         u.here.frames.map (fun g => (g.n, g.va, g.pa)) = s.here.frames.map fun g => (g.n, g.va, g.pa))) ∧
     (f.mod = 1 → (∀ g ∈ s.here.frames, frameStores s.here g.n = false) → ∃ u, Completes (.stsync f) f s u ∧ u.here.frames = []))

/-- CAPGIVE, SEAL, CLAIM and RMODE on a region that the core may act on: an operation that the region's keeper answers is
outstanding, with the region's base as its address, where the core may send one more request (R390); without the right to it they raise a capability fault with the reason,
and the reasons are those of R179's table (R179, R182, R214-R216). CLAIM and RMODE are no releases: in free mode they go to the keeper at once, unless an older request of
the core on the region has not gone. The access kind 0 and the order of reasons are log 24 and log 31. -/
def Obligations.CapabilityInstructionsAskTheKeeper : Prop :=
  ∀ (f : Fields) (s : State) (r : Region), Guarded f s → s.here.fenced = false →
    let a := (rd s f f.opa).toNat
    let d := (rd s f f.opb).toNat
    capRegion s s.here a = .ok r →
    let v := capView s.here r
    let stage (i : Instr) : OpSt :=
      if s.det s.here.cx.ctx || s.here.capBefore { newOp s i with addr := r.base } then .pending else .left
    let mine : Prop := v.mode = .held ∧ v.holder = s.here.cx.lc ∧ givenMark s.here v.base = none
    let auth : Prop := hasAuthority s s.here.cx.ctx s.here.cx.lc = true
    let room : Prop := netCount s s.here < s.here.netWindow
    giveReason s s.here v d = (if mine then (if d < s.nc s.here.cx.ctx then none else some 7) else some 4) ∧
    sealReason s s.here v = (if v.mode = .held then (if mine then none else some 4) else if v.mode = .sealed then some 4
      else if auth then none else some 6) ∧
    rmodeReason s s.here v = (if v.mode = .held ∧ ¬ mine then some 4 else if auth then none else some 6) ∧
    (room → giveReason s s.here v d = none → LeavesOp (.capgive f) f s fun o => o.addr = r.base ∧ o.b = (rd s f f.opb).setWidth 128) ∧
    (room → sealReason s s.here v = none → LeavesOp (.sealCap f) f s fun o => o.addr = r.base) ∧
    (room → v.mode = .sealed → LeavesOpAs (stage (.claim f)) (.claim f) f s fun o => o.addr = r.base ∧ o.dst = regOf f.dst) ∧
    (room → rmodeReason s s.here v = none → LeavesOpAs (stage (.rmode f)) (.rmode f) f s fun o => o.addr = r.base) ∧
    (∀ n, giveReason s s.here v d = some n → Raises (.capgive f) s (capFault a 0 n v.entry)) ∧
    (∀ n, sealReason s s.here v = some n → Raises (.sealCap f) s (capFault a 0 n v.entry)) ∧
    (∀ n, rmodeReason s s.here v = some n → Raises (.rmode f) s (capFault a 0 n v.entry)) ∧
    (v.mode ≠ .sealed → Raises (.claim f) s (capFault a 0 5 v.entry))

/-! Vectors, shuttle, weft and gear: the commands that instructions leave in the engines' queues (R9, R39, R234). -/

/-- Vector arithmetic issues where its sources carry its type and some element is active: the command waits in the vector queue,
and d takes the result's tag at issue, as lv does unless the result comes late (R66, R91, R92, R233, R234, R237). A source of another
tag raises a format fault; a full queue stalls (R9, R153). Tags change at issue (log 26). -/
def Obligations.VectorArithmeticQueues : Prop :=
  ∀ (f : Fields) (s : State), Issues f s →
    let some_ (n : Nat) : Prop := anyActive n (guardMask s.bank f) = true
    let is1 (t : Typ) : Prop := Carries s f.opa t
    let is2 : Prop := Carries s f.opa f.typ ∧ Carries s f.opb f.typ
    let tagged (t : Typ) (long : Bool) : Regs := (retag s.bank f.dst long (BitVec.ofNat 4 t.code)).regs
    let goes (l : List Instr) (r : Regs) : Prop := ∀ i ∈ l, Queues i f s .vec r fun _ => True
    (HasRoom s .vec → some_ f.typ.size →
      (is2 → goes [.vadd f, .vsub f, .vmul f, .vmin f, .vmax f, .vand f, .vor f, .vxor f, .vshl f, .vshr f, .vsar f]
          (tagged f.typ false) ∧
        goes [.vdiv f] (tagged f.typ true) ∧ goes [.vcmp f] s.bank.regs ∧
        (Carries s f.opc f.typ → goes [.vfma f] (tagged f.typ false))) ∧
      (is1 f.typ → goes [.vabs f, .vneg f] (tagged f.typ false) ∧ goes [.vsqrt f, .vscan f, .vsfu f] (tagged f.typ true) ∧
        goes [.vred f] s.bank.regs) ∧
      goes [.vrtag f] (tagged f.typ false) ∧
      Queues (.vsplat f) f s .vec (tagged f.typ false) (fun k => k.a = (rdT s false f f.typ f.opa).setWidth 128) ∧
      Queues (.viota f) f s .vec (tagged f.typ false) (fun k => k.a.setWidth 64 = rd s f f.opa ∧ k.b.setWidth 64 = rd s f f.opb)) ∧
    (HasRoom s .vec → some_ 1 → (is1 .s8 → goes [.pack5t f] (tagged .t5 false)) ∧ (is1 .t5 → goes [.unpk5t f] (tagged .s8 false))) ∧
    (some_ f.typ.size → is2 → ¬ HasRoom s .vec → ∀ i ∈ [Instr.vadd f, .vsub f, .vmul f, .vcmp f], exec i s = .next s) ∧
    (∀ x, some_ f.typ.size → tagOf s.bank f.opa = some x → x.toNat ≠ f.typ.code →
      ∀ i ∈ [Instr.vadd f, .vsub f, .vmul f, .vabs f, .vred f, .vsfu f],
        Raises i s { cause := 6, s5 := 0, s6 := BitVec.ofNat 64 (f.opa.code + 1024), s7 := BitVec.ofNat 64 (x.toNat + f.typ.code * 16) })

/-- Moves, selections, permutes and conversions take their element type from the tag x of their source, which d takes with lv; VCVT
and VQNT give d their own, also from a source without a tag: zv, an immediate or a constant (R92, R230, R237, R243-R246, R254-R256;
VQNT's format for it is log 71). VCVT between integers does not round, so a rounding mode is illegal there; where it converts to or from .tm24 is
log 77 (R89, R134, R237). VMOV `.row` copies a tile's row under the tile's tag; a tile whose
GMM is queued cannot be read (R244, R315). -/
def Obligations.VectorDataCommandsQueue : Prop :=
  (∀ (f : Fields) (s : State), Issues f s → HasRoom s .vec → f.mod ≠ 0 →
    let t := tileTag s.here (tileNo f.opa)
    t ≠ 0 → anyActive (typOfTag t).size (guardMask s.bank f) = true →
    ((∀ k ∈ s.here.gear.cmds, tileNo f.opa ∉ k.gmmTiles) →
      Queues (.vmov f) f s .vec (retag s.bank f.dst false t).regs fun k => k.ta = t) ∧
    ((∃ k ∈ s.here.gear.cmds, tileNo f.opa ∈ k.gmmTiles) → ∃ x, x.cause = 16 ∧ Raises (.vmov f) s x)) ∧
  (∀ (f : Fields) (s : State), Issues f s → HasRoom s .vec → tagOf s.bank f.opa = none →
    anyActive f.typ.size (guardMask s.bank f) = true →
    let own (t : Typ) : Regs := (retag s.bank f.dst false (BitVec.ofNat 4 t.code)).regs
    let d : Typ := if f.typ = .s16 then .s16 else .s8
    (f.mod = 0 → f.rnd = .rne ∨ f.typ.isFp = true → Queues (.vcvt f) f s .vec (own f.typ) fun _ => True) ∧
    (f.mod.val < 4 / d.size → Queues (.vqnt f) f s .vec (own d) fun k => k.b.setWidth 64 = rdT s false f .f32 f.opb)) ∧
  ∀ (f : Fields) (s : State) (x : BitVec 4) (t : Typ), Issues f s → HasRoom s .vec →
    tagOf s.bank f.opa = some x → Typ.ofCode x.toNat = some t → t ≠ .untyped →
    let m := guardMask s.bank f
    let tagged (y : BitVec 4) : Regs := (retag s.bank f.dst false y).regs
    let own (t : Typ) : Regs := tagged (BitVec.ofNat 4 t.code)
    let index : Prop := ∀ y, tagOf s.bank f.opb = some y → ∃ u, Typ.ofCode y.toNat = some u ∧ u.isInt = true ∧ u.size = t.size
    let ratio (u : Typ) : Nat := if t.size ≤ u.size then u.size / t.size else t.size / u.size
    (anyActive t.size m = true →
      (f.mod = 0 → Queues (.vmov f) f s .vec (tagged x) fun k => k.ta = x) ∧
      (Carries s f.opb t → Queues (.vsel f) f s .vec (tagged x) fun k => k.cp = rdP s f.opc) ∧
      (index → Queues (.vperm f) f s .vec (tagged x) fun k => k.ta = x) ∧
      Queues (.vcmpr f) f s .vec (tagged x) (fun k => k.ta = x) ∧ Queues (.vexpd f) f s .vec (tagged x) (fun k => k.ta = x)) ∧
    (guard0 s.bank f = true →
      Queues (.vget f) f s .vec s.bank.regs (fun k => k.b.setWidth 64 = rd s f f.opb) ∧
      Queues (.vput f) f s .vec (tagged x) (fun k => k.b.setWidth 64 = rd s f f.opb)) ∧
    (anyActive f.typ.size m = true → t ≠ .t5 → t ≠ .q → f.mod.val < ratio f.typ →
      (f.rnd = .rne ∨ t.isFp = true ∨ f.typ.isFp = true → Queues (.vcvt f) f s .vec (own f.typ) fun k => k.ta = x) ∧
      (f.rnd ≠ .rne → t.isFp = false → f.typ.isFp = false → Raises (.vcvt f) s (illegalInfo (encode (.vcvt f))))) ∧
    (anyActive f.typ.size m = true → (t = .f32 ∨ t = .f16 ∨ t = .bf16) →
      let d : Typ := if f.typ = .s16 then .s16 else .s8
      f.mod.val < ratio d → Queues (.vqnt f) f s .vec (own d) fun k => k.ta = x)

/-- One byte of a buffer; the bytes of memory that parts of an access have written from a buffer, every other byte as it was. -/
def bufByte (l : List PByte) (n : Nat) : Byte := (l.getD n { b := 0, p := false }).b
def WrotePartsOf (s t : State) (out : List PByte) (qs : List Part) : Prop :=
  ∀ a, readCell t.mem a = match qs.find? fun q => q.key ≤ a && a < q.key + q.len with
    | some q => bufByte out (q.off + (a - q.key))
    | none => readCell s.mem a

/-- Parts that cover a run of bytes from an address, and from a place of a buffer, and nothing else; addresses modulo 2^64. -/
def Covers (ps : List Part) (a off len : Nat) : Prop :=
  (∀ q ∈ ps, off ≤ q.off ∧ q.off + q.len ≤ off + len ∧ q.va % 2 ^ 64 = (a + (q.off - off)) % 2 ^ 64) ∧
  ∀ j, off ≤ j → j < off + len → ∃ q ∈ ps, q.off ≤ j ∧ j < q.off + q.len

/-- A vector store starts when every part has passed its checks. Active element i goes, from its place of the data vector, to the address +
i × its size, + i × the stride, or + the index's element i shifted left; far parts of a `.nt` store enter the non-temporal pool with their
bytes. A write then stores the bytes of its parts and changes no other byte (R184, R193, R198-R200). -/
def VectorStores : Prop :=
  ∀ (s : State) (p : Nat) (f : Fields),
    let c := s.core p
    let size := f.typ.size
    (∀ k rest, c.vec.run = none → c.vec.waiting = k :: rest → mayStartCmd c k = true → k.ins ∈ [Instr.stv f, .stvs f, .stvx f] →
      let b := c.bankOf k.bank
      b.vown = k.task →
      let u := s.setCore (c.setEng .vec { waiting := rest, run := none })
      let ix : Typ := if tagOf b f.opb = none then Typ.intOfSize size else typOfTag k.tb
      let place (i : Nat) : Nat := ((k.addr + (if k.ins = Instr.stvs f then i * (k.a.setWidth 64).toInt
        else if k.ins = Instr.stvx f then intVal ix (elemAt (vsrc b false f ix f.opb) ix.size i) * 2 ^ f.mod.val else i * size) : Int) % 2 ^ 64).toNat
      let far (q : Part) : Bool := f.mod = 1 && k.ins != .stvx f && !q.isLocal
      ∀ ps, checkParts u ((u.core p).asOf k.id) .engWrite size (vecParts b k f) = .ok ps →
        (∀ i < f.typ.elems, active k.mask size i = true → Covers (ps.filter fun q => q.off / size = i) (place i) (i * size) size) ∧
        (∀ q ∈ ps, q.off / size < f.typ.elems ∧ active k.mask size (q.off / size) = true) ∧
        ∃ t x, exec (.engineCommandStart p .vec) s = .next t ∧ t.mem = s.mem ∧ (t.core p).vec.run = some x ∧ x.cmd = k ∧
          x.wr = ps.filter (fun q => !far q) ∧
          (∀ j < 128, (bufByte x.out j).toNat = elemAt (vsrc b false f f.typ f.dst) 1 j) ∧
          (c.op? k.id = none → ps.filter far ≠ [] → ∃ o, (t.core p).op? k.id = some o ∧ o.st = .pending ∧
            o.buf = (ps.filter far).flatMap (fun q => sub x.out q.off q.len) ∧
            o.parts.map (fun q => (q.key, q.len)) = (ps.filter far).map fun q => (q.key, q.len))) ∧
    ∀ x n q ks, c.vec.run = some x → x.phase = .running → x.cmd.ins ∈ [Instr.stv f, .stvs f, .stvx f] → x.wr[n]? = some q → q.done = false →
      writeParts s c .vec x n q = some ks → toSend s c x.wr ks = false → s.det c.cx.ctx = false → s.memOk = true →
      let qs := ks.filterMap fun j => x.wr[j]?
      (∀ r ∈ qs, hostGone s r.key = false ∧ r.off + r.len ≤ x.out.length) → qs.Pairwise (fun r r' => overlap r r' = false) →
      ∃ t, exec (.engineAccessPerform p .vec (.wr n)) s = .next t ∧ WrotePartsOf s t x.out qs

/-- Vector loads and stores issue with the base, stride or effective address that they name; a load's d takes its tag at once, lv
keeps its own; a store's data must carry the store's type, an index integers of the element's size. Stores write the active elements' bytes at the addresses
that they name, and nothing else (R66, R184, R193, R198-R200). -/
def Obligations.VectorMemoryCommandsQueue : Prop :=
  VectorStores ∧ ∀ (f : Fields) (s : State), Issues f s → HasRoom s .vec →
    anyActive f.typ.size (guardMask s.bank f) = true →
    let loaded : Regs := (retag s.bank f.dst true (BitVec.ofNat 4 f.typ.code)).regs
    let index : Prop := ∀ y, tagOf s.bank f.opb = some y → ∃ u, Typ.ofCode y.toNat = some u ∧ u.isInt = true ∧ u.size = f.typ.size
    let ea : Nat := (rd s f f.opa + rd s f f.opb + f.imm.signExtend 64).toNat
    let base : Nat := (rd s f f.opa + f.imm.signExtend 64).toNat
    let stride (k : Cmd) : Prop := k.addr = base ∧ k.a.setWidth 64 = rd s f f.opb
    Queues (.ldv f) f s .vec loaded (fun k => k.addr = ea) ∧ Queues (.ldvs f) f s .vec loaded stride ∧
    (index → Queues (.ldvg f) f s .vec loaded fun k => k.addr = base) ∧
    (Carries s f.dst f.typ →
      Queues (.stv f) f s .vec s.bank.regs (fun k => k.addr = ea) ∧ Queues (.stvs f) f s .vec s.bank.regs stride ∧
      (index → Queues (.stvx f) f s .vec s.bank.regs fun k => k.addr = base))

/-- VLEN, op 0x258 of typ codes 1 to 14, gives the number of elements, 128, 64, 32 or 16, VWHILE the predicate of the elements i for which a + i is below b, VPCNT the number of true
elements of a predicate and VPFIRST the first of them, or their number where none is; ls stays (R66, R123, R248-R250). -/
def Obligations.VectorCountsWriteRegisters : Prop :=
  ∀ (f : Fields) (s : State), Guarded f s →
    let wrote (x : Nat) : State := s.setBank (s.bank.wd f.dst (BitVec.ofNat 64 x))
    let n := 128 / 2 ^ f.mod.val
    let on (k : Nat) : Bool := (rdP s f.opa).getLsbD (k * 2 ^ f.mod.val)
    let a := rd s f f.opa
    let b := rd s f f.opb
    Completes (.vlen f) f s (wrote f.typ.elems) ∧ (Instr.vlen f).opcode = 0x258 ∧
    ((Instr.vlen f).wf = true → 1 ≤ f.typ.code ∧ f.typ.code ≤ 14 ∧ f.typ.elems ∈ [128, 64, 32, 16]) ∧
    (∃ p, Completes (.vwhile f) f s (wpred s f.dst p) ∧ ∀ i < f.typ.elems, ∀ j < f.typ.size,
      p.getLsbD (i * f.typ.size + j) = match f.mod.val with
        | 0 => decide (a.toInt + i < b.toInt)
        | 1 => decide (a.toInt + i ≤ b.toInt)
        | 2 => decide (a.toNat + i < b.toNat)
        | _ => decide (a.toNat + i ≤ b.toNat)) ∧
    Completes (.vpcnt f) f s (wrote ((List.range n).countP on)) ∧
    (∃ k ≤ n, Completes (.vpfirst f) f s (wrote k) ∧ (∀ j < k, on j = false) ∧ (k < n → on k = true))

/-- A vector command of fields f is about to end: it executes, its accesses have performed, the bank's registers are its task's (log 13),
and no event of it traps. -/
def AtVectorEnd (s : State) (p : Nat) (x : Exec) (f : Fields) : Prop :=
  let b := (s.core p).bankOf x.cmd.bank
  (s.core p).vec.run = some x ∧ x.cmd.ins.fields? = some f ∧ x.phase = .running ∧ x.partsDone = true ∧
  b.vown = x.cmd.task ∧ b.task.serial = x.cmd.task ∧ b.fenable = 0

/-- It ends, and leaves its bank's registers as those of b, and its events in sys.fflags if its task still runs (R99, R160). -/
def VectorEnds (s : State) (p : Nat) (x : Exec) (b : Bank) (ev : Events) : Prop :=
  ∃ t, exec (.engineCommandFinish p .vec) s = .next t ∧ (t.core p).vec.run = none ∧
    t.regs p x.cmd.bank = { b.regs with fflags :=
      if ((s.core p).bankOf x.cmd.bank).task.live then (s.regs p x.cmd.bank).fflags ||| ev else (s.regs p x.cmd.bank).fflags }

/-- What an element-wise vector command writes when it ends: each active element the result of its sources' elements, wrapped or clamped
for integers, the operation's for FP (R132), by residues for .tm24; each inactive one zero; the events of the active ones accrue; the
destination is v, o or lv, and lv takes the result too unless it comes late. A load writes the bytes it has read, poisoned ones as zero
(R66, R89, R198, R229, R233, R240, R241, R258, R439). -/
def Obligations.VectorElementResults : Prop :=
  ∀ (s : State) (p : Nat) (x : Exec) (f : Fields), AtVectorEnd s p x f →
    let b := (s.core p).bankOf x.cmd.bank
    let t := f.typ
    let n := 8 * t.size
    let on (k : Nat) : Bool := x.cmd.mask.getLsbD (k * t.size)
    let el (three : Bool) (o : Operand) (k : Nat) : Nat := elemAt (vsrc b three f t o) t.size k
    let a := el false f.opa
    let c := el false f.opb
    let givesAs (i : Instr) (long : Bool) (g : Nat → FRes) : Prop := x.cmd.ins = i →
      ∃ y, VectorEnds s p x (wvec b f.dst long y)
          ((List.range t.elems).foldl (fun e k => if on k then e ||| (g k).2 else e) 0) ∧
        ∀ k < t.elems, elemAt y t.size k = if on k then (g k).1 % 2 ^ n else 0
    let gives (i : Instr) (g : Nat → Nat) : Prop := givesAs i false fun k => (g k, 0)
    let int (i : Instr) (g : Int → Int → Int) : Prop := gives i fun k => intFit t f.sat (g (intVal t (a k)) (intVal t (c k)))
    let fp (i : Instr) (long : Bool) (g : Nat → Nat → FRes) : Prop := givesAs i long fun k => g (a k) (c k)
    (t.isInt = true →
      int (.vadd f) (· + ·) ∧ int (.vsub f) (· - ·) ∧ int (.vmul f) (· * ·) ∧
      int (.vabs f) (fun u _ => u.natAbs) ∧ int (.vneg f) (fun u _ => -u) ∧
      gives (.vmin f) (fun k => if intVal t (a k) ≤ intVal t (c k) then a k else c k) ∧
      gives (.vmax f) (fun k => if intVal t (a k) ≤ intVal t (c k) then c k else a k) ∧
      gives (.vand f) (fun k => a k &&& c k) ∧ gives (.vor f) (fun k => a k ||| c k) ∧ gives (.vxor f) (fun k => a k ^^^ c k) ∧
      gives (.vshl f) (fun k => intFit t f.sat (intVal t (a k) * 2 ^ (c k % n))) ∧ gives (.vshr f) (fun k => a k / 2 ^ (c k % n)) ∧
      gives (.vsar f) fun k => (((BitVec.ofNat n (a k)).toInt / 2 ^ (c k % n)) % 2 ^ n).toNat) ∧
    (t.isFp = true →
      let m := fmtOf t
      fp (.vadd f) false (fadd m f.rnd) ∧ fp (.vsub f) false (fsub m f.rnd) ∧ fp (.vmul f) false (fmul m f.rnd) ∧
      fp (.vdiv f) true (fdiv m f.rnd) ∧ fp (.vmin f) false (fminmax m false) ∧ fp (.vmax f) false (fminmax m true) ∧
      fp (.vsqrt f) true (fun u _ => fsqrt m f.rnd u) ∧ fp (.vsfu f) true (fun u _ => sfu m f.rnd f.mod.val u) ∧
      gives (.vabs f) (fun k => a k % 2 ^ (n - 1)) ∧ gives (.vneg f) (fun k => (a k + 2 ^ (n - 1)) % 2 ^ n) ∧
      givesAs (.vfma f) false fun k => ffma m f.rnd (el true f.opa k) (el true f.opb k) (el true f.opc k)) ∧
    (t = .tm24 →
      let residues (g : Nat → Nat → Nat → Nat) (u v : Nat) : Nat :=
        g 256 (u % 256) (v % 256) + 256 * g 255 (u / 256 % 256) (v / 256 % 256) + 65536 * g 253 (u / 65536 % 256) (v / 65536 % 256)
      gives (.vadd f) (fun k => residues (fun m u v => (u + v) % m) (a k) (c k)) ∧
      gives (.vsub f) fun k => residues (fun m u v => (u + m - v % m) % m) (a k) (c k)) ∧
    (x.cmd.ins ∈ [Instr.ldv f, .ldvs f, .ldvg f] → x.got.length = 128 →
      ∃ y, VectorEnds s p x (wvec b f.dst true y) 0 ∧
        ∀ k (h : k < x.got.length), elemAt y 1 k = if x.got[k].p then 0 else x.got[k].b.toNat)

/-- An element as it is moved: a .tm24 one with its residues reduced by 256, 255 and 253 and its fourth byte zero (R86). -/
def movedElem (t : Typ) (x : Nat) : Nat :=
  if t = .tm24 then x % 256 + x / 256 % 256 % 255 * 256 + x / 65536 % 256 % 253 * 65536 else x

/-- What the vector commands write that compare, select, move, count up, permute or touch one element: conditions into every bit of an
active element of a predicate; copies of elements, .tm24 ones as canonical containers, chosen by a mask, an index, or the guard as a
selection; one element into or from a scalar (R86, R231, R233, R242-R247, R254). -/
def Obligations.VectorSelectionResults : Prop :=
  ∀ (s : State) (p : Nat) (x : Exec) (f : Fields), AtVectorEnd s p x f →
    let b := (s.core p).bankOf x.cmd.bank
    let t := typOfTag x.cmd.ta
    let n := 8 * t.size
    let on (k : Nat) : Bool := x.cmd.mask.getLsbD (k * t.size)
    let a (k : Nat) : Nat := movedElem t (elemAt (vsrc b false f t f.opa) t.size k)
    let c (k : Nat) : Nat := movedElem t (elemAt (vsrc b false f t f.opb) t.size k)
    let before (k : Nat) : Nat := (List.range k).countP on
    let puts (i : Instr) (r : VBits → Prop) : Prop := x.cmd.ins = i → ∃ y, VectorEnds s p x (wvec b f.dst false y) 0 ∧ r y
    let gives (i : Instr) (g : Nat → Nat) : Prop :=
      puts i fun y => ∀ k < t.elems, elemAt y t.size k = if on k then g k else 0
    gives (.vsel f) (fun k => if x.cmd.cp.getLsbD (k * t.size) then a k else c k) ∧
    (f.mod = 0 → gives (.vmov f) a) ∧
    (f.mod ≠ 0 → gives (.vmov f) fun k => elemAt (vget (tileOf (s.core p).cx (tileNo f.opa)).rows (f.imm.toNat % 32) 0) t.size k) ∧
    gives (.vperm f) (fun k =>
      let j := elemAt (vsrc b false f (Typ.intOfSize t.size) f.opb) t.size k
      if j < t.elems then a j else 0) ∧
    gives (.vexpd f) (fun k => a (before k)) ∧
    puts (.vcmpr f) (fun y => (∀ k < t.elems, on k = true → elemAt y t.size (before k) = a k) ∧
      ∀ k < t.elems, before t.elems ≤ k → elemAt y t.size k = 0) ∧
    puts (.vput f) (fun y => ∀ k < t.elems, elemAt y t.size k =
      if k = f.imm.toNat then
        (if t = .q then ((x.cmd.b.setWidth 64).signExtend 128).toNat else movedElem t (x.cmd.b.toNat % 2 ^ 64) % 2 ^ n)
      else a k) ∧
    (x.cmd.ins = .vget f → VectorEnds s p x (b.wd f.dst
      (if t.elems ≤ x.cmd.b.toNat then 0 else BitVec.ofInt 64 (intVal t (a x.cmd.b.toNat)))) 0) ∧
    -- with the type of the instruction
    let size := f.typ.size
    let onT (k : Nat) : Bool := x.cmd.mask.getLsbD (k * size)
    let u (o : Operand) (k : Nat) : Nat := elemAt (vsrc b false f f.typ o) size k
    let fills (i : Instr) (g : Nat → Nat) : Prop :=
      puts i fun y => ∀ k < f.typ.elems, elemAt y size k = if onT k then g k % 2 ^ (8 * size) else 0
    fills (.vsplat f) (fun _ => movedElem f.typ x.cmd.a.toNat) ∧
    fills (.viota f) (fun k =>
      (((x.cmd.a.setWidth 64).toInt + (k : Int) * (x.cmd.b.setWidth 64).toInt) % 2 ^ (8 * size)).toNat) ∧
    fills (.vrtag f) (u f.opa) ∧
    ∀ m : Fin 16, f.dst = .p m → x.cmd.ins = .vcmp f →
      let tests (g : Nat → Bool × Events) : Prop := ∃ q,
        VectorEnds s p x (b.wp m q) ((List.range f.typ.elems).foldl (fun e k => if onT k then e ||| (g k).2 else e) 0) ∧
        ∀ k < f.typ.elems, ∀ j < size, q.getLsbD (k * size + j) = (onT k && (g k).1)
      (f.typ.isFp = true → tests fun k => fcmp (fmtOf f.typ) f.mod.val (u f.opa k) (u f.opb k)) ∧
      (f.typ.isInt = true → f.mod.val < 6 → tests fun k =>
        let v := intVal f.typ (u f.opa k)
        let w := intVal f.typ (u f.opb k)
        (match f.mod.val with
          | 0 => v == w
          | 1 => v != w
          | 2 => v < w
          | 3 => w ≤ v
          | 4 => v ≤ w
          | _ => w < v, 0))

/-- Lane j after n levels of a tree in which neighbours combine, with the events of all its steps (R100). -/
def treeLane (op : Nat → Nat → FRes) (lane : Nat → FRes) : Nat → Nat → FRes
  | 0, j => lane j
  | n + 1, j =>
    let x := treeLane op lane n (2 * j)
    let y := treeLane op lane n (2 * j + 1)
    let z := op x.1 y.1
    (z.1, x.2 ||| y.2 ||| z.2)

/-- What reductions, scans and the conversions write: VRED the tree over 256 lanes of sums, minima or maxima, each active element in its
lane with the identity, for integers without sat the wrapping sum, or a least or greatest active element; VSCAN the chain of them in
ascending order, with or without its own element; VCVT and VQNT each converted element at the place that the part names, the destination's other elements kept under its own
tag, .tm24 ones canonical, else zero; PACK5T and UNPK5T trits at five to a byte (R86, R90, R97, R100, R134, R251, R252, R255-R257, R259,
R260). -/
def Obligations.VectorReductionAndConversionResults : Prop :=
  (∀ (t u : Typ) (r : Rnd) (sat : Bool) (y : Nat), t.isInt = true → u.isInt = true → y < 2 ^ (8 * t.size) →
    convertV t u r sat y = (intFit u sat (intVal t y), 0)) ∧
  ∀ (s : State) (p : Nat) (x : Exec) (f : Fields), AtVectorEnd s p x f →
    let b := (s.core p).bankOf x.cmd.bank
    let t := f.typ
    let n := 8 * t.size
    let on (size k : Nat) : Bool := x.cmd.mask.getLsbD (k * size)
    let a (k : Nat) : Nat := elemAt (vsrc b false f t f.opa) t.size k
    let sum (m : Nat) : Nat := (List.range m).foldl (fun z k => if on t.size k then z + a k else z) 0
    (t.isInt = true →
      (x.cmd.ins = .vred f → ∃ r < 2 ^ n, VectorEnds s p x (b.wd f.dst (BitVec.ofInt 64 (intVal t r))) 0 ∧
        (f.mod = 0 → f.sat = false → r = sum t.elems % 2 ^ n) ∧
        (f.mod = 1 → (∀ k < t.elems, on t.size k = true → intVal t r ≤ intVal t (a k)) ∧
          (intVal t r = intHi t ∨ ∃ k < t.elems, on t.size k = true ∧ r = a k)) ∧
        (f.mod = 2 → (∀ k < t.elems, on t.size k = true → intVal t (a k) ≤ intVal t r) ∧
          (intVal t r = intLo t ∨ ∃ k < t.elems, on t.size k = true ∧ r = a k))) ∧
      (x.cmd.ins = .vscan f → f.mod = 0 ∨ f.mod = 4 → f.sat = false → ∃ y, VectorEnds s p x (wvec b f.dst true y) 0 ∧
        ∀ k < t.elems, elemAt y t.size k = if on t.size k then sum (if f.mod = 0 then k + 1 else k) % 2 ^ n else 0)) ∧
    (t.isInt = true ∨ t.isFp = true →
      let m := fmtOf t
      let op (which u v : Nat) : FRes :=
        if t.isFp then (if which = 0 then fadd m f.rnd u v else fminmax m (which = 2) u v)
        else if which = 0 then (intFit t f.sat (intVal t u + intVal t v), 0)
        else (if (intVal t u ≤ intVal t v) = (which = 1) then u else v, 0)
      let ident (which : Nat) : Nat :=
        if t.isFp then (if which = 0 then 2 ^ (n - 1) else infBits m + if which = 1 then 0 else 2 ^ (n - 1))
        else if which = 0 then 0 else ((if which = 1 then intHi t else intLo t) % 2 ^ n).toNat
      (x.cmd.ins = .vred f → f.mod.val ≤ 2 →
        let first := ident f.mod.val
        let lane (j : Nat) : FRes := if j < t.elems ∧ on t.size j then op f.mod.val first (a j) else (first, 0)
        let r := treeLane (op f.mod.val) lane 8 0
        VectorEnds s p x (b.wd f.dst (if t.isFp then BitVec.ofNat 64 r.1 else BitVec.ofInt 64 (intVal t r.1))) r.2) ∧
      (x.cmd.ins = .vscan f → f.mod.val % 4 ≤ 2 →
        let which := f.mod.val % 4
        let chain (k : Nat) : FRes := (List.range k).foldl (fun z j =>
          if on t.size j then let y := op which z.1 (a j); (y.1, z.2 ||| y.2) else z) (ident which, 0)
        ∃ y, VectorEnds s p x (wvec b f.dst true y) (chain t.elems).2 ∧
          ∀ k < t.elems, elemAt y t.size k = if on t.size k then (chain (if f.mod.val < 4 then k + 1 else k)).1 % 2 ^ n else 0)) ∧
    (let converts (src dst : Typ) (g : Nat → FRes) : Prop :=
       let h := f.mod.val
       let place (j : Nat) : Option Nat :=
         if dst.elems < src.elems then some (h * dst.elems + j)
         else if h * src.elems ≤ j ∧ j < (h + 1) * src.elems then some (j - h * src.elems) else none
       let result (j : Nat) : FRes :=
         match place j with
         | some i => if on dst.size j then g (elemAt (vsrc b false f src f.opa) src.size i) else (0, 0)
         | none => (if x.cmd.td.toNat = dst.code then movedElem dst (elemAt (vsrc b false f dst f.dst) dst.size j) else 0, 0)
       ∃ y, VectorEnds s p x (wvec b f.dst false y) ((List.range dst.elems).foldl (fun e j => e ||| (result j).2) 0) ∧
         ∀ j < dst.elems, elemAt y dst.size j = (result j).1 % 2 ^ (8 * dst.size)
     (x.cmd.ins = .vcvt f → (tagOf b f.opa).isSome = true →
       converts (typOfTag x.cmd.ta) f.typ (convertV (typOfTag x.cmd.ta) f.typ f.rnd f.sat)) ∧
     (x.cmd.ins = .vqnt f → (tagOf b f.opa).isSome = true →
       converts (typOfTag x.cmd.ta) (if f.typ = .s16 then .s16 else .s8)
         (quant (typOfTag x.cmd.ta) f.typ f.rnd (x.cmd.b.toNat % 2 ^ 32)))) ∧
    (let trit (v : VBits) (k : Nat) : Nat := elemAt v 1 (k / 5) / 3 ^ (k % 5) % 3
     let from_ := f.mod.val * 128
     let src (u : Typ) : VBits := vsrc b false f u f.opa
     (x.cmd.ins = .unpk5t f → ∃ y, VectorEnds s p x (wvec b f.dst false y) 0 ∧ ∀ k < 128, elemAt y 1 k =
       if on 1 k ∧ elemAt (src .t5) 1 ((from_ + k) / 5) < 243 then (trit (src .t5) (from_ + k) + 255) % 256 else 0) ∧
     (x.cmd.ins = .pack5t f → f.mod.val ≤ 4 → ∃ y, VectorEnds s p x (wvec b f.dst false y) 0 ∧
       (∀ k < 128, trit y (from_ + k) =
         let v := intVal .s8 (elemAt (src .s8) 1 k)
         if on 1 k ∧ 0 < v then 2 else if on 1 k ∧ v < 0 then 0 else 1) ∧
       ∀ k < 640, k < from_ ∨ from_ + 128 ≤ k →
         let old := vsrc b false f .t5 f.dst
         (x.cmd.td.toNat ≠ Typ.t5.code → trit y k = 1) ∧
         (x.cmd.td.toNat = Typ.t5.code → elemAt old 1 (k / 5) < 243 → trit y k = trit old k)))

/-- What a copy does: it reads its descriptor at its start; it opens row by row in R262's order, each with parts that cover the row's source
and destination, CPYG's source and CPYX's destination by the list's index, CPYG's zeros and CPYSET's pattern without a source; a read takes
bytes into the row, a write that follows all of its row's reads stores them and changes no other byte, or enters the non-temporal pool; the
token of a whole copy is the number of bytes (R261-R263, R265, R267, R268). -/
def ShuttleCopies : Prop :=
  ∀ (s : State) (p : Nat) (f : Fields),
    let c := s.core p
    (∀ k rest ps bs, c.shu.run = none → c.shu.waiting = k :: rest → mayStartCmd c k = true →
      k.ins ∈ [Instr.cpy f, .cpyg f, .cpyx f, .cpyset f] →
      let u := s.setCore (c.setEng .shu { waiting := rest, run := none })
      access u ((u.core p).asOf k.id) .engRead k.addr 32 0 = .ok ps → engReadAll u (u.core p) k.id ps = some bs →
      let w := wordsOfBytes (consume bs)
      ∃ t x, exec (.engineCommandStart p .shu) s = .next t ∧ t.mem = s.mem ∧ (t.core p).shu.run = some x ∧ x.cmd = k ∧ x.desc = w ∧
        (descOk k.ins w (k.b.toNat % 2 ^ 64) = false → x.phase = .ending ∧ x.token = some (BitVec.ofInt 64 (-35))) ∧
        (descOk k.ins w (k.b.toNat % 2 ^ 64) = true → x.phase = .running ∧ x.token = none ∧ x.fault = none ∧ x.row = 0 ∧ x.moved = 0 ∧
          x.rd = [] ∧ x.wr = [] ∧ x.rows = (w.getD 1 0).toNat / 2 ^ 48 % 2 ^ 12 + 1 ∧ x.planes = (w.getD 3 0).toNat % 2 ^ 12 + 1)) ∧
    ∀ x, c.shu.run = some x → x.phase = .running → x.fault = none → x.token = none →
      let k := x.cmd
      let word (n : Nat) : W64 := x.desc.getD n 0
      let n0 := (word 0).toNat / 2 ^ 48 + 1
      let goes (acc : EngAcc) (r : State → Exec → Prop) : Prop :=
        ∃ t y, exec (.engineAccessPerform p .shu acc) s = .next t ∧ (t.core p).shu.run = some y ∧ r t y
      -- the next row
      (x.row < x.rows * x.planes →
        let pl := x.row / x.rows
        let row := x.row % x.rows
        let src (pl row : Nat) : Nat := (((word 0).toNat % 2 ^ 48 + pl * ((word 3).extractLsb' 12 26).toInt
          + row * ((word 2).extractLsb' 0 32).toInt : Int) % 2 ^ 64).toNat
        let dst (pl row : Nat) : Nat := (((word 1).toNat % 2 ^ 48 + pl * ((word 3).extractLsb' 38 26).toInt
          + row * ((word 2).extractLsb' 32 32).toInt : Int) % 2 ^ 64).toNat
        let opens (v : State) (from_ : Option Nat) (fill : Nat → Nat) (dest : Nat) : Prop :=
          ∀ rd wr, checkedParts v ((v.core p).asOf k.id) .engWrite dest n0 x.got.length = (wr, none) →
            (match from_ with
              | some a => checkedParts v ((v.core p).asOf k.id) .engRead a n0 x.got.length = (rd, none)
              | none => rd = []) →
            Covers wr dest x.got.length n0 ∧ (∀ a, from_ = some a → Covers rd a x.got.length n0) ∧
            goes (.rd x.rd.length) fun t y => t.mem = s.mem ∧ y.row = x.row + 1 ∧ y.rd = x.rd ++ rd ∧ y.wr = x.wr ++ wr ∧
              y.moved = x.moved + n0 ∧ y.phase = .running ∧
              ∃ l, y.got = x.got ++ l ∧ l.length = n0 ∧ ∀ j < n0, (bufByte l j).toNat = fill j
        (k.ins ∈ [Instr.cpy f, .cpyl f] → opens s (some (src pl row)) (fun _ => 0) (dst pl row)) ∧
        (k.ins = .cpyset f → opens s none (fun j => k.b.toNat / 256 ^ (j % f.typ.size) % 256) (dst pl row)) ∧
        ∀ i v, readIndex s c x = some (.ok i, v) →
          (k.ins = .cpyg f → opens v (if i = 0xFFFFFFFF then none else some (src 0 i)) (fun _ => 0) (dst 0 row)) ∧
          (k.ins = .cpyx f → i ≠ 0xFFFFFFFF → opens v (some (src 0 row)) (fun _ => 0) (dst 0 i)) ∧
          (k.ins = .cpyx f → i = 0xFFFFFFFF → goes (.rd x.rd.length) fun t y => t.mem = s.mem ∧ y.row = x.row + 1 ∧ y.moved = x.moved ∧
            (x.partsDone = false → y.rd = x.rd ∧ y.wr = x.wr ∧ y.got = x.got))) ∧
      -- a read and a write of one part
      (∀ n q bs, x.rd[n]? = some q → q.done = false → shuMayRead c x q = true → hostGone s q.key = false →
        engRead s c k.id q = some bs → toSend s c x.rd [n] = false → k.ins ∈ [Instr.cpy f, .cpyg f, .cpyx f, .cpyl f] →
        goes (.rd n) fun t y => t.mem = s.mem ∧ ((x.takeRead n q bs).partsDone = false → y = x.takeRead n q bs)) ∧
      ∀ n q ks, x.wr[n]? = some q → q.done = false → writeParts s c .shu x n q = some ks →
        k.ins ∈ [Instr.cpy f, .cpyg f, .cpyx f, .cpyl f, .cpyset f] →
        (∀ r ∈ x.rd, r.off / n0 = q.off / n0 → r.done = true) ∧
        let pooled : Bool := (word 1).getLsbD 61 && !q.isLocal
        let after (y : Exec) : Prop :=
          let z := x.tookWrite n q
          (z.partsDone = false → y = z) ∧
          (z.partsDone = true → x.rows * x.planes ≤ x.row → y.phase = .ending ∧ y.token = some (BitVec.ofNat 64 x.moved)) ∧
          (z.partsDone = true → x.row < x.rows * x.planes → y.phase = .running ∧ y.row = x.row ∧ y.rd = [] ∧ y.wr = [] ∧ y.got = [])
        (pooled = false → toSend s c x.wr [n] = false → hostGone s q.key = false → s.det c.cx.ctx = false → s.memOk = true →
          q.off + q.len ≤ x.got.length → goes (.wr n) fun t y => WrotePartsOf s t x.got [q] ∧ after y) ∧
        (pooled = true → c.op? k.id = none → goes (.wr n) fun t y => t.mem = s.mem ∧ after y ∧ ∃ o, (t.core p).op? k.id = some o ∧
          o.st = .pending ∧ o.buf = sub x.got q.off q.len ∧ o.parts.map (fun r => (r.key, r.len)) = [(q.key, q.len)])

/-- Shuttle commands wait in the shuttle's queue with their descriptor's address, and with the list, block or fill value that they
name; a descriptor that is not 32-byte aligned in own local memory below the inbox faults, as does a list or block out of its place (R262,
R263, R267-R269; the cause words are log 24's). CPYC cancels the commands of its bank that write the token it names, or all: those that
wait, those that execute or wait on their flag and those whose last parts have been sent but not applied end with token −32. What a copy reads
and writes (R261-R265, R267-R270). -/
def Obligations.ShuttleCommandsQueue : Prop :=
  ShuttleCopies ∧ ∀ (f : Fields) (s : State), Guarded f s →
    let a := (rd s f f.opa).toNat
    let b := (rd s f f.opb).toNat
    let good : Prop := a % 32 = 0 ∧ ownRange a 32 = true
    let list : Prop := b % 4 = 0 ∧ ownRange b 4 = true
    let goes (i : Instr) (p : Cmd → Prop) : Prop := Queues i f s .shu s.bank.regs fun k => k.addr = a ∧ p k
    (HasRoom s .shu → good →
      goes (.cpy f) (fun _ => True) ∧
      (list → goes (.cpyg f) (fun k => k.b.toNat = b) ∧ goes (.cpyx f) (fun k => k.b.toNat = b)) ∧
      (b % 16 = 0 → (f.mod ≠ 0 ∨ ownRange b 16 = true) → goes (.cpyl f) fun k => k.b.toNat = b) ∧
      ((f.typ = .q → s.here.waits (pairRegs f.opb true) = false) → goes (.cpyset f) fun k => k.b = fillValue s f)) ∧
    (¬ good → ∀ i ∈ [Instr.cpy f, .cpyg f, .cpyx f, .cpyl f], Raises i s (addrFault a .engRead 32)) ∧
    (¬ good → (f.typ = .q → s.here.waits (pairRegs f.opb true) = false) → Raises (.cpyset f) s (addrFault a .engRead 32)) ∧
    (good → ¬ list → ∀ i ∈ [Instr.cpyg f, .cpyx f], Raises i s (addrFault b .engRead 4)) ∧
    (good → (b % 16 ≠ 0 ∨ (f.mod = 0 ∧ ownRange b 16 = false)) → Raises (.cpyl f) s (addrFault b .engRead 16)) ∧
    (let hit (k : Cmd) : Bool := k.bank == s.here.rb && (f.mod = 1 || k.tok == f.dst)
     ∃ u, Completes (.cpyc f) f s u ∧ u.here.shu.waiting = s.here.shu.waiting.filter (fun k => !hit k) ∧
       (∀ k ∈ s.here.shu.waiting, hit k = true → k.task = s.bank.task.serial → ∀ n : Fin 64, n ≠ 0 → k.tok = .s n →
         (u.here.bankOf s.here.rb).rs n = BitVec.ofInt 64 (-32)) ∧
       (∀ x, s.here.shu.run = some x → hit x.cmd = true → x.phase = .running ∨ x.phase = .waitFlag →
         ∃ y, u.here.shu.run = some y ∧ y.phase = .ending ∧ y.token = some (BitVec.ofInt 64 (-32))) ∧
       (∀ x, s.here.shu.run = some x → hit x.cmd = true → x.phase = .ending → ∃ y, u.here.shu.run = some y ∧ y.phase = .ending ∧
         y.token = if s.here.ops.any (fun o => o.id == x.cmd.id) then some (BitVec.ofInt 64 (-32)) else x.token))

/-- Weft and gear instructions wait in the queue of their engine with the addresses that they name; an operand that is not aligned
or leaves own local memory faults (with log 24's cause words); a tile operand must carry the type's tag, both tiles of a pair .f64 (a
GST of a tile with that tag takes the pair, log 38), else a format fault; a tile whose GMM is queued cannot be read, which is cause 16;
GWAIT waits for the commands that write its tile (R92, R286-R288, R303-R307, R313-R317, R319). -/
def Obligations.ArrayCommandsQueue : Prop :=
  ∀ (f : Fields) (s : State), Guarded f s →
    let ea := baseAddr s f
    let stride := rd s f f.opb
    let operand (n m : Nat) : Prop := ownRange ea n = true ∧ ea % m = 0
    let weft (i : Instr) (p : Cmd → Prop) : Prop := HasRoom s .weft → Queues i f s .weft s.bank.regs p
    let gear (i : Instr) (p : Cmd → Prop) : Prop := HasRoom s .gear → Queues i f s .gear s.bank.regs p
    let free (o : Operand) : Prop := ∀ k ∈ s.here.gear.cmds, tileNo o ∉ k.gmmTiles
    let other (o : Operand) : Nat := tileNo o / 2 * 2 + 1 - tileNo o % 2
    let tagged (o : Operand) (t : Typ) : Prop :=
      (tileTag s.here (tileNo o)).toNat = t.code ∧ (t = .f64 → (tileTag s.here (other o)).toNat = t.code)
    let faults (i : Instr) (cause : Nat) : Prop := ∃ x, x.cause = cause ∧ Raises i s x
    let freePair (o : Operand) : Prop := free o ∧ ∀ k ∈ s.here.gear.cmds, other o ∉ k.gmmTiles
    weft (.wcfg f) (fun _ => True) ∧ weft (.wzero f) (fun _ => True) ∧ weft (.wstat f) (fun _ => True) ∧
    (operand (320 * f.typ.size) f.typ.size → weft (.wload f) fun k => k.addr = ea) ∧ (operand 256 2 → weft (.wscl f) fun k => k.addr = ea) ∧
    (operand 8192 128 → weft (.wrun f) fun k => k.addr = ea) ∧ (operand 512 16 → weft (.wdrain f) fun k => k.addr = ea) ∧
    (¬ operand (320 * f.typ.size) f.typ.size → Raises (.wload f) s (addrFault ea .engRead (320 * f.typ.size))) ∧
    (¬ operand 256 2 → Raises (.wscl f) s (addrFault ea .engRead 256)) ∧
    (¬ operand 8192 128 → Raises (.wrun f) s (addrFault ea .engRead 8192)) ∧
    (¬ operand 512 16 → Raises (.wdrain f) s (addrFault ea .engWrite 512)) ∧
    gear (.gcfg f) (fun k => k.a.setWidth 64 = rd s f f.opa ∧ k.b.setWidth 64 = stride) ∧ gear (.gzero f) (fun _ => True) ∧
    (gearOperand (.gbld f) f.typ.size ea stride = none → gear (.gbld f) fun k => k.addr = ea ∧ k.b.setWidth 64 = stride) ∧
    (∀ x, gearOperand (.gbld f) f.typ.size ea stride = some x → Raises (.gbld f) s x) ∧
    (tagged f.dst (if f.typ = .f64 then .f64 else .f32) →
      (gearOperand (.gmm f) f.typ.size ea stride = none → gear (.gmm f) fun k => k.addr = ea ∧ k.b.setWidth 64 = stride) ∧
      ∀ x, gearOperand (.gmm f) f.typ.size ea stride = some x → Raises (.gmm f) s x) ∧
    (¬ tagged f.dst (if f.typ = .f64 then .f64 else .f32) → faults (.gmm f) 6) ∧
    (stride.toNat < 1024 → (if f.typ = .f64 then freePair f.opa else free f.opa) →
      tagged f.opa f.typ → gear (.grd f) fun k => k.b.setWidth 64 = stride) ∧
    (1024 ≤ stride.toNat → Raises (.grd f) s (illegalInfo (encode (.grd f)))) ∧
    (stride.toNat < 1024 → ¬ (if f.typ = .f64 then freePair f.opa else free f.opa) → faults (.grd f) 16) ∧
    (stride.toNat < 1024 → (if f.typ = .f64 then freePair f.opa else free f.opa) → ¬ tagged f.opa f.typ → faults (.grd f) 6) ∧
    (-2 ^ 31 ≤ stride.toInt → stride.toInt < 2 ^ 31 →
      (tileTag s.here (tileNo f.dst) = 11#4 → free f.dst → gear (.gst f) fun k => k.addr = ea ∧ k.td = 11#4) ∧
      (tagged f.dst .f64 → freePair f.dst → gear (.gst f) fun k => k.addr = ea ∧ k.td = 12#4) ∧
      (¬ free f.dst ∨ (tileTag s.here (tileNo f.dst) = 12#4 ∧ ¬ freePair f.dst) → faults (.gst f) 16) ∧
      (freePair f.dst → tileTag s.here (tileNo f.dst) ≠ 11#4 → ¬ tagged f.dst .f64 → faults (.gst f) 6)) ∧
    (f.mod = 0 →
      let busy := ∃ k ∈ s.here.gear.cmds, tileNo f.dst ∈ k.gmmTiles ∨ tileNo f.dst ∈ k.gzeroTiles
      (¬ busy → Completes (.gwait f) f s s) ∧ (busy → exec (.gwait f) s = .next s)) ∧
    (f.mod ≠ 0 → s.here.gear.cmds = [] → s.here.draining = false → Completes (.gwait f) f s s)

/-! Heddle units, collective engines, the specialiser (R336-R346, R367-R380). -/

/-- Connector instructions send one request to the unit that their handle names; a descriptor that breaks its layout is illegal; the
image of PLOAD is 8 KiB at an address aligned to 64 bytes (R340-R346). Which bits are illegal is log 66. -/
def Obligations.HeddleInstructionsSendRequests : Prop :=
  ∀ (f : Fields) (s : State), Guarded f s →
    let h := rd s f f.opa
    let b := rd s f f.opb
    let len := b.toNat / 256 % 64
    let req (a : HAsk) : State := sentOut (traceUnit s) (.heddle { ctx := s.here.cx.ctx, lc := s.here.cx.lc, handle := h, ask := a })
    let offered : Prop := b.toNat / 2 ^ 20 % 2 ^ 28 = 0 ∧ b.toNat / 2 ^ 14 % 4 = 0 ∧ b.toNat / 2 ^ 6 % 4 = 0 ∧ len ≤ 32
    let plain : Prop := offered ∧ len = 0 ∧ b.toNat / 2 ^ 16 % 16 = 0
    let binds : Prop := b.toNat / 2 ^ 12 = 0 ∧ b.toNat / 2 ^ 6 % 4 = 0 ∧ b.toNat / 2 ^ 8 % 16 ≠ 15
    let selects : Prop := b.toNat / 2 ^ 8 = 0 ∧ b.toNat / 2 ^ 6 % 2 = 0
    (MaySend s →
      Completes (.pfree f) f s (req .pfree) ∧
      (b.toNat < 64 → Completes (.popen f) f s (req (.popen b.toNat)) ∧ Completes (.pclose f) f s (req (.pclose b.toNat))) ∧
      (offered → s.here.waits (sRange (regNo f.dst) ((len + 7) / 8)) = false →
        Completes (.put f) f s (req (.put b (regBytes s.bank (regNo f.dst) len)))) ∧
      (plain → Completes (.get f) f s (req (.get b)) ∧ Completes (.pcancel f) f s (req (.pcancel b))) ∧
      (binds → Completes (.pbind f) f s (req (.pbind b)))) ∧
    (¬ plain → Raises (.get f) s (illegalInfo (encode (.get f))) ∧ Raises (.pcancel f) s (illegalInfo (encode (.pcancel f)))) ∧
    (64 ≤ b.toNat → Raises (.popen f) s (illegalInfo (encode (.popen f))) ∧ Raises (.pclose f) s (illegalInfo (encode (.pclose f)))) ∧
    (¬ binds → Raises (.pbind f) s (illegalInfo (encode (.pbind f)))) ∧
    (¬ selects → Raises (.pstat f) s (illegalInfo (encode (.pstat f)))) ∧
    (¬ offered → Raises (.put f) s (illegalInfo (encode (.put f)))) ∧
    (selects →
      LeavesOp (.pstat f) f s fun o => o.b = h.setWidth 128 ∧ o.c = b.setWidth 128 ∧ o.dst = regOf f.dst) ∧
    (h.toNat % 64 ≠ 0 → Raises (.pload f) s (addrFault h.toNat .load 8192)) ∧
    (h.toNat % 64 = 0 → MemoryReady s → ∀ ps, access s s.here .load h.toNat 8192 0 = .ok ps →
      LeavesOp (.pload f) f s fun o => o.addr = h.toNat ∧ o.parts = ps ∧ o.dst = regOf f.dst) ∧
    (h.toNat % 64 = 0 → MemoryReady s → ∀ x, access s s.here .load h.toNat 8192 0 = .error x → Raises (.pload f) s x)

/-- Collective instructions send one request to the keeper of their group, with the channel and tag of their immediate; CGATH, CREDS
and CXCH read their 32-byte descriptor at issue: the read counts a poisoned granule, and one through a mapped frame takes the block from
other stashes and may be a request of its own (`tookParts`; R187, R188, R390, R428, R439). A group that does not exist is illegal
(R376-R379). -/
def Obligations.CollectiveInstructionsSendRequests : Prop :=
  ∀ (f : Fields) (s : State), Guarded f s →
    let g := (rd s f f.opa).toNat
    let a := (rd s f f.opb).toNat
    let ch := f.imm.toNat % 16
    -- the request that leaves the state `u`, which a read of the descriptor has left
    let req (u : State) (op : COp) (d : Option (Nat × Nat × Nat)) : State :=
      sentOut (traceChan u ch) (.coll { ctx := s.here.cx.ctx, lc := s.here.cx.lc, group := g, op := op, typ := f.typ, fn := f.mod.val
                                        ch := BitVec.ofNat 4 ch, tag := BitVec.ofNat 16 (f.imm.toNat / 65536), desc := d })
    (MaySend s → g ≤ 4095 →
      (1 ≤ g → Completes (.join f) f s (req s .join none) ∧ Completes (.leave f) f s (req s .leave none)) ∧
      Completes (.cbar f) f s (req s .cbar none) ∧
      (a % 32 = 0 → ownRange a 32 = true → s.here.fenced = false →
        ∀ ps bs, access s s.here .load a 32 0 = .ok ps → readAtIssue s ps = some bs → netFull s s.here ps = false →
          let u := tookParts s s.cur ps bs
          Completes (.cgath f) f s (req u .cgath (collDesc (consume bs))) ∧
          Completes (.creds f) f s (req u .creds (collDesc (consume bs))) ∧
          Completes (.cxch f) f s (req u .cxch (collDesc (consume bs))))) ∧
    (4095 < g → Raises (.join f) s (illegalInfo (encode (.join f))) ∧ Raises (.leave f) s (illegalInfo (encode (.leave f))) ∧
      Raises (.cbar f) s (illegalInfo (encode (.cbar f))) ∧ Raises (.cgath f) s (illegalInfo (encode (.cgath f))) ∧
      Raises (.creds f) s (illegalInfo (encode (.creds f))) ∧ Raises (.cxch f) s (illegalInfo (encode (.cxch f)))) ∧
    (g = 0 → Raises (.join f) s (illegalInfo (encode (.join f))) ∧ Raises (.leave f) s (illegalInfo (encode (.leave f)))) ∧
    (g ≤ 4095 → a % 32 ≠ 0 ∨ ownRange a 32 = false →
      Raises (.cgath f) s (addrFault a .load 32) ∧ Raises (.creds f) s (addrFault a .load 32) ∧ Raises (.cxch f) s (addrFault a .load 32))

/-- UNIF reads the uniform block of the task; SPSTOP does nothing in original code and in residual code goes on at the original
slot; SPINV makes every entry that depends on its address's unit stale, raises the unit's version and takes its lines out of the
instruction caches of the context's cores; SPQRY answers later, with
a counter of its die or with the state of the entry that a launch would hit (R361, R367-R370). The cause words of SPINV's faults are
log 24's. -/
def Obligations.SpecialiserInstructionResults : Prop :=
  ∀ (f : Fields) (s : State), Guarded f s →
    let a := rd s f f.opa
    let ctx := s.here.cx.ctx
    let unit := a.toNat / 65536
    let die := dieOf s.here.phys
    Completes (.unif f) f s (wres s f.dst (BitVec.ofNat 64 (ofBytes (sub s.bank.task.block f.imm.toNat (2 ^ f.mod.val))))) ∧
    (let o := originOf s s.here s.bank.pc
     (o.residual = false → Completes (.spstop f) f s s) ∧ (o.residual = true → Transfers (.spstop f) f s s o.pc)) ∧
    (∀ pa x, a.toNat < 0x800000000000 → translate s s.here a.toNat = some (pa, x) → s.here.released s.here.nextId = true →
      ∃ u, Completes (.spinv f) f s u ∧ versionOf u ctx unit = versionOf s ctx unit + 1 ∧
        (∀ d : Fin 8, ∀ e ∈ (u.spec[d]).entries, e.ctx = ctx → unit ∈ e.units → e.stale = true) ∧
        let base := pa - a.toNat % 65536
        ∀ q ctx', s.ctx? ctx = some ctx' → q ∈ ctx'.grant → ∀ l ∈ (u.core q).icache, ¬ (base ≤ l.1 ∧ l.1 < base + 65536)) ∧
    (a.toNat < 0x800000000000 → translate s s.here a.toNat = none → Raises (.spinv f) s (transFault a.toNat .load 1)) ∧
    (f.mod = 1 → a.toNat ≤ 6 → ∀ h : die < 8,
      Completes (.spqry f) f s (pushResult s (.spqry f) f ((((s.spec[die]).counters.toList.getD a.toNat 0).setWidth 64).setWidth 128) 0)) ∧
    (f.mod = 1 → 6 < a.toNat → Raises (.spqry f) s (illegalInfo (encode (.spqry f)))) ∧
    (f.mod ≠ 1 → MemoryReady s → ∀ ps, access s s.here .load (rd s f f.opb).toNat 256 0 = .ok ps →
      LeavesOp (.spqry f) f s fun o => o.addr = (rd s f f.opb).toNat ∧ o.parts = ps ∧ o.b = a.setWidth 128 ∧ o.dst = regOf f.dst)

/-! The events of the machine (chapters 4 to 26). Each statement says when an event happens and what it does then; where its
conditions do not hold, an event changes nothing (log 2). -/

/-- A frozen core sends its packet to its supervisor, again after a refusal; a queued fault freezes the core; the supervisor's
actions end the freeze as R158's table says for its cause: resume at the same PC, after a lookahead error with one exemption from the
check, skip at the next PC or where the continuation says; after TRAP and BRK both go on at the successor, after an FP event or a deferred
report where the task stands, and at a PC that the supervisor has changed they start anew; end with the task's end (a skipped instruction
with stop ends it too, log 12). The loupe's requests stop, restart and step a core, delegate it and clear its accumulators; a core
that is both frozen and stopped leaves neither state before both are cleared (R151, R157-R160, R420-R424, R428). -/
def Obligations.FaultAndDebugEvents : Prop :=
  ∀ (s : State) (p : Nat),
    let c := s.core p
    let z := c.cx.frz
    let does (i : Instr) (q : State → Prop) : Prop := ∃ t, exec i s = .next t ∧ q t
    (∀ m l, z.toSend = some m → s.det c.cx.ctx = false → s.dead c.cx.ctx = false → packetTarget s c.cx = some l →
      s.physOf c.cx.ctx c.cx.lc = some p →
      (z.refused = true → z.again ≤ s.cc) → does (if z.refused then .faultPacketResend p else .faultPacketSend p) fun t => (t.core p).cx.frz.toSend = none ∧
        t.flights = s.flights ++ [{ ctx := c.cx.ctx, dst := l, src := .core c.cx.lc, held := { msg := m, launch := none } }]) ∧
    (∀ d ds, z.frozen = false → s.alive c.cx.ctx = true → s.det c.cx.ctx = false → z.queue = d :: ds →
      does (.deferredFaultReport p) fun t => let y := (t.core p).cx.frz
        y.frozen = true ∧ y.cause = d.info.cause ∧ y.seq = z.seq + 1 ∧ y.queue = ds ∧ y.packet[4] = d.info.s5) ∧
    (∀ w, debugRight s w true p 0xF008 = true → windowCtx s p w = c.cx.ctx → s.det c.cx.ctx = false → z.frozen = true →
      z.accepted = none → z.eng = none →
      let b := c.bankOf z.bank
      b.task.live = true → b.task.serial = z.task →
      let thaws (i : Instr) (q : Bank → Prop) : Prop := does i fun t =>
        (t.core p).cx.frz.frozen = false ∧ q ((t.core p).bankOf z.bank) ∧ ∀ hi, t.regs p hi = s.regs p hi
      let both (q : Bank → Prop) : Prop := thaws (.dbgResume p z.seq w) q ∧ thaws (.dbgSkip p z.seq w) q
      let on (pc : W64) (r : Bank) : Prop := r.pc = pc ∧ r.task.live = true
      let done_ (r : Bank) : Prop := r.task.live = false
      let skips : Prop := (stopAt s c b.pc = false ∨ b.again ≠ none → thaws (.dbgSkip p z.seq w) (on b.seqPc)) ∧
        (stopAt s c b.pc = true → b.again = none → thaws (.dbgSkip p z.seq w) done_)
      (c.loupe.stopped = false ∨ c.loupe.freed = true → thaws (.dbgEnd p z.seq w) done_ ∧
        (b.pc = z.imagePc →
          (z.kind = .other → thaws (.dbgResume p z.seq w) (on b.pc) ∧ skips) ∧
          (z.kind = .lookahead → thaws (.dbgResume p z.seq w) (fun r => on b.pc r ∧ r.task.noCheck = true) ∧ skips) ∧
          (z.kind = .trapBrk → (z.stopAfter = false → both (on (succPc b.pc))) ∧ (z.stopAfter = true → both done_)) ∧
          (z.kind = .fpEvent → (z.stopAfter = false → both (on b.pc)) ∧ (z.stopAfter = true → both done_)) ∧
          (z.kind = .deferred → both (on b.pc))) ∧
        (b.pc ≠ z.imagePc → both fun r => on b.pc r ∧ r.task.conts = [] ∧ r.task.noCheck = false)) ∧
      (c.loupe.stopped = true → c.loupe.freed = false → does (.dbgResume p z.seq w) fun t =>
        (t.core p).cx.frz.frozen = true ∧ (t.core p).cx.frz.accepted = some .resume) ∧
      ∀ q, q ≠ z.seq → does (.dbgResume p q w) fun t => (t.core p).cx.frz.frozen = true ∧ (t.core p).cx.frz.ignored = true) ∧
    (∀ w, p < 37376 → debugRight s w true p 0xF800 = true →
      (c.loupe.stopped = false → s.det c.cx.ctx = false →
        does (.lctlStop p w) fun t => (t.core p).loupe.stopped = true ∧ (t.core p).loupe.reason = 1) ∧
      (c.loupe.stopped = true → z.accepted = none →
        (z.frozen = false → does (.lctlResume p w) (fun t => (t.core p).loupe.stopped = false ∧ (t.core p).loupe.skipCheck = true) ∧
          does (.lctlStep p w) fun t => (t.core p).loupe.stopped = false ∧ (t.core p).loupe.stepping = true) ∧
        (z.frozen = true → does (.lctlResume p w) fun t => (t.core p).loupe.stopped = true ∧ (t.core p).loupe.freed = true))) ∧
    (∀ w v, p < 37376 → debugRight s w true p 0xF850 = true →
      does (.ldeleg p v w) fun t => (t.core p).loupe.deleg = v.setWidth 13 ∧
        (v.getLsbD 12 = false → (t.core p).loupe.trc.getLsbD 0 = false ∧ ∀ k : Fin 4, (t.core p).loupe.bp[k].getLsbD 48 = false)) ∧
    (∀ w, p < 37376 → debugRight s w true p 0xF870 = true →
      does (.ldclr p w) fun t => (t.core p).dacc = Vector.replicate 64 0)

/-- Messages leave a core's send buffer, arrive in the order of their route at a free slot, or are refused and return; a core that is idle starts the
task that its channels select, one whose bank 1 is idle a more urgent one: s1 to s7 hold the payload, s8 the header, the PC is the
handler's; a masked window closes behind its last instruction (R50, R51, R105-R108, R112-R115). -/
def Obligations.MessageAndTaskEvents : Prop :=
  ∀ (s : State) (p k : Nat),
    let c := s.core p
    let does (i : Instr) (q : State → Prop) : Prop := ∃ t, exec i s = .next t ∧ q t
    (∀ f x, s.flights[k]? = some f → mayArrive s k f = true → s.physOf f.ctx f.dst = some p → imageOf c f.ctx = some x →
      (∀ n, x.overflow = [] → freeSlot x f.held.is15 = some n →
        does (.messageArrival k) fun t => t.flights = eraseAt s.flights k ∧ (f.ctx = c.cx.ctx → (t.core p).cx = takeSlot x n f.held)) ∧
      (placeMsg (c.overflowed f.ctx) x f.held = none → f.held.msg.kind ∉ [2#4, 9#4, 10#4] → f.held.msg.sender.toNat < 0xFFFE → s.dead f.ctx = false →
        s.det f.ctx = false →
        does (.messageArrival k) fun t => t.flights = eraseAt s.flights k ++ [{
          ctx := f.ctx, dst := f.held.msg.sender.toNat, src := .core f.dst, held := { launch := none, msg := bounceMsg f.held.msg (BitVec.ofNat 16 f.dst) } }])) ∧
    (∀ f, s.kept[k]? = some f → (∀ g ∈ s.kept.take k, sameRoute f g = false) → s.det f.ctx = false →
      (s.cc < f.again → exec (.unitMessageResend k) s = .next s) ∧
      (f.again ≤ s.cc → s.remote f.ctx f.dst = false →
        (∀ t, deliver { s with kept := eraseAt s.kept k } f = some t → exec (.unitMessageResend k) s = .next t) ∧
        (deliver { s with kept := eraseAt s.kept k } f = none →
          does (.unitMessageResend k) fun t => t.kept = setAt s.kept k { f with again := s.cc + 1400 }))) ∧
    (∀ e, c.sending[k]? = some e → (e.out.isRelease = true → c.released e.id = true) →
      (∀ d ∈ c.sending.take k, d.out.sameWay s e.out = false) →
      does (.messageSend p k) fun t => t = sendEntry (s.setCore { c with sending := eraseAt c.sending k }) c.cx e.out ∧
        (t.core p).sending = eraseAt c.sending k) ∧
    (let starts (i : Instr) (hi : Bool) (n : Nat) : Prop :=
       ∀ u, c.cx.slots.find? (fun v => v.held.msg.ch.toNat == n) = some u → does i fun t =>
         let b := (t.core p).bankOf hi
         b.task.live = true ∧ b.task.ch = Fin.ofNat 16 n ∧ b.task.windows = [] ∧
         (u.held.launch = none → b.pc = chanHandler (c.cx.chans.getD n 0)) ∧
         (∀ j : Fin 7, b.rs (Fin.ofNat 64 (j.val + 1)) = payWord u.held.msg j.val) ∧ b.rs 8 = u.held.msg.header ∧
         b.fflags = 0 ∧ b.fenable = 0
     (mayStart s c = true → c.cx.b0.task.live = false → c.cx.b1.task.live = false →
       (∀ n q, c.cx.choose true = some (n, q) → starts (.taskActivation p) true n) ∧
       ∀ n q, c.cx.choose true = none → c.cx.choose false = some (n, q) → starts (.taskActivation p) false n) ∧
     (mayStart s c = true → c.cx.b0.task.live = true → c.cx.b1.task.live = false → c.cx.mwin = 0 →
       ∀ n q, c.cx.choose true = some (n, q) → starts (.preemption p) true n)) ∧
    (c.cx.mwin = 1 → does (.maskedWindowClose p) fun t => (t.core p).cx.mwin = 0)

/-- An outstanding operation of a core in free mode, all of it one part that is still to perform. -/
def OnePart (s : State) (p id : Nat) (o : Op) (q : Part) : Prop :=
  s.memOk = true ∧ (s.core p).op? id = some o ∧ s.det (s.core p).cx.ctx = false ∧ o.parts = [q] ∧ q.done = false ∧ q.off = 0 ∧
    hostGone s q.key = false

/-- An operation has its result, or has ended where it has no destination. -/
def Ended (t : State) (p id : Nat) (o : Op) (res : List W128) : Prop :=
  if o.dst = [] then (t.core p).op? id = none else ∃ y, (t.core p).op? id = some y ∧ y.st = .done ∧ y.res = res

/-- Memory but for the bytes of a part. -/
def KeptOutside (s t : State) (q : Part) : Prop := ∀ a, a < q.key ∨ q.key + q.len ≤ a → readCell t.mem a = readCell s.mem a

/-- The steps of one core's memory path in free mode: a load takes the bytes it reads, extended as its type says; its result is
written to its registers later and leaves ls; a store leaves the queue, releases in their turn, and its part changes exactly its
bytes; so does an entry of the non-temporal pool, whose request to another core's home leaves first; a WATCH is armed by a step of its own;
fences, drains and capability requests end or go on when what they wait for has happened (R41-R44, R51-R53, R66, R74, R196, R203,
R210, R390). What a release waits for beside the manual's words is log 67. -/
def Obligations.MemoryEvents : Prop :=
  ∀ (s : State) (p id : Nat) (o : Op) (q : Part),
    let c := s.core p
    let does (i : Instr) (r : State → Prop) : Prop := ∃ t, exec i s = .next t ∧ r t
    s.memOk = true → c.op? id = some o → s.det c.cx.ctx = false →
    let only (t : State) (bs : List PByte) : Prop := ∀ a, readCell t.mem a =
      if q.key ≤ a ∧ a < q.key + q.len then (bs.getD (a - q.key) { b := 0, p := false }).b else readCell s.mem a
    let whole : Prop := OnePart s p id o q
    let asks (k : KAsk) : Prop := does (.releaseComplete p id) fun t =>
      t.keepers = s.keepers ++ [{ ctx := c.cx.ctx, base := o.addr, lc := c.cx.lc, phys := p, op := id, ask := k }]
    (∀ f, o.ins = .ld f → o.st = .pending → o.late = false → o.mmio = false → whole → q.len = f.typ.size → o.buf = [] →
      c.mayLoad s o = true → forward s c false id false o.parts q = .memory → anyPois (readPart s p id q) = false →
      let x := ofBytes ((readPart s p id q).map PByte.b)
      does (.loadPerform p id 0) fun t => t.mem = s.mem ∧ Ended t p id o (if f.typ = .q then [BitVec.ofNat 128 (x % 2 ^ 64), BitVec.ofNat 128 (x / 2 ^ 64)]
          else if f.mod = 1 then [(BitVec.ofInt 64 (toSigned (8 * f.typ.size) x)).setWidth 128] else [BitVec.ofNat 128 x])) ∧
    (∀ n x, o.st = .done → o.dst = [.s n] → o.res = [x] → o.ev = 0 → (c.bankOf o.bank).task.serial = o.task → n ≠ 0 →
      does (.longLatencyResult p id) fun t => let b := (t.core p).bankOf o.bank
        b.rs n = x.setWidth 64 ∧ (∀ k, k ≠ n → b.rs k = (c.bankOf o.bank).rs k) ∧ b.ls = (c.bankOf o.bank).ls ∧ (t.core p).op? id = none) ∧
    (c.nextStore = some o → (o.isRelStore = true → c.released id = true) → c.relFenced id = false → netFull s c o.parts = false →
      exec (.storeLeave p) s = .next (s.setCore (c.modOp o.id fun o => { o with st := .left }))) ∧
    (∀ f, o.ins = .st f → o.st = .left → o.mmio = false → o.isStore = true → whole → o.buf.length = q.len → c.mayApply s o q = true →
      does (.storeApply p id 0) fun t => only t o.buf ∧ (t.core p).op? id = none) ∧
    (∀ f, o.ins = .watch f → f.mod = 0 → o.parts = [q] → c.acquired id = true →
      (∀ w ∈ c.opsBefore id, w.isWatch = true → w.touchesLine (lineOf q.key) = false) →
      (s.watches.filter fun w => w.mine c.cx) = [] →
      does (.storeApply p id 0) fun t => (t.core p).op? id = none ∧ t.mem = s.mem ∧
        t.watches = s.watches ++ [watchOf c.cx o.addr q.key (o.b.setWidth 64)]) ∧
    (∀ f, o.ins = .st f → o.isNt = true → o.st = .pending → whole → o.buf.length = q.len → c.acquired id = true →
      (toSend s c o.parts [0] = false → does (.ntApply p id 0) fun t => only t o.buf ∧ (t.core p).op? id = none) ∧
      (toSend s c o.parts [0] = true → netFull s c o.parts = false →
        exec (.ntApply p id 0) s = .next (s.setCore (c.modOp id fun y => { y with parts := [{ q with sent := true }] })))) ∧
    (∀ f, o.ins = .fence f → c.fenceReady o = true → does (.releaseComplete p id) fun t => (t.core p).op? id = none) ∧
    (∀ f, o.ins = .ntdrain f → c.ntdrained id = true → does (.releaseComplete p id) fun t => (t.core p).op? id = none) ∧
    (o.st = .pending → o.collected = false → c.capBefore o = false → ∀ f,
      (c.released id = true → (o.ins = .capgive f → asks (.give o.b.toNat)) ∧ (o.ins = .sealCap f → asks .seal)) ∧
      (o.ins = .claim f → asks .claim) ∧ (o.ins = .rmode f → asks (.rmode (if f.mod = 0 then .opn else .atomic))))

/-- The steps of atomics and of the synchronising accesses in free mode: an AMO or AMOM writes what its operation makes of the old
element, a CAS its new value where the two are equal, and each returns the old element; an AMOM that writes zero sends one message;
a SETE empties its word and changes no byte; an LDF returns its word and whether it was full, and takes it under `.take` (R46, R183,
R201, R202, R205-R207). -/
def Obligations.AtomicAndSynchronisingEvents : Prop :=
  ∀ (s : State) (p id : Nat) (o : Op) (q : Part), OnePart s p id o q →
    let c := s.core p
    let does (i : Instr) (r : State → Prop) : Prop := ∃ t, exec i s = .next t ∧ r t
    let old := ofBytes (consume (readPart s p id q))
    let waits := o.st = .pending ∧ o.collected = false ∧ c.mayApply s o q = true
    (∀ f, o.ins = .amo f → waits → does (.atomicApply p id) fun t =>
      readWord t.mem q.key q.len = amoNew f old o.b.toNat % 256 ^ q.len ∧ KeptOutside s t q ∧ Ended t p id o [(widen f.typ old).setWidth 128]) ∧
    (∀ f, o.ins = .cas f → waits → does (.atomicApply p id) fun t =>
      (if old = o.b.toNat then readWord t.mem q.key q.len = o.c.toNat % 256 ^ q.len ∧ KeptOutside s t q else t.mem = s.mem) ∧
      Ended t p id o (if f.typ = .q then [BitVec.ofNat 128 (old % 2 ^ 64), BitVec.ofNat 128 (old / 2 ^ 64)]
        else [(widen f.typ old).setWidth 128])) ∧
    (∀ f, o.ins = .amom f → waits → c.storesDone id = true → does (.atomicApply p id) fun t =>
      let new := amoNew f old o.b.toNat
      readWord t.mem q.key q.len = new % 256 ^ q.len ∧ KeptOutside s t q ∧ Ended t p id o [(widen f.typ old).setWidth 128] ∧
      (s.watches = [] → isZeroElem f.typ new = false → t.flights = s.flights) ∧
      (s.watches = [] → s.dead c.cx.ctx = false → isZeroElem f.typ new = true → ∃ g, t.flights = s.flights ++ [g] ∧
        g.ctx = c.cx.ctx ∧ g.dst = o.c.toNat ∧ g.held.msg.kind = 3 ∧ g.held.msg.len = 24 ∧ g.held.msg.sender = BitVec.ofNat 16 c.cx.lc ∧
        g.held.msg.ch.toNat = f.imm.toNat % 16 ∧ g.held.msg.tag.toNat = f.imm.toNat / 256 % 256 ∧
        g.held.msg.payload = #v[BitVec.ofNat 64 o.addr, widen f.typ old, widen f.typ new, 0, 0, 0, 0])) ∧
    (∀ f, o.ins = .sete f → o.st = .left → o.mmio = false → c.mayApply s o q = true → does (.storeApply p id 0) fun t =>
      t.mem = s.mem ∧ (t.core p).op? id = none ∧ t.full = ndel s.full (wordOf p o.addr)) ∧
    (let w := wordOf p o.addr
     let full := viewFull s p w
     let val := ofBytes ((readPart s p id q).map PByte.b)
     ∀ f, o.ins = .ldf f → o.st = .pending → o.late = false → o.mmio = false → o.collected = false → o.res = [] → o.buf = [] → c.mayLoad s o = true →
       (localOwner (w * 8) ≠ p ∨ pendingWord s c id w = false) → forward s c false id true o.parts q = .memory →
       anyPois (readPart s p id q) = false → does (.loadPerform p id 0) fun t =>
         t.mem = s.mem ∧ t.full = (if f.mod = 1 ∧ full = true then ndel s.full w else s.full) ∧
         Ended t p id o ((regOf f.dst).map (fun _ => BitVec.ofNat 128 val) ++ (regOf f.opb).map fun _ => splatP full))

/-- The steps of the queued engines: a command starts when the one before it has ended, its accesses perform one by one, those of a
vector access to consecutive elements granule by granule, a request to another core's home leaving first, it ends; a shuttle's token is written at its end; a CPYL waits for its flag,
in free mode with tests 64 cc apart where it polls, or runs out of time with token −33; a gang's step starts when
every core of its train is ready and its limit has not passed, and ends when all have read, and then every latch moves on by one
position; the GMMs of a train that waits too long end with the busy report; the drain buffer's rows are stored, a part at a time (R39, R48, R184, R264, R269, R309-R311, R318, R390). That one step carries out each of these is the model's cut of R39 (log 1). -/
def Obligations.EngineEvents : Prop :=
  ∀ (s : State) (p : Nat) (e : Eng),
    let c := s.core p
    let does (i : Instr) (r : State → Prop) : Prop := ∃ t, exec i s = .next t ∧ r t
    (∀ k rest, (c.eng e).run = none → (c.eng e).waiting = k :: rest → mayStartCmd c k = true →
      exec (.engineCommandStart p e) s = .next (startCmd s p e k rest) ∧
      (e = .vec → k.vecMem = none → (c.bankOf k.bank).vown = k.task →
        does (.engineCommandStart p e) fun t => ((t.core p).eng e).run = some (mkExec k) ∧ ((t.core p).eng e).waiting = rest)) ∧
    (∀ x k, (c.eng e).run = some x → x.phase = .running →
      exec (.engineAccessPerform p e (.rd k)) s = .next (engReadStep s p e x k) ∧
      exec (.engineAccessPerform p e (.wr k)) s = .next (engWriteStep s p e x k) ∧
      ∀ q, e = .vec → x.rd[k]? = some q → q.done = false → hostGone s q.key = false →
        let ks := mates x.cmd.unitStride x.rd k
        let ready := ∀ j ∈ ks, ∀ r, x.rd[j]? = some r → (engRead s c x.cmd.id r).isSome = true
        let now (r : Exec → Prop) : Prop := does (.engineAccessPerform p e (.rd k)) fun t => ∃ y, ((t.core p).eng e).run = some y ∧ r y
        (∀ bs, ks = [k] → engRead s c x.cmd.id q = some bs → toSend s c x.rd ks = false → now (· = x.takeRead k q bs)) ∧
        (ready → toSend s c x.rd ks = false → now fun y =>
          ∀ j, y.rd[j]? = if j ∈ ks then (x.rd[j]?).map fun r => { r with done := true } else x.rd[j]?) ∧
        (ready → toSend s c x.rd ks = true → netFull s c (ks.filterMap fun j => x.rd[j]?) = false →
          now (· = { x with rd := sentParts x.rd ks }))) ∧
    (∀ x, e = .vec → (c.eng e).run = some x → x.phase = .running → x.partsDone = true →
      exec (.engineCommandFinish p e) s = .next (finishVec s p x)) ∧
    (∀ x n w, c.shu.run = some x → x.phase = .ending → (∀ o ∈ c.ops, o.id ≠ x.cmd.id) → x.fault = none → x.token = some w →
      x.cmd.tok = .s n → n ≠ 0 → (c.bankOf x.cmd.bank).task.serial = x.cmd.task →
      does (.tokenWrite p) fun t => ((t.core p).bankOf x.cmd.bank).rs n = w ∧ (t.core p).shu.run = none ∧
        (t.core p).shu.waiting = c.shu.waiting) ∧
    (∀ x, c.shu.run = some x → x.phase = .waitFlag → s.det c.cx.ctx = false →
      (∀ t, x.tests = 0 → flagTest s p x = (true, t) → exec (.cpylFlagTest p) s = .next t) ∧
      (∀ t, x.tests = 0 → flagTest s p x = (false, t) → 0 < x.cmd.limit false →
        does (.cpylFlagTest p) fun u => ∃ y, (u.core p).shu.run = some y ∧ y.phase = .waitFlag ∧ y.tests = 1 ∧ y.since = s.cc) ∧
      (x.tests ≠ 0 → x.cmd.fields.mod ≠ 0 → s.cc < x.since + 64 * x.tests → exec (.cpylFlagTest p) s = .next s) ∧
      (∀ t, x.tests ≠ 0 → x.since + x.cmd.limit false ≤ s.cc → flagTest s p x = (false, t) →
        does (.cpylTimeout p) fun u => ∃ y, (u.core p).shu.run = some y ∧ y.phase = .ending ∧ y.token = some (BitVec.ofInt 64 (-33)))) ∧
    (let ps := trainCores (trainOf p)
     ((∀ q ∈ ps, gangReady s q = true) → gangOver s (trainOf p) = false →
       does (.gangStepStart (trainOf p)) fun t => ∀ q ∈ ps,
         (t.core q).gear.run = (s.core q).gear.run.map fun x => { x with phase := .inStep }) ∧
     ((∀ q ∈ ps, ∃ x f, gangRun (s.core q) .inStep = some (x, f) ∧ x.readsDone = true ∧ gmmFault (s.core q) x f = none) →
       does (.gangStepEnd (trainOf p)) fun t => ∀ i < 8,
         let old := (s.core (ps.getD ((i + 7) % 8) 0)).cx.gear
         (t.core (ps.getD i 0)).cx.gear.latch = old.latch ∧ (t.core (ps.getD i 0)).gear.run = none) ∧
     ((∀ y ∈ gangSince s (trainOf p), s.det y.2 = false) →
       ∀ q ∈ ps, ∀ x f, gangRun (s.core q) .waitTrain = some (x, f) → x.tests ≠ 0 → x.since + 1048576 ≤ s.cc →
         does (.gangTimeout (trainOf p)) fun t => ∀ r ∈ ps, ∀ y g, gangRun (s.core r) .waitTrain = some (y, g) →
           (t.core r).cx.gear.lost = (s.core r).cx.gear.lost + 1 ∧
           ((s.core r).cx.frz.queue.length < 4 → s.det (s.core r).cx.ctx = false → (t.core r).gear.run = none ∧
             ∃ d, (t.core r).cx.frz.queue = (s.core r).cx.frz.queue ++ [d] ∧ d.info.cause = 16))) ∧
    (∀ i rest parts q, c.draining = true → c.drainHeld = false → pendingRows c.cx.gear = i :: rest →
      rowParts s c i = .ok parts → parts[0]? = some q → (i, 0) ∉ c.cx.gear.dparts → engMayWrite s c c.cx.gear.did q = true →
      (remotePart s c q = true → (i, 0) ∉ c.cx.gear.dsent → netFull s c [q] = false →
        does (.gstBufferStore p 0) fun t => t.mem = s.mem ∧ (t.core p).cx.gear.dsent = (i, 0) :: c.cx.gear.dsent) ∧
      (remotePart s c q = false ∨ (i, 0) ∈ c.cx.gear.dsent → s.memOk = true → s.det c.cx.ctx = false → hostGone s q.key = false →
        let bs := sub (drainBytes s c.cx.gear i) q.off q.len
        does (.gstBufferStore p 0) fun t =>
          (∀ b, readCell t.mem b = if q.key ≤ b ∧ b < q.key + bs.length then (bs.getD (b - q.key) { b := 0, p := false }).b else readCell s.mem b) ∧
          (parts = [q] → pendingRows (t.core p).cx.gear = rest)))

/-- What the weft array's commands leave, once they have read what they need and end: WLOAD the latch, each activation by its residues;
WSCL the pointer; WCFG and WZERO cleared state; WSTAT writes the status word to d, and `.clr` then clears ill and prow. The last read of a pick applies it, five signed activations a row by the row's trits,
unless it is skipped or its illegal codes suspend the WRUN; a whole WRUN adds to the bound. A drain's row is its old word plus the
scaled accumulator, its write changes its own bytes alone, and its end clears the array (R87-R89, R283, R287-R291, R293,
R295). -/
def Obligations.WeftCommandResults : Prop :=
  ∀ (s : State) (p : Nat) (x : Exec) (f : Fields),
    let c := s.core p
    let w := c.cx.weft
    let ends (i : Instr) (r : WeftSt → Prop) : Prop := x.cmd.ins = i → x.partsDone = true →
      ∃ t, exec (.engineCommandFinish p .weft) s = .next t ∧ t.mem = s.mem ∧ (t.core p).weft.run = none ∧ r (t.core p).cx.weft
    c.weft.run = some x → x.phase = .running →
    ends (.wload f) (fun y => y.acc = w.acc ∧ y.apois = w.apois ∧ ∀ k : Fin 320,
      let e := sub x.got (k.val * f.typ.size) f.typ.size
      y.latch[k] = BitVec.ofNat 32 (tm24Of (toSigned (8 * f.typ.size) (ofBytes (e.map PByte.b)))) ∧ y.lpois.getLsbD k.val = anyPois e) ∧
    ends (.wscl f) (fun y => y = { w with sp := BitVec.ofNat 48 x.cmd.addr }) ∧
    ends (.wcfg f) (fun y => y = { w with pol := f.mod = 1, ill := 0, prow := 0, ran := 0, part := false, stop := 0 }) ∧
    ends (.wzero f) (fun y => y = { w with acc := Vector.replicate 128 0, apois := 0, bound := 0, bnd := false }) ∧
    ends (.wstat f) (fun y => y = if f.mod = 1 then { w with ill := 0, prow := 0 } else w) ∧
    (x.cmd.ins = .wstat f → x.partsDone = true → (c.bankOf x.cmd.bank).task.serial = x.cmd.task →
      ∃ t v, exec (.engineCommandFinish p .weft) s = .next t ∧ t.regs p x.cmd.bank = ((c.bankOf x.cmd.bank).wd f.dst v).regs ∧
        v.toNat = w.ill.toNat * 2 ^ 48 + w.prow.toNat * 2 ^ 32 + w.ran.toNat * 2 ^ 24 + (if w.part then 2 ^ 22 else 0)
          + w.stop.toNat * 2 ^ 16 + (if w.bnd then 2 ^ 9 else 0) + (if w.apois ≠ 0 then 2 ^ 8 else 0) + if w.pol then 1 else 0) ∧
    (64 ≤ x.row → ends (.wrun f) fun y => y.acc = w.acc ∧ y.part = false ∧ y.stop = 0 ∧ y.ran.toNat = x.moved % 128 ∧
      y.bound = min (2 ^ 63 - 1) (w.bound + (w.latch.toList.map fun u => (tm24Int u.toNat).natAbs).sum) ∧
      y.bnd = (w.bnd || decide (8257919 < y.bound))) ∧
    (BitVec.ofNat 5 x.moved &&& (c.bankOf x.cmd.bank).fenable = 0 → ends (.wdrain f) fun y =>
      y.acc = Vector.replicate 128 0 ∧ y.apois = 0 ∧ y.bound = 0 ∧ y.bnd = false ∧ y.latch = w.latch ∧
      y.sp = (if f.mod = 1 then w.sp + 256 else w.sp) ∧ y.prow.toNat = min 65535 (w.prow.toNat + x.tests)) ∧
    -- the last read of a pick, and of a drain
    (∀ k q bs, x.rd[k]? = some q → q.done = false → hostGone s q.key = false → engRead s c x.cmd.id q = some bs →
      toSend s c x.rd [k] = false → (x.takeRead k q bs).readsDone = true →
      let b := (x.takeRead k q bs).got
      let reads (r : Core → Prop) : Prop := ∃ t, exec (.engineAccessPerform p .weft (.rd k)) s = .next t ∧ r (t.core p)
      (x.cmd.ins = .wrun f →
        let byte (r : Nat) : PByte := b.getD r { b := 121, p := false }
        let bad (r : Nat) : Prop := (byte r).p = false ∧ 243 ≤ (byte r).b.toNat
        let trit (r i : Nat) : Int := tritOf (if (byte r).p = true ∨ bad r then 121 else (byte r).b.toNat) i
        let act (i : Nat) : Nat := (w.latch.toList.getD (5 * x.row + i) 0).toNat
        let pois (i : Nat) : Bool := w.lpois.getLsbD (5 * x.row + i)
        let skipped := (∀ i < 5, act i = 0 ∧ pois i = false) ∨ ∀ z ∈ b, z.b = 121 ∧ z.p = false
        reads fun u => let y := u.cx.weft
          (skipped → y.acc = w.acc ∧ y.apois = w.apois) ∧
          (¬ skipped → (∀ r < 128, ¬ bad r) ∨ w.pol = true ∨ x.tests ≠ 0 → ∀ r : Fin 128,
            y.acc[r] = BitVec.ofNat 32 ((List.range 5).foldl (fun n i =>
              if trit r i = 1 then tm24Add n (act i) else if trit r i = -1 then tm24Sub n (act i) else n) w.acc[r].toNat) ∧
            y.apois.getLsbD r = (w.apois.getLsbD r || (byte r).p || (List.range 5).any fun i => trit r i != 0 && pois i)) ∧
          (¬ skipped → (∃ r < 128, bad r) → w.pol = false → x.tests = 0 → y.acc = w.acc ∧
            (c.cx.frz.queue.length < 4 → s.det c.cx.ctx = false → y.suspended = true ∧
              ∃ d, u.cx.frz.queue = c.cx.frz.queue ++ [d] ∧ d.info.cause = 18))) ∧
      (x.cmd.ins = .wdrain f →
        let bad (r : Nat) : Bool := w.apois.getLsbD r || anyPois (sub b (2 * r) 2) || anyPois (sub b (256 + 4 * r) 4)
        let word (l : List PByte) : Nat := ofBytes (l.map PByte.b)
        reads fun u => ∃ y, u.weft.run = some y ∧ y.tests = (List.range 128).countP bad ∧ ∀ r < 128,
          let e := sub y.out (4 * r) 4
          e.map PByte.p = List.replicate 4 (bad r) ∧ (bad r = false →
            let scale := word (sub b (2 * r) 2)
            let n := (intToFp (fmtOf .f32) .rne (tm24Int (w.acc.toList.getD r 0).toNat)).1
            let m := if isNaN (fmtOf .bf16) scale = true then (genNaN (fmtOf .f32) 2).1 else (fmul (fmtOf .f32) .rne n (scale * 65536)).1
            word e = (fadd (fmtOf .f32) .rne (word (sub b (256 + 4 * r) 4)) m).1 % 2 ^ 32))) ∧
    -- a write of a drain
    ∀ k q, x.wr[k]? = some q → q.done = false → (x.wr.take k).all Part.done = true → engMayWrite s c x.cmd.id q = true →
      toSend s c x.wr [k] = false → hostGone s q.key = false → s.det c.cx.ctx = false → s.memOk = true → x.cmd.ins = .wdrain f →
      let bs := sub x.out q.off q.len
      ∃ t, exec (.engineAccessPerform p .weft (.wr k)) s = .next t ∧ ∀ a, readCell t.mem a =
        if q.key ≤ a ∧ a < q.key + bs.length then (bs.getD (a - q.key) { b := 0, p := false }).b else readCell s.mem a

/-- What the gear engine's commands leave when they end: GCFG the pointers, GBLD the latch, GMM each element of its tile or pair (R100's
sum or chain of the old element and eight products) and the poison of its rows, GZERO zero tiles, GRD the element, or zero from a
poisoned row, and GST a full drain buffer of epilogues; GRD and GST release the tile's events (R301, R305-R307, R313, R314, R317). -/
def Obligations.GearCommandResults : Prop :=
  ∀ (s : State) (p : Nat) (x : Exec) (f : Fields),
    let c := s.core p
    let g := c.cx.gear
    let ends (i : Instr) (r : Core → Prop) : Prop := x.cmd.ins = i →
      ∃ t, exec (.engineCommandFinish p .gear) s = .next t ∧ t.mem = s.mem ∧ r (t.core p)
    let b := c.bankOf x.cmd.bank
    c.gear.run = some x → x.phase = .running → x.partsDone = true →
    ends (.gcfg f) (fun u => u.gear.run = none ∧ u.cx.gear = { g with scale := x.cmd.a.setWidth 48, bias := x.cmd.b.setWidth 48 }) ∧
    ends (.gbld f) (fun u => u.gear.run = none ∧ u.cx.gear =
      { g with latch := BitVec.ofNat 16384 (ofBytes (x.got.map PByte.b)), ltag := BitVec.ofNat 4 f.typ.code, lpois := anyPois x.got }) ∧
    (let n := tileNo f.dst
     let size := f.typ.size
     let at_ (u : Core) (i j : Nat) : Nat := tileElem f.typ (tileOf u.cx n) (tileOf u.cx (n + 1)) i j
     let pairs (i j : Nat) : List (Nat × Nat) := (List.range 8).map fun k =>
       (ofBytes (consume (sub x.got ((i * 8 + k) * size) size)), ofBytes (sub (toBytes 2048 g.latch.toNat) ((k * 32 + j) * size) size))
     (g.ltag.toNat = f.typ.code → x.fault = none → n < 8 → (f.typ = .f64 → n + 1 < 8) → ends (.gmm f) fun u => u.gear.run = none ∧
       (∀ i < 32, ∀ j < 32, at_ u i j = (gmmElem f.typ f.rnd (at_ c i j) (pairs i j)).1 % 2 ^ (if f.typ = .f64 then 64 else 32)) ∧
       ∀ i < 32, (tileOf u.cx n).poison.getLsbD i =
         ((tileOf c.cx n).poison.getLsbD i || g.lpois || anyPois (sub x.got (i * 8 * size) (8 * size)))) ∧
     (g.ltag.toNat ≠ f.typ.code → x.fault = none → c.cx.frz.queue.length < 4 → s.det c.cx.ctx = false → ends (.gmm f) fun u =>
       u.gear.run = none ∧ u.cx.tiles = c.cx.tiles ∧ ∃ d, u.cx.frz.queue = c.cx.frz.queue ++ [d] ∧ d.info.cause = 6)) ∧
    ends (.gzero f) (fun u => u.gear.run = none ∧ ∀ n < 8, tileOf u.cx n = if n = tileNo f.dst ∨ (f.mod = 1 ∧ n = tileNo f.dst + 1)
      then { rows := Vector.replicate 32 0, tag := if f.mod = 1 then 12 else 11, poison := 0, events := 0 } else tileOf c.cx n) ∧
    (let n := tileNo f.opa
     let i := x.cmd.b.toNat / 32 % 32
     let j := x.cmd.b.toNat % 32
     let pois := (tileOf c.cx n).poison.getLsbD i || (f.typ == Typ.f64 && decide (16 ≤ j) && (tileOf c.cx (n + 1)).poison.getLsbD i)
     ∀ m, f.dst = .s m → m ≠ 0 → b.task.serial = x.cmd.task → (tileOf c.cx n).events &&& b.fenable = 0 → ends (.grd f) fun u =>
       u.gear.run = none ∧ (u.bankOf x.cmd.bank).rs m =
         (if pois = true then 0 else BitVec.ofNat 64 (tileElem f.typ (tileOf c.cx n) (tileOf c.cx (n + 1)) i j)) ∧
       (n < 8 → (tileOf u.cx n).events = 0)) ∧
    (let wide := x.cmd.td == 12#4
     let n := gstTile x.cmd f x.row
     let word (l : List PByte) (j : Nat) : Nat := ofBytes (sub (consume l) (4 * (16 * x.row + j)) 4)
     n < 8 → x.row < 2 → b.fenable = 0 → ends (.gst f) fun u => u.draining = true ∧ pendingRows u.cx.gear = List.range 32 ∧
       u.cx.gear.drain3 = (tileOf c.cx n).poison.setWidth 64 ∧ (tileOf u.cx n).events = 0 ∧
       ∀ i : Fin 32, ∀ j < (if wide = true then 16 else 32), (j + 1) * f.typ.size ≤ 128 → elemAt u.cx.gear.dbuf[i] f.typ.size j =
         (epilogue f wide (elemAt (tileOf c.cx n).rows[i] (if wide = true then 8 else 4) j) (word (x.got.take 128) j)
           (word (x.got.drop 128) j)).1 % 2 ^ (8 * f.typ.size))

/-- The steps of keepers, translation, stash, specialisers, ticks, quanta and context switches: a mode change and a claim are served
once every core has acknowledged; a page walk, through the upper entries that the die's walk cache holds, fills the TLB; a frame's
block is filled and recalled; a walk ends in its own PC or in residual code; a tick passes every 1,400 cc; a context's quantum ends when all of its
cores have, and the next begins with nothing retired and its selections due; a core that has drained goes over to another context, its frames unmapped (R56, R119, R163, R169, R173, R178-R181, R187, R188,
R362). The keeper's second check is log 31; what a request waits for beside the manual's words is log 68. -/
def Obligations.UnitEvents : Prop :=
  ∀ (s : State) (p k : Nat),
    let c := s.core p
    let does (i : Instr) (r : State → Prop) : Prop := ∃ t, exec i s = .next t ∧ r t
    (∀ r g, s.keepers[k]? = some r → (∀ q ∈ s.keepers.take k, q.ctx ≠ r.ctx ∨ q.base ≠ r.base) →
      s.regions.find? (fun h => h.ctx == r.ctx && h.base == r.base) = some g → acknowledged s r g = true →
      let now (t : State) (h : Region) : Prop := t.regions.find? (fun h => h.ctx == r.ctx && h.base == r.base) = some h
      (∀ d, r.ask = .give d → g.mode = .held → g.holder = r.lc →
        does (.keeperModeChange k) fun t => now t { g with holder := d } ∧ t.keepers = eraseAt s.keepers k) ∧
      (r.ask = .seal → g.mode = .held → g.holder = r.lc →
        does (.keeperModeChange k) fun t => now t { g with mode := .sealed, holder := 0 }) ∧
      (r.ask = .claim →
        (g.mode = .sealed → does (.claimServe k) fun t => now t { g with mode := .held, holder := r.lc }) ∧
        (g.mode ≠ .sealed → does (.claimServe k) fun t => now t g)) ∧
      (∀ m, r.ask = .rmode m → hasAuthority s r.ctx r.lc = true → g.mode ≠ .held ∨ g.holder = r.lc →
        does (.keeperModeChange k) fun t => now t { g with mode := m, holder := 0 })) ∧
    (∀ root va, (∀ e ∈ s.walkCache, e.die ≠ dieOf c.phys) → coreWalk s c root va = walk s root va) ∧
    (∀ va ev x b n pa e, tlbHit c c.cx.ctx va = none → s.ctx? c.cx.ctx = some x → coreWalk s c x.root va = some (b, n, pa, e) →
      does (.pageWalk p va ev) fun t => (t.core p).tlb.head? = some { ctx := c.cx.ctx, va := b, size := n, pa := pa, x := e }) ∧
    (∀ n g, c.frames.find? (fun h => h.n == n) = some g →
      does (.stashFill p n) (fun t => (∃ h ∈ (t.core p).frames, h.n = n ∧ h.filled = true) ∧
        ∀ q, q ≠ p → ∀ h ∈ (t.core q).frames, h.pa = g.pa → h.filled = false) ∧
      does (.stashRecall p n) fun t => ∀ h ∈ (t.core p).frames, h.n = n → h.filled = false ∧ h.dirty = false) ∧
    (∀ (d : Fin 8) w, (s.spec[d]).walks[k]? = some w → w.outcome = none → does (.specialiserWalk d.val k) fun t => ∃ pc base,
      (pc = w.pc ∨ pc = BitVec.ofNat 64 (residualBase d.val + base * 64)) ∧
      (t.spec[d]).walks = mapIf (fun v => v.id == w.id) (fun v => { v with outcome := some pc }) (s.spec[d]).walks) ∧
    does .tickPeriod (fun t => t.tick = if (s.tick.toNat + 1) * 1400 ≤ s.cc then s.tick + 1 else s.tick) ∧
    (∀ n x, s.ctx? n = some x →
      (boundaryReady s x = false → exec (.quantumBoundary n) s = .next s) ∧
      (boundaryReady s x = true → does (.quantumBoundary n) fun t => ∀ q ∈ x.grant, let u := (t.core q).cx
        u.qret = 0 ∧ u.due = (u.choose true).isSome ∧ u.sel = (u.b0.task.live || u.b1.task.live || !idleCore u))) ∧
    (∀ n y, c.cx.ctx ≠ n → s.alive n = true → c.saved.find? (fun x => x.ctx == n) = some y → y.frz.accepted = none →
      gangCtx s c.cx.ctx p = false → gangCtx s n p = false → maySwitch s c = true → c.cx.ctx ≠ noCtx →
      does (.contextSwitch p n) fun t => let u := t.core p
        u.cx.ctx = n ∧ u.frames = [] ∧ u.dacc = Vector.replicate 64 0 ∧ (∃ z ∈ u.saved, z.ctx = c.cx.ctx) ∧
        ∀ z ∈ u.saved, z.ctx ≠ n)

/-- The steps of heddle units and collective engines: requests arrive in the order each core sent them; an offer joins its port's
queue; the enabled rule with the oldest offer lifts; an image is loaded, or refused with −2; a join takes effect; a complete instance
moves its data granule by granule, a source part perhaps ahead of time, then ends for every member; one that is late times out
(R330-R333, R336, R340, R376, R379-R385). -/
def Obligations.ConnectorAndCollectiveEvents : Prop :=
  ∀ (s : State) (p k : Nat),
    let does (i : Instr) (r : State → Prop) : Prop := ∃ t, exec i s = .next t ∧ r t
    (∀ r, s.hreqs[k]? = some r → (∀ q ∈ s.hreqs.take k, sameHeddle q r = false) →
      (∀ b d u z n y, r.ask = .put b d → n = offerPort b → connOf s r.ctx r.handle = some (u, z) → z.port? n = some y →
        y.holder = some r.lc → z.image.outs.getD n false = true → y.fifo.length < 16 →
        u.conns.foldl (fun n c => c.ports.foldl (fun n p => n + p.fifo.length) n) 0 < 4096 →
        does (.offerArrival k) fun t => t.hreqs = eraseAt s.hreqs k ∧ ∃ u' z' y', connOf t r.ctx r.handle = some (u', z') ∧
          z'.port? n = some y' ∧ y'.fifo = y.fifo ++ [{ age := u.nextAge, lc := r.lc, tag := offerTag b, data := { bytes := d, len := offerLen b, typ := BitVec.ofNat 4 (offerTyp b) } }]) ∧
      ∀ b, r.ask = .pcancel b → exec (.pcancelArrival k) s = .next (cancelOffer { s with hreqs := eraseAt s.hreqs k } r b)) ∧
    (∀ unit z r, getBy Conn.slot (s.hunit unit).conns k = some z → s.det z.ctx = false → chooseRule z = some r →
      exec (.liftDecision unit k) s = .next (lift s (s.hunit unit) z r) ∧
      does (.liftDecision unit k) fun t => ∃ z', getBy Conn.slot (t.hunit unit).conns k = some z' ∧ z'.lifts = z.lifts + 1) ∧
    (∀ o f, (s.core p).op? k = some o → o.ins = .pload f → o.st = .pending → o.allDone = true → o.collected = false →
      exec (.connectorImageLoad p k) s = .next (loadConn s p o) ∧
      (imageOfBytes (o.buf.map PByte.b) = none → o.dst ≠ [] → does (.connectorImageLoad p k) fun t =>
        ∃ y, (t.core p).op? k = some y ∧ y.st = .done ∧ y.res = [(BitVec.ofInt 64 (-2)).setWidth 128])) ∧
    (∀ r, s.creqs[k]? = some r → (∀ q ∈ s.creqs.take k,
        ¬ (q.ctx = r.ctx ∧ q.lc = r.lc ∧ keeperAt s q.ctx q.group = keeperAt s r.ctx r.group)) →
      exec (.collectiveRequestArrival k) s = .next (collToKeeper { s with creqs := eraseAt s.creqs k } r) ∧
      (r.op.membership = true → (keeperAt s r.ctx r.group).isSome = true → does (.collectiveRequestArrival k) fun t =>
        (t.group r.ctx r.group).waiting = (s.group r.ctx r.group).waiting ++ [r])) ∧
    (∀ n g, s.det n = false →
      let x := s.group n g
      (∀ t, membershipStep s n g = some t → exec (.membershipChange n g) s = .next t) ∧
      (∀ r, x.waiting = [r] → r.op = .join → r.ctx = n → r.group = g → x.insts = [] → x.member? r.lc = none → x.members ≠ [] →
        does (.membershipChange n g) fun t => (t.group n g).members = x.members ++ [(r.lc, x.opened, 0)]) ∧
      ∀ y i, freeInst s n g k = some (y, i) →
        let gone (t : State) : Prop := ∀ j ∈ (t.group n g).insts, j.n ≠ k
        (i.moved = none →
          (i.complete = true → exec (.instanceDataMove n g k) s = .next (moveWrite s y i 0)) ∧
          ∀ part rest, s.pkg.hold = false →
            let u := { s with agenda := rest }
            let moves (read : Bool) : Res := step { s with agenda := .move n g k part read :: rest }
            moves true = .next (moveRead u y i part) ∧ (i.complete = true → moves false = .next (moveWrite u y i part)) ∧
            (i.complete = true → i.agrees = true → i.head.op ≠ .cbar → ∀ rank q bs,
              ((instMoves u y i i.head).parts.filter fun m => !i.wrote.contains (m.1, m.2.1.va))[part]? = some (rank, q, bs) →
              let key := keyAs s n q.key
              let out := overlapFree s.fresh (instMoves u y i i.head) rank q bs
              isFar q.key = false → hostGone s key = false → s.memOk = true → ∃ t, moves false = .next t ∧ ∀ a, readCell t.mem a =
                if key ≤ a ∧ a < key + out.length then (out.getD (a - key) { b := 0, p := false }).b else readCell s.mem a)) ∧
        (∀ st ev, i.moved = some (st, ev) →
          does (.collectiveCompletion n g k) fun t => t = completeInst s y i st ev ∧ gone t) ∧
        (i.complete = false → i.since + Config.instanceLimit ≤ s.cc →
          does (.instanceTimeout n g k) fun t => t = timeoutInst s y i ∧ gone t))

/-- The steps of the command front end: a kick publishes packets, or is ignored when it names no slot, behind a QSEND that is
being written; a QSEND takes a slot and its packet is written part by part, or returns where there is no slot; packets are fetched part
by part, judged, and looked at again after a failed check; one that may be dispatched is, in free mode, as its type says; launches that bounced go out
again and ended tasks are reported; a queue in fault is retried, its packet skipped, or stopped; QCFG starts a queue that is off
(R42, R140, R394-R413, R418). Corners of the front end are log 19, log 41, log 53 and log 54. -/
def Obligations.FrontEndEvents : Prop :=
  ∀ (s : State) (n k : Nat),
    let q := s.queue n
    let does (i : Instr) (r : State → Prop) : Prop := ∃ t, exec i s = .next t ∧ r t
    (∀ v : BitVec 32, (∃ o ∈ s.pkg.hostOps, o.write = true) → exec (.qkick n v) s = .next s) ∧
    (∀ v : BitVec 32, n < 8192 → (∀ o ∈ s.pkg.hostOps, o.write = false) → (s.det q.ctx = false ∨ q.state = 0) →
      ((∃ e ∈ s.qsends, e.queue = n ∧ e.slot.isSome = true) →
        does (.qkick n v) fun t => t = s.setQueue { q with kicks := q.kicks ++ [v.toNat] }) ∧
      ((∀ e ∈ s.qsends, e.queue = n → e.slot = none) →
      (q.slots ≤ v.toNat → does (.qkick n v) fun t => t = s.setQueue { q with ignored := true }) ∧
      (v.toNat < q.slots → exec (.qkick n v) s = .next (settleQueue (s.setQueue (setTail q v.toNat)) n)))) ∧
    (∀ e, s.qsends[k]? = some e → (e.slot = none → ∀ d ∈ s.qsends, d.queue = e.queue → d.slot = none) →
      let y := s.queue e.queue
      (y.state = 0 ∨ y.state = 4 ∨ (e.slot = none ∧ (y.tail + 1) % y.slots = y.ring.head % y.slots) →
        exec (.qsendWrite k) s = .next (qsendBounce { s with qsends := eraseAt s.qsends k } e)) ∧
      ∀ slot seq ps, qsendSlot y e = some (slot, seq) → feAccess s y.ctx .store (y.ringAddr + 64 * slot) 64 = .ok ps →
        let left := ps.filter fun r => !e.wrote.contains r.off
        left ≠ [] → ∃ r ∈ left,
          let u := feWrite { s with fresh := s.fresh + 1 } [r] (packetOf e.typ seq e.body) [1, e.queue, slot, seq]
          exec (.qsendWrite k) s = .next (if left.length = 1 then qsendEnd { u with qsends := eraseAt u.qsends k } e.queue slot
            else { u with qsends := setAt u.qsends k { e with slot := some (slot, seq), wrote := r.off :: e.wrote } })) ∧
    (∀ t, q.running s = true → judgeHeld s q = some t → exec (.packetFetch n) s = .next t) ∧
    (∀ path a r, q.running s = true → q.wants = some (path, a, r) → judgeHeld s q = none →
      (path ≠ q.path ∨ q.retrying = false → exec (.packetFetch n) s = .next (fetchStep s q path a)) ∧
      (path = q.path → q.retrying = true → s.det q.ctx = false → q.again ≤ s.cc → exec (.packetRecheck n) s = .next (fetchStep s q path a))) ∧
    (∀ d, mayDispatch s n = some d → s.det q.ctx = false → q.state = 1 →
      let of (typ : Nat) (i : Instr) (t : State) : Prop := pfield d 0 1 = typ → exec i s = .next t
      of 0 (.nop n) (doneWith s n) ∧ of 1 (.launch n) (doLaunch s n d) ∧ of 2 (.launchRange n) (doLaunchRange s n d) ∧
      of 3 (.indirect n) (doIndirect s n d) ∧ of 4 (.pred n) (doPred s n d) ∧ of 5 (.packetLoop n) (doLoop s n d) ∧
      (q.waiting = false → of 6 (.wait n) (doWait s n d)) ∧ (q.waiting = true → q.again ≤ s.cc → of 6 (.waitRetest n) (doWait s n d)) ∧
      of 7 (.signal n) (doSignal s n d) ∧ of 8 (.barrier n) (if q.quietAll then doneWith s n else s) ∧
      of 9 (.fetchFence n) (doFetchFence s n d) ∧ of 10 (.connect n) (doConnect s n d)) ∧
    (∀ l, s.det q.ctx = false → dueLaunch s n = some l → s.dead l.ctx = false → s.det l.ctx = false →
      does (.launchResend n) fun t => t.flights = s.flights ++ [{
        ctx := l.ctx, dst := l.dst, src := .queue n, held := { msg := l.msg, launch := some l.id } }]) ∧
    (∀ l, s.launches[k]? = some l → l.ended = true → taskQuiet s l = true → s.det l.ctx = false →
      exec (.taskEndReport k) s = .next (reportEnd s l)) ∧
    (n < 8192 →
      (q.state = 2 ∨ q.state = 3 → does (.qactRetry n) (fun t => (t.queue n).state = 1 ∧ (t.queue n).tries = 0) ∧
        exec (.qactSkip n) s = .next (qactSkip s n)) ∧
      does (.qactStop n) (fun t => (t.queue n).state = 0) ∧
      ∀ v, q.state = 0 → qcfgOk v = true →
        does (.qcfg n v) fun t => (t.queue n).state = 1 ∧ (t.queue n).cfg = v ∧ (t.queue n).tail = 0 ∧ (t.queue n).ring.idx = 0)

/-- A queue at a packet of its ring, outside a LOOP, that it may dispatch, with nothing under way and nothing held back. -/
def AtPacket (s : State) (n : Nat) (d : List Byte) (typ : Nat) : Prop :=
  let q := s.queue n
  mayDispatch s n = some d ∧ pfield d 0 1 = typ ∧ s.det q.ctx = false ∧ s.dead q.ctx = false ∧ q.state = 1 ∧ q.nest = [] ∧
  q.ring.loop = none ∧ q.ring.skip = 0 ∧ q.open_ = [] ∧ q.deferred = [] ∧ q.hold = none ∧ q.range = none ∧ q.waiting = false

/-- What each packet does in free mode: a LAUNCH or an element of a LAUNCH_RANGE sends its message, where the specialisation cache
answers, or its target faults; one that reaches the dispatcher in the cc in which its queue becomes DEAD is counted, once (log 41); an INDIRECT's buffer is entered, two deep at most; a PRED that
fails and a LOOP of no pass skip; a LOOP of passes is opened; a WAIT that fails is tested again after 1 µs; a SIGNAL stores or adds; a
FETCH_FENCE drops what was fetched ahead; a CONNECT stores its image's result; a packet done is consumed (R399-R407, R411, R412). -/
def Obligations.PacketsDoWhatTheirTypesSay : Prop :=
  ∀ (s : State) (n : Nat) (d : List Byte),
    let q := s.queue n
    let does (i : Instr) (r : State → Prop) : Prop := ∃ t, exec i s = .next t ∧ r t
    let eats (i : Instr) (r : State → Prop) : Prop := does i fun t =>
      (t.queue n).ring.idx = q.ring.idx + 1 ∧ (t.queue n).state = 1 ∧ r t
    let faults (i : Instr) (a : Nat) : Prop := does i fun t => (t.queue n).state = 2 ∧ (t.queue n).fault = BitVec.ofNat 64 a
    let malformed (i : Instr) : Prop := does i fun t => (t.queue n).state = 3
    let field (o m : Nat) : Nat := bodyField d o m
    let pc := BitVec.ofNat 64 (field 0 8 % 2 ^ 48)
    let stored (t : State) (p : Part) (v : Nat) : Prop := readWord t.mem p.key 8 = v % 2 ^ 64 ∧ KeptOutside s t p
    let word (p : Part) : Prop := p.off = 0 ∧ p.len = 8 ∧ hostGone s p.key = false ∧ s.memOk = true
    let sends (t : State) (lc : Nat) (e : SpecEntry) (p0 p1 : Nat) : Prop := ∃ f l, t.flights = s.flights ++ [f] ∧
      t.launches = s.launches ++ [l] ∧ f.held.launch = some l.id ∧ f.ctx = q.ctx ∧ f.dst = lc ∧ l.pc = entryPc (dieOfLc s q.ctx lc) e pc ∧
      l.block = List.replicate 256 0 ∧ f.held.msg.kind = 2 ∧ f.held.msg.ch.toNat = field 0 8 / 2 ^ 48 % 16 ∧
      f.held.msg.len.toNat = field 0 8 / 2 ^ 52 % 32 ∧ f.held.msg.payload = #v[BitVec.ofNat 64 p0, BitVec.ofNat 64 p1, 0, 0, 0, 0, 0]
    (AtPacket s n d 0 → eats (.nop n) fun t => t.mem = s.mem ∧ t.flights = s.flights) ∧
    (AtPacket s n d 1 →
      (∀ a, launchTarget s q.ctx (field 8 8) = .error a → faults (.launch n) a) ∧
      (launchTarget s q.ctx (field 8 8) = .ok none → malformed (.launch n)) ∧
      ∀ lc e, launchTarget s q.ctx (field 8 8) = .ok (some lc) → field 16 8 = 0 → field 24 8 = 0 →
        specFind s (dieOfLc s q.ctx lc) q.ctx pc (List.replicate 256 0) = some e →
        eats (.launch n) fun t => sends t lc e (field 32 8) (field 40 8) ∧ ∃ k, (t.queue n).open_ = [k] ∧ k.tasks = 1) ∧
    (AtPacket s n d 2 → field 16 8 = 0 → field 24 8 = 0 →
      (rangeCount d = 0 → eats (.launchRange n) fun t => t.flights = s.flights ∧ t.launches = s.launches ∧ (t.queue n).open_ = []) ∧
      (rangeCount d ≠ 0 →
        (∀ a, launchTarget s q.ctx (field 8 8 % 2 ^ 48) = .error a → faults (.launchRange n) a) ∧
        ∀ lc e, launchTarget s q.ctx (field 8 8 % 2 ^ 48) = .ok (some lc) →
          specFind s (dieOfLc s q.ctx lc) q.ctx pc (List.replicate 256 0) = some e →
          does (.launchRange n) fun t => sends t lc e (field 8 8 % 2 ^ 48) 0 ∧
            (t.queue n).ring.idx = (if rangeCount d = 1 then q.ring.idx + 1 else q.ring.idx))) ∧
    (∀ typ i, q.state = 4 → (typ = 1 ∧ i = .launch n ∨ typ = 2 ∧ i = .launchRange n) →
      (∀ quiet, q.packet s = some d → pfield d 0 1 = typ → q.late = some (s.cc, quiet) → lookDone q = true →
        quiet = true ∨ pfield d 0 8 / 2 ^ 32 % 2 = 0 → does i fun t => (t.queue n).late = none ∧
          (t.queue n).dropped = (if q.dropped = BitVec.allOnes 16 then q.dropped else q.dropped + 1)) ∧
      ((∀ quiet, q.late ≠ some (s.cc, quiet)) → exec i s = .next s)) ∧
    (AtPacket s n d 3 → 0 < field 8 4 → eats (.indirect n) fun t => ∃ b, (t.queue n).nest = [b] ∧ b.base = field 0 8 ∧
      b.count = field 8 4 ∧ b.idx = 0) ∧
    (mayDispatch s n = some d → pfield d 0 1 = 3 → s.det q.ctx = false → 2 ≤ q.nest.length → malformed (.indirect n)) ∧
    (∀ i, (i = .pred n ∧ AtPacket s n d 4) ∨ (i = .wait n ∧ AtPacket s n d 6) →
      (∀ a, condHolds s q.ctx d = .error a → faults i a) ∧ ∀ u, condHolds s q.ctx d = .ok (u, true) → eats i fun _ => True) ∧
    (AtPacket s n d 4 → (∀ f ∈ q.ahead, f.path = q.path) → ∀ u, condHolds s q.ctx d = .ok (u, false) →
      eats (.pred n) fun t => (t.queue n).ring.skip = field 25 1) ∧
    (AtPacket s n d 6 → ∀ u, condHolds s q.ctx d = .ok (u, false) → does (.wait n) fun t =>
      (t.queue n).waiting = true ∧ (t.queue n).ring.idx = q.ring.idx ∧ (t.queue n).again = s.cc + 1400) ∧
    (AtPacket s n d 5 → 0 < field 0 1 →
      (loopBad q (field 0 1) = true → malformed (.packetLoop n)) ∧
      (loopBad q (field 0 1) = false → field 2 2 = 0 → (∀ f ∈ q.ahead, f.path = q.path) →
        eats (.packetLoop n) fun t => (t.queue n).ring.skip = field 0 1) ∧
      (loopBad q (field 0 1) = false → field 2 2 ≠ 0 → eats (.packetLoop n) fun t => ∃ l, (t.queue n).ring.loop = some l ∧
        l.lo = q.ring.idx + 1 ∧ l.n = field 0 1 ∧ l.left = field 2 2 - 1)) ∧
    (AtPacket s n d 7 →
      (∀ p, field 16 1 ≠ 1 → feAccess s q.ctx .store (field 0 8) 8 = .ok [p] → word p → eats (.signal n) (stored · p (field 8 8))) ∧
      (∀ p, field 16 1 = 1 → feAccess s q.ctx .atomic (field 0 8) 8 = .ok [p] → word p →
        eats (.signal n) (stored · p (ofBytes (consume (readPart s 37376 0 p)) + field 8 8))) ∧
      (∀ a, feAccess s q.ctx (if field 16 1 = 1 then .atomic else .store) (field 0 8) 8 = .error a → faults (.signal n) a)) ∧
    (AtPacket s n d 8 → eats (.barrier n) fun t => t.mem = s.mem) ∧
    (AtPacket s n d 9 → eats (.fetchFence n) fun t => (t.queue n).ahead = [] ∧ t.mem = s.mem) ∧
    (AtPacket s n d 10 →
      (s.physOf q.ctx (field 8 8) = none → malformed (.connect n)) ∧
      ∀ c, s.physOf q.ctx (field 8 8) = some c →
        (field 0 8 % 64 ≠ 0 → faults (.connect n) (field 0 8)) ∧
        ∀ ps p u bs, field 0 8 % 64 = 0 → access s (coreAs (s.core c) q.ctx) .load (field 0 8) 8192 0 = .ok ps →
          feAccess s q.ctx .store (field 16 8) 8 = .ok [p] → word p →
          readOn s n (q.path ++ [field 0 8]) (ps.map fun r => { r with key := keyAs s q.ctx r.key }) = .done u bs →
          imageOfBytes bs = none → eats (.connect n) (stored · p (2 ^ 64 - 2)))

/-- The driver's page, register writes and the host: a record makes a context once the front end has been started (R436; log 98), a bad
one none; a kill marks the context dead; a
shootdown ends once no core uses its pages, and leaves no entry of them in a TLB or a walk cache; a register is written by a party
with the right to it alone; the host reads and writes device memory through its aperture while the link is up, a granule in one step and a longer access granule by
granule (R164, R173, R174, R184, R194,
R395, R415, R416, R431, R432). The free identifier is log 5, the corners are log 46; context images in the kept rows are log 69. -/
def Obligations.DriverAndHostEvents : Prop :=
  ∀ (s : State),
    let does (i : Instr) (r : State → Prop) : Prop := ∃ t, exec i s = .next t ∧ r t
    (∀ a, s.pkg.front = false → exec (.ctxcreate a) s = .next s) ∧
    (∀ a id, s.pkg.front = true → freeCtxId s = some id →
      exec (.ctxcreate a) s = .next (createCtx s a.toNat) ∧
      (recordCtx s a.toNat id = none → does (.ctxcreate a) fun t => t.pkg.createRes = BitVec.ofNat 64 (2 ^ 63 + 1) ∧ t.ctxs = s.ctxs ∧ t.mem = s.mem) ∧
      ∀ x regs, recordCtx s a.toNat id = some (x, regs) → (∀ p ∈ x.grant, grantsOf s p < 5) → keepersFit s x.root regs = true →
        does (.ctxcreate a) fun t => t.pkg.createRes = BitVec.ofNat 64 id ∧
          ∃ y, t.ctx? id = some y ∧ y.grant = x.grant ∧ y.det = x.det ∧ y.root = x.root ∧ y.dead = none) ∧
    (∀ v x, s.ctx? (v.toNat % 4096) = some x → x.dead = none → x.dying = none → x.dumpFirst = false →
      does (.ctxkill v) fun t => ∃ y, t.ctx? (v.toNat % 4096) = some y ∧ y.dead = some (BitVec.ofNat 8 (v.toNat / 256))) ∧
    (∀ v, does (.shootva v) fun t => t.pkg.shoots = s.pkg.shoots ++ [{ ctx := s.pkg.shootArg.toNat % 4096
                                                                       page := v.toNat / 2 ^ 16 % 2 ^ 32
                                                                       count := s.pkg.shootArg.toNat / 2 ^ 16 % 2 ^ 16 }]) ∧
    (∀ z rest, s.pkg.shoots = z :: rest → (∀ c ∈ s.cores, shootQuiet z c = true) →
      does .shootdownComplete fun t => t.pkg.shootDone = s.pkg.shootDone + 1 ∧ t.pkg.shoots = rest ∧
        (∀ c ∈ t.cores, ∀ e ∈ c.tlb, z.hits e = false) ∧ ∀ e ∈ t.walkCache, z.hitsWalk e = false) ∧
    (∀ w (a : W64) n v, exec (.registerWrite w a n v) s = .next
      (if mmioShape a.toNat n = true ∧ mmioRight s w true (a.toNat / 8 * 8) = true then mmioWrite s w a.toNat n v.toNat else s)) ∧
    (∀ a bs, s.pkg.ucieUp = false → exec (.hostWrite a bs) s = .next s ∧ exec (.hostRead a bs.length) s = .next s) ∧
    (let only (t : State) (b : Nat) (bs : List Byte) : Prop := ∀ k, readCell t.mem k =
       if b ≤ k ∧ k < b + bs.length then bs.getD (k - b) 0 else readCell s.mem k
     (∀ a bs, s.pkg.ucieUp = true → a < 0x20000000000 → hostShape s a bs.length = true →
       (a / 16 = (a + bs.length - 1) / 16 → s.memOk = true → (∀ o ∈ s.pkg.hostOps, o.write = false) → imagePlace s a = none →
         does (.hostWrite a bs) (fun t => t.pkg.hostError = false ∧ only t a bs ∧ t.pkg.hostOps = s.pkg.hostOps) ∧
         (s.redo = [] → s.shadow = [] → s.poison = [] → does (.hostRead a bs.length) fun t =>
           t.pkg.hostReply = some ((List.range bs.length).map fun i => readCell s.mem (a + i), false, false) ∧ t.mem = s.mem)) ∧
       (a / 16 ≠ (a + bs.length - 1) / 16 → does (.hostWrite a bs) fun t => t.mem = s.mem ∧ ∃ o, t.pkg.hostOps = s.pkg.hostOps ++ [o] ∧
         o.write = true ∧ o.parts.map (fun q => (q.va, q.len)) = (List.range (bs.length / 16)).map fun i => (a + 16 * i, 16))) ∧
     ∀ o q os k rest, s.pkg.hostOps = o :: os → o.parts[k]? = some q → q.done = false → o.write = true → o.mmio = false →
       s.pkg.ucieUp = true → s.pkg.hold = false → s.memOk = true → q.va < 0x20000000000 → imagePlace s q.va = none →
       ∃ t, step { s with agenda := .hostPart 0 k :: rest } = .next t ∧ only t q.va ((sub o.buf q.off q.len).map PByte.b)) ∧
    (∀ a bs, s.pkg.ucieUp = true → a < 0x20000000000 → hostShape s a bs.length = false →
      does (.hostWrite a bs) (fun t => t.pkg.hostError = true ∧ t.mem = s.mem) ∧
      does (.hostRead a bs.length) fun t => t.pkg.hostReply = some ([], false, true))

/-- The package's links, boot, alarms, power and errors: an alarm and overheating tear every context down at once (log 46) and hold the
package in reset; a failed first boot step holds it until the next start, an optional step that failed before is skipped, and the last
starts the front end; a level of a die decides its routing once a window of 4,096
cc; each error is counted on its die's page and an uncorrectable one poisons its granule; every 65,536 cc an escapement ends what
teardowns have begun; removing power empties memory (log 6) and leaves what the key store and the table hold (R164, R391, R392,
R432-R440). What survives a removal of power is log 56. -/
def Obligations.PackageEvents : Prop :=
  ∀ (s : State),
    let does (i : Instr) (r : Package → Prop) : Prop := ∃ t, exec i s = .next t ∧ r t.pkg
    let allGone (i : Instr) (r : Package → Prop) : Prop := ∃ t, exec i s = .next t ∧ (∀ x ∈ s.ctxs, t.ctx? x.id = none) ∧ r t.pkg
    let alarmed (cause : Nat) (p : Package) : Prop := p.hold = true ∧ p.bootrec.getLsbD 40 = true ∧ p.bootrec.toNat / 2 ^ 41 % 16 = cause
    does .ucieLinkDown (fun p => p.ucieUp = false) ∧
    does .ucieRetrain (fun p => p.ucieUp = true ∧ p.retrains = s.pkg.retrains + 1) ∧
    (∀ d < 8, does (.rhohimenLinkFail d) fun p => (∀ e < 8, p.rhoUp.getLsbD e = (s.pkg.rhoUp.getLsbD e && e != d)) ∧
      p.onLink = s.pkg.onLink.filter fun x => x.1 != d) ∧
    allGone .tamperSensor (alarmed 2) ∧ allGone .glitchDetected (alarmed 3) ∧ allGone .overtempShutdown (fun p => p.hold = true) ∧
    (∀ l, (s.pkg.hold = true → s.pkg.retry = false → exec (.powerOn l) s = .next s) ∧
      (s.pkg.hold = false ∨ s.pkg.retry = true → exec (.powerOn l) s =
        .next (bootFrom l { s with pkg := { s.pkg with hold := false, retry := false, front := false } } [1, 2, 3, 4, 5, 6, 7, 8, 9, 10])) ∧
      -- an optional step whose fallback bit is set is skipped; the last step starts the front end
      (∀ k, optionalStep k = true → recFb s.pkg.bootrec k = true → ∃ t, bootOne l s k = .on t ∧ recState t.pkg.bootrec k = 3 ∧
        (k = 5 → t.pkg.tierOff = true) ∧ (k = 8 → t.pkg.rhoUp = 0)) ∧
      (10 ∉ l → recState s.pkg.bootrec 10 = 0 → recFb s.pkg.bootrec 10 = false →
        ∃ t, bootOne l s 10 = .on t ∧ recState t.pkg.bootrec 10 = 2 ∧ t.pkg.front = true) ∧
      -- a first start that fails in its first step holds the package until the next one
      (1 ∈ l → s.pkg.hold = false → s.pkg.bootrec = 0 → does (.powerOn l) fun p => p.hold = true ∧ p.retry = true ∧ p.bootrec = 1)) ∧
    (∀ v, does (.bootrecWrite v) fun p => ∀ b < 64, p.bootrec.getLsbD b = (v.getLsbD b && b < 45 && (40 ≤ b || b % 4 != 3))) ∧
    (∃ t, exec .powerRemoved s = .next t ∧ t.mem = [] ∧ t.ctxs = [] ∧ t.pkg.bootrec = s.pkg.bootrec ∧ t.pkg.hold = false ∧
      t.pkg.table = s.pkg.table ∧ t.pkg.secrets = s.pkg.secrets) ∧
    does .powerThrottle (fun p => p.throttle = if s.pkg.throttle.toNat < 4 then s.pkg.throttle + 1 else s.pkg.throttle) ∧
    (∀ (d : Fin 8), ∃ t, exec (.correctableError d.val) s = .next t ∧ (t.errs[d]).ecce = satInc (s.errs[d]).ecce ∧ t.mem = s.mem) ∧
    (∀ (d : Fin 8) g src, ∃ t, exec (.uncorrectableError d.val g src) s = .next t ∧ (t.errs[d]).eccue = satInc (s.errs[d]).eccue ∧
      poisoned t (16 * g) = true ∧ (t.errs[d]).elast.toNat / 2 ^ 48 = src % 8) ∧
    (∀ d l a b, d < 8 → 4096 ≤ s.cc → (∀ x ∈ s.pkg.routing, x.1 = d → x.2.1 = l → x.2.2.1 ≠ s.cc / 4096) →
      does (.routingWindow d l a b) fun p => ∀ x ∈ p.routing, x.1 = d → x.2.1 = l → x.2.2 = (s.cc / 4096, decide (3 * b < a))) ∧
    (s.cc < (s.pkg.escapements + 1) * 65536 → exec .escapement s = .next s) ∧
    ((s.pkg.escapements + 1) * 65536 ≤ s.cc → ∃ t, exec .escapement s = .next t ∧ t.pkg.escapements = s.pkg.escapements + 1 ∧
      ∀ x ∈ s.ctxs, x.dead.isSome = true → t.ctx? x.id = none)
end

