-- ==== Sys2Proof/Laws/Run.lean ====
section
/-! SUPPORT. The one course of every encoded instruction (R75, R9, R71): which of its four ends it comes to. -/

namespace Sys2Proof.Machine

theorem runWith_violation (g : Bank → Bool) (f : Fields) (eff : State → Eff) (s : State) (x : FaultInfo)
    (h : violation s s.bank.task f = some x) : runWith g f eff s = raise s x .lookahead := by
  simp only [State.bank] at h
  simp [runWith, h]

theorem runWith_waits (g : Bank → Bool) (f : Fields) (eff : State → Eff) (s : State)
    (h : violation s s.bank.task f = none) (w : s.here.waits (fieldRegs f) = true) : runWith g f eff s = s := by
  simp only [State.bank] at h
  simp [runWith, h, w]

theorem runWith_inactive (g : Bank → Bool) (f : Fields) (eff : State → Eff) (s : State) (h : Issues f s)
    (n : g s.bank = false) : runWith g f eff s = retire s f none := by
  obtain ⟨v, w⟩ := h
  simp only [State.bank] at v n
  simp [runWith, v, w, n]

theorem runWith_active (g : Bank → Bool) (f : Fields) (eff : State → Eff) (s : State) (h : Issues f s)
    (a : g s.bank = true) : runWith g f eff s = settle f s (eff s) := by
  obtain ⟨v, w⟩ := h
  simp only [State.bank] at v a
  simp [runWith, v, w, a]

/-- An instruction that issues with a true guard settles on its effect. -/
theorem run_guarded (f : Fields) (eff : State → Eff) (s : State) (h : Guarded f s) : run f eff s = settle f s (eff s) :=
  runWith_active _ f eff s h.1 h.2

/-- An instruction that issues with a false guard retires without effect (R71). -/
theorem run_unguarded (f : Fields) (eff : State → Eff) (s : State) (h : Issues f s) (n : guard0 s.bank f = false) :
    run f eff s = retire s f none :=
  runWith_inactive _ f eff s h n

/-- All that one instruction's course can come to. -/
theorem runWith_cases (g : Bank → Bool) (f : Fields) (eff : State → Eff) (s : State) :
    (∃ x, violation s s.bank.task f = some x ∧ runWith g f eff s = raise s x .lookahead) ∨
    (violation s s.bank.task f = none ∧ s.here.waits (fieldRegs f) = true ∧ runWith g f eff s = s) ∨
    (Issues f s ∧ g s.bank = false ∧ runWith g f eff s = retire s f none) ∨
    (Issues f s ∧ g s.bank = true ∧ runWith g f eff s = settle f s (eff s)) := by
  cases v : violation s s.bank.task f with
  | some x => exact .inl ⟨x, rfl, runWith_violation g f eff s x v⟩
  | none =>
    cases w : s.here.waits (fieldRegs f) with
    | true => exact .inr (.inl ⟨rfl, rfl, runWith_waits g f eff s v w⟩)
    | false =>
      cases a : g s.bank with
      | false => exact .inr (.inr (.inl ⟨⟨v, w⟩, rfl, runWith_inactive g f eff s ⟨v, w⟩ a⟩))
      | true => exact .inr (.inr (.inr ⟨⟨v, w⟩, rfl, runWith_active g f eff s ⟨v, w⟩ a⟩))

@[simp] theorem settle_done (f : Fields) (s u : State) : settle f s (.done u) = retire u f none := rfl
@[simp] theorem settle_jump (f : Fields) (s u : State) (pc : W64) : settle f s (.jump u pc) = retire u f (some pc) := rfl
@[simp] theorem settle_stall (f : Fields) (s : State) : settle f s .stall = s := rfl
@[simp] theorem settle_fault (f : Fields) (s : State) (x : FaultInfo) : settle f s (.fault x) = raise s x := rfl
@[simp] theorem settle_fp (f : Fields) (s u : State) (ev : Events) : settle f s (.fp u ev) = retireFp u f ev := rfl
@[simp] theorem settle_last (f : Fields) (s u : State) : settle f s (.last u) = retire u { f with stop := true } none := rfl
@[simp] theorem settle_brk (f : Fields) (s u : State) : settle f s (.brk u) = loupeStop (retireOnly u f none) s.cur 2 := rfl

/-- A core in which nothing is outstanding and no window is open lets every instruction issue. -/
theorem issues_of_quiet (f : Fields) (s : State) (w : s.bank.task.windows = []) (o : s.here.ops = [])
    (q : ∀ e, (s.here.eng e).cmds = []) : Issues f s := by
  refine ⟨?_, ?_⟩
  · simp [violation, w]
  · simp [Core.waits, Core.pending, o, q, engs]

/-- Steps that each leave the state as it is are quiet together. -/
theorem quietSteps_of {s : State} {es : List Instr} (h : ∀ e ∈ es, act e s = .next s) : quietSteps s es = true := by
  unfold quietSteps
  induction es with
  | nil => rfl
  | cons e es ih =>
    rw [firstStep, h e List.mem_cons_self]
    simpa using ih fun e he => h e (List.mem_cons_of_mem _ he)

end Sys2Proof.Machine
end

