-- ==== Sys2Proof/Laws/Course.lean ====
section
/-! SUPPORT. Every encoded instruction but CPYC takes the one course of `runWith`, with a guard that no false bit turns on: one lemma
per instruction, and the three ends that all of them share (R71, R75, R9). -/

namespace Sys2Proof.Machine

/-- The instruction's course: its guard test g, off where no bit of the guard is true, and its effect. -/
structure Course (i : Instr) (f : Fields) (s : State) where
  g : Bank → Bool
  eff : State → Eff
  off : ∀ b, guardMask b f = 0#128 → g b = false
  off0 : i.elementwise = false → ∀ b, guard0 b f = false → g b = false
  eq : exec i s = .next (runWith g f eff s)

theorem guard0_off (f : Fields) (b : Bank) (h : guardMask b f = 0#128) : guard0 b f = false := by simp [guard0, h]

theorem mask_off (f : Fields) (size : Bank → Nat) (b : Bank) (h : guardMask b f = 0#128) :
    (if size b = 0 then guardMask b f != 0#128 else anyActive (size b) (guardMask b f)) = false := by
  simp [h, anyActive, active]

def Course.of (i : Instr) (f : Fields) (s : State) (eff : State → Eff) (e : exec i s = .next (run f eff s)) : Course i f s :=
  ⟨_, eff, guard0_off f, fun _ _ h => h, e⟩

def Course.issue (i : Instr) (f : Fields) (s : State) (k : Instr) (size : Bank → Nat)
    (check : State → Option FaultInfo) (tag : Bank → Option (BitVec 4)) (long : Bool) (prep : State → Cmd → Cmd)
    (e : exec i s = .next (vecIssue k f size check tag long prep s)) (m : i.elementwise = true := by rfl) : Course i f s :=
  ⟨_, _, mask_off f size, fun h => absurd (m.symm.trans h) (by decide), e⟩

def Course.arith (i : Instr) (f : Fields) (s : State) (k : Instr) (long : Bool) (tag : Bank → Option (BitVec 4))
    (srcs : List (Operand × Nat)) (e : exec i s = .next (arith k f long tag srcs s)) (m : i.elementwise = true := by rfl) : Course i f s :=
  Course.issue i f s k _ _ tag long _ e m

def course_add (f : Fields) (s : State) : Course (.add f) f s := Course.of _ f s _ (by unfold exec; exact rfl)
def course_sub (f : Fields) (s : State) : Course (.sub f) f s := Course.of _ f s _ (by unfold exec; exact rfl)
def course_mul (f : Fields) (s : State) : Course (.mul f) f s := Course.of _ f s _ (by unfold exec; exact rfl)
def course_mulh (f : Fields) (s : State) : Course (.mulh f) f s := Course.of _ f s _ (by unfold exec; exact rfl)
def course_mulhn (f : Fields) (s : State) : Course (.mulhn f) f s := Course.of _ f s _ (by unfold exec; exact rfl)
def course_div (f : Fields) (s : State) : Course (.div f) f s := Course.of _ f s _ (by unfold exec; exact rfl)
def course_divn (f : Fields) (s : State) : Course (.divn f) f s := Course.of _ f s _ (by unfold exec; exact rfl)
def course_rem (f : Fields) (s : State) : Course (.rem f) f s := Course.of _ f s _ (by unfold exec; exact rfl)
def course_remn (f : Fields) (s : State) : Course (.remn f) f s := Course.of _ f s _ (by unfold exec; exact rfl)
def course_and (f : Fields) (s : State) : Course (.and f) f s := Course.of _ f s _ (by unfold exec; exact rfl)
def course_or (f : Fields) (s : State) : Course (.or f) f s := Course.of _ f s _ (by unfold exec; exact rfl)
def course_xor (f : Fields) (s : State) : Course (.xor f) f s := Course.of _ f s _ (by unfold exec; exact rfl)
def course_andn (f : Fields) (s : State) : Course (.andn f) f s := Course.of _ f s _ (by unfold exec; exact rfl)
def course_shl (f : Fields) (s : State) : Course (.shl f) f s := Course.of _ f s _ (by unfold exec; exact rfl)
def course_shr (f : Fields) (s : State) : Course (.shr f) f s := Course.of _ f s _ (by unfold exec; exact rfl)
def course_sar (f : Fields) (s : State) : Course (.sar f) f s := Course.of _ f s _ (by unfold exec; exact rfl)
def course_rol (f : Fields) (s : State) : Course (.rol f) f s := Course.of _ f s _ (by unfold exec; exact rfl)
def course_clz (f : Fields) (s : State) : Course (.clz f) f s := Course.of _ f s _ (by unfold exec; exact rfl)
def course_ctz (f : Fields) (s : State) : Course (.ctz f) f s := Course.of _ f s _ (by unfold exec; exact rfl)
def course_popc (f : Fields) (s : State) : Course (.popc f) f s := Course.of _ f s _ (by unfold exec; exact rfl)
def course_min (f : Fields) (s : State) : Course (.min f) f s := Course.of _ f s _ (by unfold exec; exact rfl)
def course_minn (f : Fields) (s : State) : Course (.minn f) f s := Course.of _ f s _ (by unfold exec; exact rfl)
def course_max (f : Fields) (s : State) : Course (.max f) f s := Course.of _ f s _ (by unfold exec; exact rfl)
def course_maxn (f : Fields) (s : State) : Course (.maxn f) f s := Course.of _ f s _ (by unfold exec; exact rfl)
def course_abs (f : Fields) (s : State) : Course (.abs f) f s := Course.of _ f s _ (by unfold exec; exact rfl)
def course_sel (f : Fields) (s : State) : Course (.sel f) f s := Course.of _ f s _ (by unfold exec; exact rfl)
def course_mov (f : Fields) (s : State) : Course (.mov f) f s := Course.of _ f s _ (by unfold exec; exact rfl)
def course_movi (f : Fields) (s : State) : Course (.movi f) f s := Course.of _ f s _ (by unfold exec; exact rfl)
def course_lea (f : Fields) (s : State) : Course (.lea f) f s := Course.of _ f s _ (by unfold exec; exact rfl)
def course_sext (f : Fields) (s : State) : Course (.sext f) f s := Course.of _ f s _ (by unfold exec; exact rfl)
def course_zext (f : Fields) (s : State) : Course (.zext f) f s := Course.of _ f s _ (by unfold exec; exact rfl)
def course_bfx (f : Fields) (s : State) : Course (.bfx f) f s := Course.of _ f s _ (by unfold exec; exact rfl)
def course_bfi (f : Fields) (s : State) : Course (.bfi f) f s := Course.of _ f s _ (by unfold exec; exact rfl)
def course_cmp (f : Fields) (s : State) : Course (.cmp f) f s := Course.of _ f s _ (by unfold exec; exact rfl)
def course_plog (f : Fields) (s : State) : Course (.plog f) f s := Course.of _ f s _ (by unfold exec; exact rfl)
def course_pmov (f : Fields) (s : State) : Course (.pmov f) f s := Course.of _ f s _ (by unfold exec; exact rfl)
def course_fadd (f : Fields) (s : State) : Course (.fadd f) f s := Course.of _ f s _ (by unfold exec; exact rfl)
def course_fsub (f : Fields) (s : State) : Course (.fsub f) f s := Course.of _ f s _ (by unfold exec; exact rfl)
def course_fmul (f : Fields) (s : State) : Course (.fmul f) f s := Course.of _ f s _ (by unfold exec; exact rfl)
def course_ffma (f : Fields) (s : State) : Course (.ffma f) f s := Course.of _ f s _ (by unfold exec; exact rfl)
def course_fdiv (f : Fields) (s : State) : Course (.fdiv f) f s := Course.of _ f s _ (by unfold exec; exact rfl)
def course_fsqrt (f : Fields) (s : State) : Course (.fsqrt f) f s := Course.of _ f s _ (by unfold exec; exact rfl)
def course_fmin (f : Fields) (s : State) : Course (.fmin f) f s := Course.of _ f s _ (by unfold exec; exact rfl)
def course_fmax (f : Fields) (s : State) : Course (.fmax f) f s := Course.of _ f s _ (by unfold exec; exact rfl)
def course_fcmp (f : Fields) (s : State) : Course (.fcmp f) f s := Course.of _ f s _ (by unfold exec; exact rfl)
def course_fcvt (f : Fields) (s : State) : Course (.fcvt f) f s := Course.of _ f s _ (by unfold exec; exact rfl)
def course_fclass (f : Fields) (s : State) : Course (.fclass f) f s := Course.of _ f s _ (by unfold exec; exact rfl)
def course_fsgn (f : Fields) (s : State) : Course (.fsgn f) f s := Course.of _ f s _ (by unfold exec; exact rfl)
def course_br (f : Fields) (s : State) : Course (.br f) f s := Course.of _ f s _ (by unfold exec; exact rfl)
def course_brx (f : Fields) (s : State) : Course (.brx f) f s := Course.of _ f s _ (by unfold exec; exact rfl)
def course_call (f : Fields) (s : State) : Course (.call f) f s := Course.of _ f s _ (by unfold exec; exact rfl)
def course_ret (f : Fields) (s : State) : Course (.ret f) f s := Course.of _ f s _ (by unfold exec; exact rfl)
def course_loop (f : Fields) (s : State) : Course (.loop f) f s := Course.of _ f s _ (by unfold exec; exact rfl)
def course_endTask (f : Fields) (s : State) : Course (.endTask f) f s := Course.of _ f s _ (by unfold exec; exact rfl)
def course_send (f : Fields) (s : State) : Course (.send f) f s := Course.of _ f s _ (by unfold exec; exact rfl)
def course_spawn (f : Fields) (s : State) : Course (.spawn f) f s := Course.of _ f s _ (by unfold exec; exact rfl)
def course_bind (f : Fields) (s : State) : Course (.bind f) f s := Course.of _ f s _ (by unfold exec; exact rfl)
def course_unbind (f : Fields) (s : State) : Course (.unbind f) f s := Course.of _ f s _ (by unfold exec; exact rfl)
def course_chctl (f : Fields) (s : State) : Course (.chctl f) f s := Course.of _ f s _ (by unfold exec; exact rfl)
def course_mwin (f : Fields) (s : State) : Course (.mwin f) f s := Course.of _ f s _ (by unfold exec; exact rfl)
def course_qsend (f : Fields) (s : State) : Course (.qsend f) f s := Course.of _ f s _ (by unfold exec; exact rfl)
def course_home (f : Fields) (s : State) : Course (.home f) f s := Course.of _ f s _ (by unfold exec; exact rfl)
def course_csrr (f : Fields) (s : State) : Course (.csrr f) f s := Course.of _ f s _ (by unfold exec; exact rfl)
def course_csrw (f : Fields) (s : State) : Course (.csrw f) f s := Course.of _ f s _ (by unfold exec; exact rfl)
def course_trap (f : Fields) (s : State) : Course (.trap f) f s := Course.of _ f s _ (by unfold exec; exact rfl)
def course_brk (f : Fields) (s : State) : Course (.brk f) f s := Course.of _ f s _ (by unfold exec; exact rfl)
def course_ld (f : Fields) (s : State) : Course (.ld f) f s := Course.of _ f s _ (by unfold exec; exact rfl)
def course_st (f : Fields) (s : State) : Course (.st f) f s := Course.of _ f s _ (by unfold exec; exact rfl)
def course_ldv (f : Fields) (s : State) : Course (.ldv f) f s := Course.issue _ f s _ _ _ _ _ _ (by unfold exec; exact rfl)
def course_stv (f : Fields) (s : State) : Course (.stv f) f s := Course.issue _ f s _ _ _ _ _ _ (by unfold exec; exact rfl)
def course_ldvs (f : Fields) (s : State) : Course (.ldvs f) f s := Course.issue _ f s _ _ _ _ _ _ (by unfold exec; exact rfl)
def course_stvs (f : Fields) (s : State) : Course (.stvs f) f s := Course.issue _ f s _ _ _ _ _ _ (by unfold exec; exact rfl)
def course_ldvg (f : Fields) (s : State) : Course (.ldvg f) f s := Course.issue _ f s _ _ _ _ _ _ (by unfold exec; exact rfl)
def course_stvx (f : Fields) (s : State) : Course (.stvx f) f s := Course.issue _ f s _ _ _ _ _ _ (by unfold exec; exact rfl)
def course_ldf (f : Fields) (s : State) : Course (.ldf f) f s := Course.of _ f s _ (by unfold exec; exact rfl)
def course_sete (f : Fields) (s : State) : Course (.sete f) f s := Course.of _ f s _ (by unfold exec; exact rfl)
def course_watch (f : Fields) (s : State) : Course (.watch f) f s := Course.of _ f s _ (by unfold exec; exact rfl)
def course_amo (f : Fields) (s : State) : Course (.amo f) f s := Course.of _ f s _ (by unfold exec; exact rfl)
def course_cas (f : Fields) (s : State) : Course (.cas f) f s := Course.of _ f s _ (by unfold exec; exact rfl)
def course_amom (f : Fields) (s : State) : Course (.amom f) f s := Course.of _ f s _ (by unfold exec; exact rfl)
def course_fence (f : Fields) (s : State) : Course (.fence f) f s := Course.of _ f s _ (by unfold exec; exact rfl)
def course_ntdrain (f : Fields) (s : State) : Course (.ntdrain f) f s := Course.of _ f s _ (by unfold exec; exact rfl)
def course_pref (f : Fields) (s : State) : Course (.pref f) f s := Course.of _ f s _ (by unfold exec; exact rfl)
def course_discard (f : Fields) (s : State) : Course (.discard f) f s := Course.of _ f s _ (by unfold exec; exact rfl)
def course_stmap (f : Fields) (s : State) : Course (.stmap f) f s := Course.of _ f s _ (by unfold exec; exact rfl)
def course_stsync (f : Fields) (s : State) : Course (.stsync f) f s := Course.of _ f s _ (by unfold exec; exact rfl)
def course_capgive (f : Fields) (s : State) : Course (.capgive f) f s := Course.of _ f s _ (by unfold exec; exact rfl)
def course_sealCap (f : Fields) (s : State) : Course (.sealCap f) f s := Course.of _ f s _ (by unfold exec; exact rfl)
def course_claim (f : Fields) (s : State) : Course (.claim f) f s := Course.of _ f s _ (by unfold exec; exact rfl)
def course_rmode (f : Fields) (s : State) : Course (.rmode f) f s := Course.of _ f s _ (by unfold exec; exact rfl)
def course_vadd (f : Fields) (s : State) : Course (.vadd f) f s := Course.arith _ f s _ _ _ _ (by unfold exec; exact rfl)
def course_vsub (f : Fields) (s : State) : Course (.vsub f) f s := Course.arith _ f s _ _ _ _ (by unfold exec; exact rfl)
def course_vmul (f : Fields) (s : State) : Course (.vmul f) f s := Course.arith _ f s _ _ _ _ (by unfold exec; exact rfl)
def course_vfma (f : Fields) (s : State) : Course (.vfma f) f s := Course.arith _ f s _ _ _ _ (by unfold exec; exact rfl)
def course_vdiv (f : Fields) (s : State) : Course (.vdiv f) f s := Course.arith _ f s _ _ _ _ (by unfold exec; exact rfl)
def course_vsqrt (f : Fields) (s : State) : Course (.vsqrt f) f s := Course.arith _ f s _ _ _ _ (by unfold exec; exact rfl)
def course_vmin (f : Fields) (s : State) : Course (.vmin f) f s := Course.arith _ f s _ _ _ _ (by unfold exec; exact rfl)
def course_vmax (f : Fields) (s : State) : Course (.vmax f) f s := Course.arith _ f s _ _ _ _ (by unfold exec; exact rfl)
def course_vabs (f : Fields) (s : State) : Course (.vabs f) f s := Course.arith _ f s _ _ _ _ (by unfold exec; exact rfl)
def course_vneg (f : Fields) (s : State) : Course (.vneg f) f s := Course.arith _ f s _ _ _ _ (by unfold exec; exact rfl)
def course_vand (f : Fields) (s : State) : Course (.vand f) f s := Course.arith _ f s _ _ _ _ (by unfold exec; exact rfl)
def course_vor (f : Fields) (s : State) : Course (.vor f) f s := Course.arith _ f s _ _ _ _ (by unfold exec; exact rfl)
def course_vxor (f : Fields) (s : State) : Course (.vxor f) f s := Course.arith _ f s _ _ _ _ (by unfold exec; exact rfl)
def course_vshl (f : Fields) (s : State) : Course (.vshl f) f s := Course.arith _ f s _ _ _ _ (by unfold exec; exact rfl)
def course_vshr (f : Fields) (s : State) : Course (.vshr f) f s := Course.arith _ f s _ _ _ _ (by unfold exec; exact rfl)
def course_vsar (f : Fields) (s : State) : Course (.vsar f) f s := Course.arith _ f s _ _ _ _ (by unfold exec; exact rfl)
def course_vcmp (f : Fields) (s : State) : Course (.vcmp f) f s := Course.arith _ f s _ _ _ _ (by unfold exec; exact rfl)
def course_vsel (f : Fields) (s : State) : Course (.vsel f) f s := Course.issue _ f s _ _ _ _ _ _ (by unfold exec; exact rfl)
def course_vmov (f : Fields) (s : State) : Course (.vmov f) f s :=
  if h : f.mod = 0 then Course.issue _ f s _ _ _ _ _ _ (congrArg Host.Outcome.next (if_pos h))
  else Course.issue _ f s _ _ _ _ _ _ (congrArg Host.Outcome.next (if_neg h))

def course_vsplat (f : Fields) (s : State) : Course (.vsplat f) f s := Course.issue _ f s _ _ _ _ _ _ (by unfold exec; exact rfl)
def course_vred (f : Fields) (s : State) : Course (.vred f) f s := Course.arith _ f s _ _ _ _ (by unfold exec; exact rfl)
def course_vscan (f : Fields) (s : State) : Course (.vscan f) f s := Course.arith _ f s _ _ _ _ (by unfold exec; exact rfl)
def course_viota (f : Fields) (s : State) : Course (.viota f) f s := Course.issue _ f s _ _ _ _ _ _ (by unfold exec; exact rfl)
def course_vwhile (f : Fields) (s : State) : Course (.vwhile f) f s := Course.of _ f s _ (by unfold exec; exact rfl)
def course_vlen (f : Fields) (s : State) : Course (.vlen f) f s := Course.of _ f s _ (by unfold exec; exact rfl)
def course_vpcnt (f : Fields) (s : State) : Course (.vpcnt f) f s := Course.of _ f s _ (by unfold exec; exact rfl)
def course_vpfirst (f : Fields) (s : State) : Course (.vpfirst f) f s := Course.of _ f s _ (by unfold exec; exact rfl)
def course_vget (f : Fields) (s : State) : Course (.vget f) f s := Course.of _ f s _ (by unfold exec; exact rfl)
def course_vput (f : Fields) (s : State) : Course (.vput f) f s := Course.of _ f s _ (by unfold exec; exact rfl)
def course_vperm (f : Fields) (s : State) : Course (.vperm f) f s := Course.issue _ f s _ _ _ _ _ _ (by unfold exec; exact rfl)
def course_vcmpr (f : Fields) (s : State) : Course (.vcmpr f) f s := Course.issue _ f s _ _ _ _ _ _ (by unfold exec; exact rfl)
def course_vexpd (f : Fields) (s : State) : Course (.vexpd f) f s := Course.issue _ f s _ _ _ _ _ _ (by unfold exec; exact rfl)
def course_vsfu (f : Fields) (s : State) : Course (.vsfu f) f s := Course.issue _ f s _ _ _ _ _ _ (by unfold exec; exact rfl)
def course_vcvt (f : Fields) (s : State) : Course (.vcvt f) f s := Course.issue _ f s _ _ _ _ _ _ (by unfold exec; exact rfl)
def course_vqnt (f : Fields) (s : State) : Course (.vqnt f) f s := Course.issue _ f s _ _ _ _ _ _ (by unfold exec; exact rfl)
def course_vrtag (f : Fields) (s : State) : Course (.vrtag f) f s := Course.issue _ f s _ _ _ _ _ _ (by unfold exec; exact rfl)
def course_pack5t (f : Fields) (s : State) : Course (.pack5t f) f s := Course.issue _ f s _ _ _ _ _ _ (by unfold exec; exact rfl)
def course_unpk5t (f : Fields) (s : State) : Course (.unpk5t f) f s := Course.issue _ f s _ _ _ _ _ _ (by unfold exec; exact rfl)
def course_cpy (f : Fields) (s : State) : Course (.cpy f) f s := Course.of _ f s _ (by unfold exec; exact rfl)
def course_cpyg (f : Fields) (s : State) : Course (.cpyg f) f s := Course.of _ f s _ (by unfold exec; exact rfl)
def course_cpyx (f : Fields) (s : State) : Course (.cpyx f) f s := Course.of _ f s _ (by unfold exec; exact rfl)
def course_cpyl (f : Fields) (s : State) : Course (.cpyl f) f s := Course.of _ f s _ (by unfold exec; exact rfl)
def course_cpyset (f : Fields) (s : State) : Course (.cpyset f) f s := Course.of _ f s _ (by unfold exec; exact rfl)
def course_wcfg (f : Fields) (s : State) : Course (.wcfg f) f s := Course.of _ f s _ (by unfold exec; exact rfl)
def course_wload (f : Fields) (s : State) : Course (.wload f) f s := Course.of _ f s _ (by unfold exec; exact rfl)
def course_wscl (f : Fields) (s : State) : Course (.wscl f) f s := Course.of _ f s _ (by unfold exec; exact rfl)
def course_wrun (f : Fields) (s : State) : Course (.wrun f) f s := Course.of _ f s _ (by unfold exec; exact rfl)
def course_wdrain (f : Fields) (s : State) : Course (.wdrain f) f s := Course.of _ f s _ (by unfold exec; exact rfl)
def course_wzero (f : Fields) (s : State) : Course (.wzero f) f s := Course.of _ f s _ (by unfold exec; exact rfl)
def course_wstat (f : Fields) (s : State) : Course (.wstat f) f s := Course.of _ f s _ (by unfold exec; exact rfl)
def course_gcfg (f : Fields) (s : State) : Course (.gcfg f) f s := Course.of _ f s _ (by unfold exec; exact rfl)
def course_gbld (f : Fields) (s : State) : Course (.gbld f) f s := Course.of _ f s _ (by unfold exec; exact rfl)
def course_gmm (f : Fields) (s : State) : Course (.gmm f) f s := Course.of _ f s _ (by unfold exec; exact rfl)
def course_gzero (f : Fields) (s : State) : Course (.gzero f) f s := Course.of _ f s _ (by unfold exec; exact rfl)
def course_grd (f : Fields) (s : State) : Course (.grd f) f s := Course.of _ f s _ (by unfold exec; exact rfl)
def course_gst (f : Fields) (s : State) : Course (.gst f) f s := Course.of _ f s _ (by unfold exec; exact rfl)
def course_gwait (f : Fields) (s : State) : Course (.gwait f) f s := Course.of _ f s _ (by unfold exec; exact rfl)
def course_pload (f : Fields) (s : State) : Course (.pload f) f s := Course.of _ f s _ (by unfold exec; exact rfl)
def course_pfree (f : Fields) (s : State) : Course (.pfree f) f s := Course.of _ f s _ (by unfold exec; exact rfl)
def course_popen (f : Fields) (s : State) : Course (.popen f) f s := Course.of _ f s _ (by unfold exec; exact rfl)
def course_pclose (f : Fields) (s : State) : Course (.pclose f) f s := Course.of _ f s _ (by unfold exec; exact rfl)
def course_put (f : Fields) (s : State) : Course (.put f) f s := Course.of _ f s _ (by unfold exec; exact rfl)
def course_get (f : Fields) (s : State) : Course (.get f) f s := Course.of _ f s _ (by unfold exec; exact rfl)
def course_pcancel (f : Fields) (s : State) : Course (.pcancel f) f s := Course.of _ f s _ (by unfold exec; exact rfl)
def course_pbind (f : Fields) (s : State) : Course (.pbind f) f s := Course.of _ f s _ (by unfold exec; exact rfl)
def course_pstat (f : Fields) (s : State) : Course (.pstat f) f s := Course.of _ f s _ (by unfold exec; exact rfl)
def course_unif (f : Fields) (s : State) : Course (.unif f) f s := Course.of _ f s _ (by unfold exec; exact rfl)
def course_spstop (f : Fields) (s : State) : Course (.spstop f) f s := Course.of _ f s _ (by unfold exec; exact rfl)
def course_spinv (f : Fields) (s : State) : Course (.spinv f) f s := Course.of _ f s _ (by unfold exec; exact rfl)
def course_spqry (f : Fields) (s : State) : Course (.spqry f) f s := Course.of _ f s _ (by unfold exec; exact rfl)
def course_join (f : Fields) (s : State) : Course (.join f) f s := Course.of _ f s _ (by unfold exec; exact rfl)
def course_leave (f : Fields) (s : State) : Course (.leave f) f s := Course.of _ f s _ (by unfold exec; exact rfl)
def course_cbar (f : Fields) (s : State) : Course (.cbar f) f s := Course.of _ f s _ (by unfold exec; exact rfl)
def course_cgath (f : Fields) (s : State) : Course (.cgath f) f s := Course.of _ f s _ (by unfold exec; exact rfl)
def course_creds (f : Fields) (s : State) : Course (.creds f) f s := Course.of _ f s _ (by unfold exec; exact rfl)
def course_cxch (f : Fields) (s : State) : Course (.cxch f) f s := Course.of _ f s _ (by unfold exec; exact rfl)

/-- The course of an encoded instruction. -/
def courseOf (i : Instr) (f : Fields) (s : State) (h : i.fields? = some f) (n : i ≠ .cpyc f) : Course i f s := by
  cases i
  case add g => cases h; exact course_add f s
  case sub g => cases h; exact course_sub f s
  case mul g => cases h; exact course_mul f s
  case mulh g => cases h; exact course_mulh f s
  case mulhn g => cases h; exact course_mulhn f s
  case div g => cases h; exact course_div f s
  case divn g => cases h; exact course_divn f s
  case rem g => cases h; exact course_rem f s
  case remn g => cases h; exact course_remn f s
  case and g => cases h; exact course_and f s
  case or g => cases h; exact course_or f s
  case xor g => cases h; exact course_xor f s
  case andn g => cases h; exact course_andn f s
  case shl g => cases h; exact course_shl f s
  case shr g => cases h; exact course_shr f s
  case sar g => cases h; exact course_sar f s
  case rol g => cases h; exact course_rol f s
  case clz g => cases h; exact course_clz f s
  case ctz g => cases h; exact course_ctz f s
  case popc g => cases h; exact course_popc f s
  case min g => cases h; exact course_min f s
  case minn g => cases h; exact course_minn f s
  case max g => cases h; exact course_max f s
  case maxn g => cases h; exact course_maxn f s
  case abs g => cases h; exact course_abs f s
  case sel g => cases h; exact course_sel f s
  case mov g => cases h; exact course_mov f s
  case movi g => cases h; exact course_movi f s
  case lea g => cases h; exact course_lea f s
  case sext g => cases h; exact course_sext f s
  case zext g => cases h; exact course_zext f s
  case bfx g => cases h; exact course_bfx f s
  case bfi g => cases h; exact course_bfi f s
  case cmp g => cases h; exact course_cmp f s
  case plog g => cases h; exact course_plog f s
  case pmov g => cases h; exact course_pmov f s
  case fadd g => cases h; exact course_fadd f s
  case fsub g => cases h; exact course_fsub f s
  case fmul g => cases h; exact course_fmul f s
  case ffma g => cases h; exact course_ffma f s
  case fdiv g => cases h; exact course_fdiv f s
  case fsqrt g => cases h; exact course_fsqrt f s
  case fmin g => cases h; exact course_fmin f s
  case fmax g => cases h; exact course_fmax f s
  case fcmp g => cases h; exact course_fcmp f s
  case fcvt g => cases h; exact course_fcvt f s
  case fclass g => cases h; exact course_fclass f s
  case fsgn g => cases h; exact course_fsgn f s
  case br g => cases h; exact course_br f s
  case brx g => cases h; exact course_brx f s
  case call g => cases h; exact course_call f s
  case ret g => cases h; exact course_ret f s
  case loop g => cases h; exact course_loop f s
  case endTask g => cases h; exact course_endTask f s
  case send g => cases h; exact course_send f s
  case spawn g => cases h; exact course_spawn f s
  case bind g => cases h; exact course_bind f s
  case unbind g => cases h; exact course_unbind f s
  case chctl g => cases h; exact course_chctl f s
  case mwin g => cases h; exact course_mwin f s
  case qsend g => cases h; exact course_qsend f s
  case home g => cases h; exact course_home f s
  case csrr g => cases h; exact course_csrr f s
  case csrw g => cases h; exact course_csrw f s
  case trap g => cases h; exact course_trap f s
  case brk g => cases h; exact course_brk f s
  case ld g => cases h; exact course_ld f s
  case st g => cases h; exact course_st f s
  case ldv g => cases h; exact course_ldv f s
  case stv g => cases h; exact course_stv f s
  case ldvs g => cases h; exact course_ldvs f s
  case stvs g => cases h; exact course_stvs f s
  case ldvg g => cases h; exact course_ldvg f s
  case stvx g => cases h; exact course_stvx f s
  case ldf g => cases h; exact course_ldf f s
  case sete g => cases h; exact course_sete f s
  case watch g => cases h; exact course_watch f s
  case amo g => cases h; exact course_amo f s
  case cas g => cases h; exact course_cas f s
  case amom g => cases h; exact course_amom f s
  case fence g => cases h; exact course_fence f s
  case ntdrain g => cases h; exact course_ntdrain f s
  case pref g => cases h; exact course_pref f s
  case discard g => cases h; exact course_discard f s
  case stmap g => cases h; exact course_stmap f s
  case stsync g => cases h; exact course_stsync f s
  case capgive g => cases h; exact course_capgive f s
  case sealCap g => cases h; exact course_sealCap f s
  case claim g => cases h; exact course_claim f s
  case rmode g => cases h; exact course_rmode f s
  case vadd g => cases h; exact course_vadd f s
  case vsub g => cases h; exact course_vsub f s
  case vmul g => cases h; exact course_vmul f s
  case vfma g => cases h; exact course_vfma f s
  case vdiv g => cases h; exact course_vdiv f s
  case vsqrt g => cases h; exact course_vsqrt f s
  case vmin g => cases h; exact course_vmin f s
  case vmax g => cases h; exact course_vmax f s
  case vabs g => cases h; exact course_vabs f s
  case vneg g => cases h; exact course_vneg f s
  case vand g => cases h; exact course_vand f s
  case vor g => cases h; exact course_vor f s
  case vxor g => cases h; exact course_vxor f s
  case vshl g => cases h; exact course_vshl f s
  case vshr g => cases h; exact course_vshr f s
  case vsar g => cases h; exact course_vsar f s
  case vcmp g => cases h; exact course_vcmp f s
  case vsel g => cases h; exact course_vsel f s
  case vmov g => cases h; exact course_vmov f s
  case vsplat g => cases h; exact course_vsplat f s
  case vred g => cases h; exact course_vred f s
  case vscan g => cases h; exact course_vscan f s
  case viota g => cases h; exact course_viota f s
  case vwhile g => cases h; exact course_vwhile f s
  case vlen g => cases h; exact course_vlen f s
  case vpcnt g => cases h; exact course_vpcnt f s
  case vpfirst g => cases h; exact course_vpfirst f s
  case vget g => cases h; exact course_vget f s
  case vput g => cases h; exact course_vput f s
  case vperm g => cases h; exact course_vperm f s
  case vcmpr g => cases h; exact course_vcmpr f s
  case vexpd g => cases h; exact course_vexpd f s
  case vsfu g => cases h; exact course_vsfu f s
  case vcvt g => cases h; exact course_vcvt f s
  case vqnt g => cases h; exact course_vqnt f s
  case vrtag g => cases h; exact course_vrtag f s
  case pack5t g => cases h; exact course_pack5t f s
  case unpk5t g => cases h; exact course_unpk5t f s
  case cpy g => cases h; exact course_cpy f s
  case cpyg g => cases h; exact course_cpyg f s
  case cpyx g => cases h; exact course_cpyx f s
  case cpyl g => cases h; exact course_cpyl f s
  case cpyset g => cases h; exact course_cpyset f s
  case cpyc g => exact absurd (by cases h; rfl) n
  case wcfg g => cases h; exact course_wcfg f s
  case wload g => cases h; exact course_wload f s
  case wscl g => cases h; exact course_wscl f s
  case wrun g => cases h; exact course_wrun f s
  case wdrain g => cases h; exact course_wdrain f s
  case wzero g => cases h; exact course_wzero f s
  case wstat g => cases h; exact course_wstat f s
  case gcfg g => cases h; exact course_gcfg f s
  case gbld g => cases h; exact course_gbld f s
  case gmm g => cases h; exact course_gmm f s
  case gzero g => cases h; exact course_gzero f s
  case grd g => cases h; exact course_grd f s
  case gst g => cases h; exact course_gst f s
  case gwait g => cases h; exact course_gwait f s
  case pload g => cases h; exact course_pload f s
  case pfree g => cases h; exact course_pfree f s
  case popen g => cases h; exact course_popen f s
  case pclose g => cases h; exact course_pclose f s
  case put g => cases h; exact course_put f s
  case get g => cases h; exact course_get f s
  case pcancel g => cases h; exact course_pcancel f s
  case pbind g => cases h; exact course_pbind f s
  case pstat g => cases h; exact course_pstat f s
  case unif g => cases h; exact course_unif f s
  case spstop g => cases h; exact course_spstop f s
  case spinv g => cases h; exact course_spinv f s
  case spqry g => cases h; exact course_spqry f s
  case join g => cases h; exact course_join f s
  case leave g => cases h; exact course_leave f s
  case cbar g => cases h; exact course_cbar f s
  case cgath g => cases h; exact course_cgath f s
  case creds g => cases h; exact course_creds f s
  case cxch g => cases h; exact course_cxch f s
  all_goals cases h

theorem exec_violation (i : Instr) (f : Fields) (s : State) (h : i.fields? = some f) (n : i ≠ .cpyc f) (x : FaultInfo)
    (v : violation s s.bank.task f = some x) : exec i s = .next (raise s x .lookahead) := by
  rw [(courseOf i f s h n).eq, runWith_violation _ _ _ _ _ v]

theorem exec_waits (i : Instr) (f : Fields) (s : State) (h : i.fields? = some f) (n : i ≠ .cpyc f)
    (v : violation s s.bank.task f = none) (w : s.here.waits (fieldRegs f) = true) : exec i s = .next s := by
  rw [(courseOf i f s h n).eq, runWith_waits _ _ _ _ v w]

theorem exec_inactive (i : Instr) (f : Fields) (s : State) (h : i.fields? = some f) (n : i ≠ .cpyc f) (q : Issues f s)
    (z : guardMask s.bank f = 0#128) : exec i s = .next (retire s f none) := by
  let c := courseOf i f s h n
  rw [c.eq, runWith_inactive _ _ _ _ q (c.off _ z)]

theorem exec_inactive0 (i : Instr) (f : Fields) (s : State) (h : i.fields? = some f) (n : i ≠ .cpyc f) (q : Issues f s)
    (e : i.elementwise = false) (z : guard0 s.bank f = false) : exec i s = .next (retire s f none) := by
  let c := courseOf i f s h n
  rw [c.eq, runWith_inactive _ _ _ _ q (c.off0 e _ z)]

end Sys2Proof.Machine
end

