-- ==== Sys2Proof/Laws/Lists.lean ====
section
/-! SUPPORT. The keyed lists and the list edits that the machine's tables are made of. -/

namespace Sys2Proof.Machine

theorem getBy_putBy_same {α : Type} (key : α → Nat) (l : List α) (x : α) : getBy key (putBy key l x) (key x) = some x := by
  induction l with
  | nil => simp [putBy, getBy]
  | cons h t ih =>
    simp only [putBy]
    split
    · simp [getBy]
    · split
      · simp [getBy]
      · simp [getBy, *]

theorem getBy_putBy_other {α : Type} (key : α → Nat) (l : List α) (x : α) (k : Nat) (ne : key x ≠ k) :
    getBy key (putBy key l x) k = getBy key l k := by
  induction l with
  | nil => simp [putBy, getBy, ne]
  | cons h t ih =>
    simp only [putBy]
    split
    · rename_i e
      have : key h ≠ k := by omega
      simp [getBy, ne, this]
    · split
      · simp [getBy, ne]
      · simp [getBy, ih]

/-- Reading a table after writing it: the written entry under its key, the old one elsewhere. -/
theorem getBy_putBy {α : Type} (key : α → Nat) (l : List α) (x : α) (k : Nat) :
    getBy key (putBy key l x) k = if key x = k then some x else getBy key l k := by
  split
  · rename_i e; subst e; exact getBy_putBy_same key l x
  · rename_i ne; exact getBy_putBy_other key l x k ne

theorem getBy_key {α : Type} (key : α → Nat) (l : List α) (k : Nat) (x : α) (h : getBy key l k = some x) : key x = k := by
  induction l with
  | nil => simp [getBy] at h
  | cons a t ih =>
    simp only [getBy] at h
    split at h
    · rename_i e; cases h; exact e
    · exact ih h

/-- Writing the same key twice leaves the second. -/
theorem putBy_putBy {α : Type} (key : α → Nat) (l : List α) (x y : α) (e : key x = key y) :
    putBy key (putBy key l x) y = putBy key l y := by
  induction l with
  | nil => simp [putBy, e]
  | cons h t ih =>
    simp only [putBy, e]
    split
    · simp [putBy, e]
    · split
      · simp [putBy, e]
      · simp [putBy, *]

theorem length_setAt {α : Type} (l : List α) (n : Nat) (x : α) : (setAt l n x).length = l.length := by
  induction l generalizing n with
  | nil => rfl
  | cons h t ih => cases n <;> simp [setAt, ih]

theorem toBytes_length (n x : Nat) : (toBytes n x).length = n := by
  induction n generalizing x with
  | zero => rfl
  | succ n ih => simp [toBytes, ih]

/-- Little-endian bytes give back the natural they were made from, modulo their size (R4). -/
theorem ofBytes_toBytes (n x : Nat) : ofBytes (toBytes n x) = x % 256 ^ n := by
  induction n generalizing x with
  | zero => simp [toBytes, ofBytes, Nat.mod_one]
  | succ n ih =>
    simp only [toBytes, ofBytes, ih, BitVec.toNat_ofNat]
    exact (Nat.pow_succ' ▸ Nat.mod_mul (a := 256)).symm

theorem ofBytes_lt (bs : List Byte) : ofBytes bs < 256 ^ bs.length := by
  induction bs with
  | nil => simp [ofBytes]
  | cons b t ih =>
    have hb := b.isLt
    simp only [ofBytes, List.length_cons, Nat.pow_succ]
    omega

end Sys2Proof.Machine
end

