-- ==== Sys2Proof/Laws/Memory.lean ====
section
/-! SUPPORT. Memory: read after write, and the canonical form that every write keeps. -/

namespace Sys2Proof.Machine

theorem Memory.wf_nil : Memory.wf [] = true := rfl

theorem Memory.wf_cons (k : Nat) (b : Byte) (t : List Host.Cell) :
    Memory.wf ((k, b) :: t) = true ↔ b ≠ unlisted ∧ Memory.wf t = true ∧ ∀ c ∈ t, k < c.1 := by
  induction t generalizing k b with
  | nil => simp [Memory.wf]
  | cons h t ih =>
    obtain ⟨k', b'⟩ := h
    simp only [Memory.wf, Bool.and_eq_true, bne_iff_ne, ne_eq, decide_eq_true_eq, List.mem_cons, forall_eq_or_imp]
    constructor
    · rintro ⟨⟨hb, hk⟩, hw⟩
      refine ⟨hb, hw, hk, fun c hc => ?_⟩
      exact Nat.lt_trans hk (((ih k' b').1 hw).2.2 c hc)
    · rintro ⟨hb, hw, hk, _⟩
      exact ⟨⟨hb, hk⟩, hw⟩

theorem mem_writeCell (m : List Host.Cell) (a : Nat) (x : Byte) (c : Host.Cell) (h : c ∈ writeCell m a x) :
    c.1 = a ∨ c ∈ m := by
  induction m with
  | nil =>
    simp only [writeCell] at h
    split at h <;> simp_all
  | cons d t ih =>
    obtain ⟨k, b⟩ := d
    simp only [writeCell] at h
    split at h
    · split at h
      · exact .inr h
      · simp only [List.mem_cons] at h ⊢
        rcases h with h | h | h <;> simp_all
    · split at h
      · split at h
        · exact .inr (List.mem_cons_of_mem _ h)
        · simp only [List.mem_cons] at h ⊢
          rcases h with h | h <;> simp_all
      · simp only [List.mem_cons] at h ⊢
        rcases h with h | h
        · exact .inr (.inl h)
        · rcases ih h with h | h
          · exact .inl h
          · exact .inr (.inr h)

/-- A write keeps memory in canonical form. -/
theorem Memory.wf_writeCell (m : List Host.Cell) (a : Nat) (x : Byte) (h : Memory.wf m = true) :
    Memory.wf (writeCell m a x) = true := by
  induction m with
  | nil =>
    simp only [writeCell]
    split <;> simp_all [Memory.wf]
  | cons d t ih =>
    obtain ⟨k, b⟩ := d
    obtain ⟨hb, ht, hk⟩ := (Memory.wf_cons k b t).1 h
    simp only [writeCell]
    split
    · rename_i lt
      split
      · exact h
      · rename_i nx
        refine (Memory.wf_cons a x _).2 ⟨nx, h, fun c hc => ?_⟩
        rcases List.mem_cons.1 hc with rfl | hc
        · exact lt
        · exact Nat.lt_trans lt (hk c hc)
    · split
      · rename_i e
        subst e
        split
        · exact ht
        · rename_i nx
          exact (Memory.wf_cons k x t).2 ⟨nx, ht, hk⟩
      · refine (Memory.wf_cons k b _).2 ⟨hb, ih ht, fun c hc => ?_⟩
        rcases mem_writeCell t a x c hc with e | hc
        · omega
        · exact hk c hc

theorem Memory.wf_writeCells (m : List Host.Cell) (a : Nat) (bs : List Byte) (h : Memory.wf m = true) :
    Memory.wf (writeCells m a bs) = true := by
  induction bs generalizing m a with
  | nil => exact h
  | cons b t ih => exact ih _ _ (Memory.wf_writeCell m a b h)

theorem Memory.wf_writeWord (m : List Host.Cell) (a n x : Nat) (h : Memory.wf m = true) :
    Memory.wf (writeWord m a n x) = true := Memory.wf_writeCells m a _ h

/-- Dropping entries keeps memory in canonical form. -/
theorem Memory.wf_filter (m : List Host.Cell) (p : Host.Cell → Bool) (h : Memory.wf m = true) :
    Memory.wf (m.filter p) = true := by
  induction m with
  | nil => exact h
  | cons d t ih =>
    obtain ⟨k, b⟩ := d
    obtain ⟨hb, ht, hk⟩ := (Memory.wf_cons k b t).1 h
    simp only [List.filter_cons]
    split
    · exact (Memory.wf_cons k b _).2 ⟨hb, ih ht, fun c hc => hk c (List.mem_filter.1 hc).1⟩
    · exact ih ht

theorem readCell_below (m : List Host.Cell) (a : Nat) (h : ∀ c ∈ m, a < c.1) : readCell m a = unlisted := by
  cases m with
  | nil => rfl
  | cons d t => simp [readCell, h d (List.mem_cons_self ..)]

/-- A byte reads as it was last written. -/
theorem readCell_writeCell_same (m : List Host.Cell) (a : Nat) (x : Byte) (h : Memory.wf m = true) :
    readCell (writeCell m a x) a = x := by
  induction m with
  | nil =>
    simp only [writeCell]
    split <;> simp_all [readCell]
  | cons d t ih =>
    obtain ⟨k, b⟩ := d
    obtain ⟨-, ht, hk⟩ := (Memory.wf_cons k b t).1 h
    simp only [writeCell]
    split
    · split <;> simp_all [readCell]
    · split
      · rename_i e
        subst e
        split
        · rename_i e; rw [e]; exact readCell_below t k hk
        · simp [readCell]
      · rename_i n1 n2
        simp [readCell, n1, n2, ih ht]

/-- A write leaves every other byte alone. -/
theorem readCell_writeCell_other (m : List Host.Cell) (a b : Nat) (x : Byte) (h : Memory.wf m = true) (ne : a ≠ b) :
    readCell (writeCell m a x) b = readCell m b := by
  induction m with
  | nil =>
    simp only [writeCell]
    split
    · rfl
    · simp [readCell, ne]
  | cons d t ih =>
    obtain ⟨k, y⟩ := d
    obtain ⟨-, ht, hk⟩ := (Memory.wf_cons k y t).1 h
    simp only [writeCell]
    split
    · rename_i lt
      split
      · rfl
      · simp only [readCell, ne, if_false]
        split
        · have : b < k := by omega
          simp [this]
        · rfl
    · split
      · rename_i e
        subst e
        split
        · simp only [readCell, ne, if_false]
          split
          · exact readCell_below t b fun c hc => Nat.lt_trans ‹_› (hk c hc)
          · rfl
        · simp [readCell, ne]
      · simp only [readCell, ih ht]

theorem readCell_writeCells_outside (m : List Host.Cell) (a b : Nat) (bs : List Byte) (h : Memory.wf m = true)
    (out : b < a ∨ a + bs.length ≤ b) : readCell (writeCells m a bs) b = readCell m b := by
  induction bs generalizing m a with
  | nil => rfl
  | cons x t ih =>
    simp only [List.length_cons] at out
    rw [writeCells, ih _ _ (Memory.wf_writeCell m a x h) (by omega), readCell_writeCell_other m a b x h (by omega)]

/-- Bytes read as they were written. -/
theorem readCells_writeCells (m : List Host.Cell) (a : Nat) (bs : List Byte) (h : Memory.wf m = true) :
    readCells (writeCells m a bs) a bs.length = bs := by
  induction bs generalizing m a with
  | nil => rfl
  | cons x t ih =>
    have hw := Memory.wf_writeCell m a x h
    simp only [writeCells, List.length_cons, readCells]
    rw [readCell_writeCells_outside _ _ _ _ hw (by omega), readCell_writeCell_same m a x h, ih _ _ hw]

/-- A little-endian word reads as it was written (R4). -/
theorem readWord_writeWord (m : List Host.Cell) (a n x : Nat) (h : Memory.wf m = true) :
    readWord (writeWord m a n x) a n = x % 256 ^ n := by
  have e := readCells_writeCells m a (toBytes n x) h
  rw [toBytes_length] at e
  simp [readWord, writeWord, e, ofBytes_toBytes]

/-- Reading a run of bytes that a write does not touch. -/
theorem readCells_congr (m m' : List Host.Cell) (a n : Nat) (h : ∀ k, a ≤ k → k < a + n → readCell m' k = readCell m k) :
    readCells m' a n = readCells m a n := by
  induction n generalizing a with
  | zero => rfl
  | succ n ih =>
    simp only [readCells]
    rw [h a (by omega) (by omega), ih (a + 1) fun k h1 h2 => h k (by omega) (by omega)]

end Sys2Proof.Machine
end

