-- ==== Sys2Proof/Laws/PerInstr.lean ====
section
/-! SUPPORT. Per instruction: its cell of the opcode map is its own (R57-R79). The round trip of the decoder rests on it. -/

namespace Sys2Proof.Laws.Opcode

/-- An encoded instruction has a description, its opcode has 10 bits, and the cell that its opcode names makes exactly this
instruction from its fields; an event has neither fields nor a description. -/
def Statement (i : Instr) : Prop :=
  (match i.fields? with
    | some f => i.opcode < 1024 ∧ (opCell (i.opcode / 64) (i.opcode % 64)).map (fun mk => mk f) = some i
    | none => i.opcode = 1023) ∧ i.info.isSome = i.fields?.isSome

theorem add (f : Fields) : Statement (.add f) := by
  refine ⟨⟨Nat.le_of_ble_eq_true rfl, ?_⟩, rfl⟩; show (opCell (0 / 64) (0 % 64)).map (fun mk => mk f) = some (.add f); rfl
theorem sub (f : Fields) : Statement (.sub f) := by
  refine ⟨⟨Nat.le_of_ble_eq_true rfl, ?_⟩, rfl⟩; show (opCell (1 / 64) (1 % 64)).map (fun mk => mk f) = some (.sub f); rfl
theorem mul (f : Fields) : Statement (.mul f) := by
  refine ⟨⟨Nat.le_of_ble_eq_true rfl, ?_⟩, rfl⟩; show (opCell (2 / 64) (2 % 64)).map (fun mk => mk f) = some (.mul f); rfl
theorem mulh (f : Fields) : Statement (.mulh f) := by
  refine ⟨⟨Nat.le_of_ble_eq_true rfl, ?_⟩, rfl⟩; show (opCell (3 / 64) (3 % 64)).map (fun mk => mk f) = some (.mulh f); rfl
theorem mulhn (f : Fields) : Statement (.mulhn f) := by
  refine ⟨⟨Nat.le_of_ble_eq_true rfl, ?_⟩, rfl⟩; show (opCell (4 / 64) (4 % 64)).map (fun mk => mk f) = some (.mulhn f); rfl
theorem div (f : Fields) : Statement (.div f) := by
  refine ⟨⟨Nat.le_of_ble_eq_true rfl, ?_⟩, rfl⟩; show (opCell (5 / 64) (5 % 64)).map (fun mk => mk f) = some (.div f); rfl
theorem divn (f : Fields) : Statement (.divn f) := by
  refine ⟨⟨Nat.le_of_ble_eq_true rfl, ?_⟩, rfl⟩; show (opCell (6 / 64) (6 % 64)).map (fun mk => mk f) = some (.divn f); rfl
theorem rem (f : Fields) : Statement (.rem f) := by
  refine ⟨⟨Nat.le_of_ble_eq_true rfl, ?_⟩, rfl⟩; show (opCell (7 / 64) (7 % 64)).map (fun mk => mk f) = some (.rem f); rfl
theorem remn (f : Fields) : Statement (.remn f) := by
  refine ⟨⟨Nat.le_of_ble_eq_true rfl, ?_⟩, rfl⟩; show (opCell (8 / 64) (8 % 64)).map (fun mk => mk f) = some (.remn f); rfl
theorem and (f : Fields) : Statement (.and f) := by
  refine ⟨⟨Nat.le_of_ble_eq_true rfl, ?_⟩, rfl⟩; show (opCell (9 / 64) (9 % 64)).map (fun mk => mk f) = some (.and f); rfl
theorem or (f : Fields) : Statement (.or f) := by
  refine ⟨⟨Nat.le_of_ble_eq_true rfl, ?_⟩, rfl⟩; show (opCell (10 / 64) (10 % 64)).map (fun mk => mk f) = some (.or f); rfl
theorem xor (f : Fields) : Statement (.xor f) := by
  refine ⟨⟨Nat.le_of_ble_eq_true rfl, ?_⟩, rfl⟩; show (opCell (11 / 64) (11 % 64)).map (fun mk => mk f) = some (.xor f); rfl
theorem andn (f : Fields) : Statement (.andn f) := by
  refine ⟨⟨Nat.le_of_ble_eq_true rfl, ?_⟩, rfl⟩; show (opCell (12 / 64) (12 % 64)).map (fun mk => mk f) = some (.andn f); rfl
theorem shl (f : Fields) : Statement (.shl f) := by
  refine ⟨⟨Nat.le_of_ble_eq_true rfl, ?_⟩, rfl⟩; show (opCell (13 / 64) (13 % 64)).map (fun mk => mk f) = some (.shl f); rfl
theorem shr (f : Fields) : Statement (.shr f) := by
  refine ⟨⟨Nat.le_of_ble_eq_true rfl, ?_⟩, rfl⟩; show (opCell (14 / 64) (14 % 64)).map (fun mk => mk f) = some (.shr f); rfl
theorem sar (f : Fields) : Statement (.sar f) := by
  refine ⟨⟨Nat.le_of_ble_eq_true rfl, ?_⟩, rfl⟩; show (opCell (15 / 64) (15 % 64)).map (fun mk => mk f) = some (.sar f); rfl
theorem rol (f : Fields) : Statement (.rol f) := by
  refine ⟨⟨Nat.le_of_ble_eq_true rfl, ?_⟩, rfl⟩; show (opCell (16 / 64) (16 % 64)).map (fun mk => mk f) = some (.rol f); rfl
theorem clz (f : Fields) : Statement (.clz f) := by
  refine ⟨⟨Nat.le_of_ble_eq_true rfl, ?_⟩, rfl⟩; show (opCell (17 / 64) (17 % 64)).map (fun mk => mk f) = some (.clz f); rfl
theorem ctz (f : Fields) : Statement (.ctz f) := by
  refine ⟨⟨Nat.le_of_ble_eq_true rfl, ?_⟩, rfl⟩; show (opCell (18 / 64) (18 % 64)).map (fun mk => mk f) = some (.ctz f); rfl
theorem popc (f : Fields) : Statement (.popc f) := by
  refine ⟨⟨Nat.le_of_ble_eq_true rfl, ?_⟩, rfl⟩; show (opCell (19 / 64) (19 % 64)).map (fun mk => mk f) = some (.popc f); rfl
theorem min (f : Fields) : Statement (.min f) := by
  refine ⟨⟨Nat.le_of_ble_eq_true rfl, ?_⟩, rfl⟩; show (opCell (20 / 64) (20 % 64)).map (fun mk => mk f) = some (.min f); rfl
theorem minn (f : Fields) : Statement (.minn f) := by
  refine ⟨⟨Nat.le_of_ble_eq_true rfl, ?_⟩, rfl⟩; show (opCell (21 / 64) (21 % 64)).map (fun mk => mk f) = some (.minn f); rfl
theorem max (f : Fields) : Statement (.max f) := by
  refine ⟨⟨Nat.le_of_ble_eq_true rfl, ?_⟩, rfl⟩; show (opCell (22 / 64) (22 % 64)).map (fun mk => mk f) = some (.max f); rfl
theorem maxn (f : Fields) : Statement (.maxn f) := by
  refine ⟨⟨Nat.le_of_ble_eq_true rfl, ?_⟩, rfl⟩; show (opCell (23 / 64) (23 % 64)).map (fun mk => mk f) = some (.maxn f); rfl
theorem abs (f : Fields) : Statement (.abs f) := by
  refine ⟨⟨Nat.le_of_ble_eq_true rfl, ?_⟩, rfl⟩; show (opCell (24 / 64) (24 % 64)).map (fun mk => mk f) = some (.abs f); rfl
theorem sel (f : Fields) : Statement (.sel f) := by
  refine ⟨⟨Nat.le_of_ble_eq_true rfl, ?_⟩, rfl⟩; show (opCell (25 / 64) (25 % 64)).map (fun mk => mk f) = some (.sel f); rfl
theorem mov (f : Fields) : Statement (.mov f) := by
  refine ⟨⟨Nat.le_of_ble_eq_true rfl, ?_⟩, rfl⟩; show (opCell (26 / 64) (26 % 64)).map (fun mk => mk f) = some (.mov f); rfl
theorem movi (f : Fields) : Statement (.movi f) := by
  refine ⟨⟨Nat.le_of_ble_eq_true rfl, ?_⟩, rfl⟩; show (opCell (27 / 64) (27 % 64)).map (fun mk => mk f) = some (.movi f); rfl
theorem lea (f : Fields) : Statement (.lea f) := by
  refine ⟨⟨Nat.le_of_ble_eq_true rfl, ?_⟩, rfl⟩; show (opCell (28 / 64) (28 % 64)).map (fun mk => mk f) = some (.lea f); rfl
theorem sext (f : Fields) : Statement (.sext f) := by
  refine ⟨⟨Nat.le_of_ble_eq_true rfl, ?_⟩, rfl⟩; show (opCell (29 / 64) (29 % 64)).map (fun mk => mk f) = some (.sext f); rfl
theorem zext (f : Fields) : Statement (.zext f) := by
  refine ⟨⟨Nat.le_of_ble_eq_true rfl, ?_⟩, rfl⟩; show (opCell (30 / 64) (30 % 64)).map (fun mk => mk f) = some (.zext f); rfl
theorem bfx (f : Fields) : Statement (.bfx f) := by
  refine ⟨⟨Nat.le_of_ble_eq_true rfl, ?_⟩, rfl⟩; show (opCell (31 / 64) (31 % 64)).map (fun mk => mk f) = some (.bfx f); rfl
theorem bfi (f : Fields) : Statement (.bfi f) := by
  refine ⟨⟨Nat.le_of_ble_eq_true rfl, ?_⟩, rfl⟩; show (opCell (32 / 64) (32 % 64)).map (fun mk => mk f) = some (.bfi f); rfl
theorem cmp (f : Fields) : Statement (.cmp f) := by
  refine ⟨⟨Nat.le_of_ble_eq_true rfl, ?_⟩, rfl⟩; show (opCell (33 / 64) (33 % 64)).map (fun mk => mk f) = some (.cmp f); rfl
theorem plog (f : Fields) : Statement (.plog f) := by
  refine ⟨⟨Nat.le_of_ble_eq_true rfl, ?_⟩, rfl⟩; show (opCell (64 / 64) (64 % 64)).map (fun mk => mk f) = some (.plog f); rfl
theorem pmov (f : Fields) : Statement (.pmov f) := by
  refine ⟨⟨Nat.le_of_ble_eq_true rfl, ?_⟩, rfl⟩; show (opCell (65 / 64) (65 % 64)).map (fun mk => mk f) = some (.pmov f); rfl
theorem fadd (f : Fields) : Statement (.fadd f) := by
  refine ⟨⟨Nat.le_of_ble_eq_true rfl, ?_⟩, rfl⟩; show (opCell (128 / 64) (128 % 64)).map (fun mk => mk f) = some (.fadd f); rfl
theorem fsub (f : Fields) : Statement (.fsub f) := by
  refine ⟨⟨Nat.le_of_ble_eq_true rfl, ?_⟩, rfl⟩; show (opCell (129 / 64) (129 % 64)).map (fun mk => mk f) = some (.fsub f); rfl
theorem fmul (f : Fields) : Statement (.fmul f) := by
  refine ⟨⟨Nat.le_of_ble_eq_true rfl, ?_⟩, rfl⟩; show (opCell (130 / 64) (130 % 64)).map (fun mk => mk f) = some (.fmul f); rfl
theorem ffma (f : Fields) : Statement (.ffma f) := by
  refine ⟨⟨Nat.le_of_ble_eq_true rfl, ?_⟩, rfl⟩; show (opCell (131 / 64) (131 % 64)).map (fun mk => mk f) = some (.ffma f); rfl
theorem fdiv (f : Fields) : Statement (.fdiv f) := by
  refine ⟨⟨Nat.le_of_ble_eq_true rfl, ?_⟩, rfl⟩; show (opCell (132 / 64) (132 % 64)).map (fun mk => mk f) = some (.fdiv f); rfl
theorem fsqrt (f : Fields) : Statement (.fsqrt f) := by
  refine ⟨⟨Nat.le_of_ble_eq_true rfl, ?_⟩, rfl⟩; show (opCell (133 / 64) (133 % 64)).map (fun mk => mk f) = some (.fsqrt f); rfl
theorem fmin (f : Fields) : Statement (.fmin f) := by
  refine ⟨⟨Nat.le_of_ble_eq_true rfl, ?_⟩, rfl⟩; show (opCell (134 / 64) (134 % 64)).map (fun mk => mk f) = some (.fmin f); rfl
theorem fmax (f : Fields) : Statement (.fmax f) := by
  refine ⟨⟨Nat.le_of_ble_eq_true rfl, ?_⟩, rfl⟩; show (opCell (135 / 64) (135 % 64)).map (fun mk => mk f) = some (.fmax f); rfl
theorem fcmp (f : Fields) : Statement (.fcmp f) := by
  refine ⟨⟨Nat.le_of_ble_eq_true rfl, ?_⟩, rfl⟩; show (opCell (136 / 64) (136 % 64)).map (fun mk => mk f) = some (.fcmp f); rfl
theorem fcvt (f : Fields) : Statement (.fcvt f) := by
  refine ⟨⟨Nat.le_of_ble_eq_true rfl, ?_⟩, rfl⟩; show (opCell (137 / 64) (137 % 64)).map (fun mk => mk f) = some (.fcvt f); rfl
theorem fclass (f : Fields) : Statement (.fclass f) := by
  refine ⟨⟨Nat.le_of_ble_eq_true rfl, ?_⟩, rfl⟩; show (opCell (138 / 64) (138 % 64)).map (fun mk => mk f) = some (.fclass f); rfl
theorem fsgn (f : Fields) : Statement (.fsgn f) := by
  refine ⟨⟨Nat.le_of_ble_eq_true rfl, ?_⟩, rfl⟩; show (opCell (139 / 64) (139 % 64)).map (fun mk => mk f) = some (.fsgn f); rfl
theorem br (f : Fields) : Statement (.br f) := by
  refine ⟨⟨Nat.le_of_ble_eq_true rfl, ?_⟩, rfl⟩; show (opCell (192 / 64) (192 % 64)).map (fun mk => mk f) = some (.br f); rfl
theorem brx (f : Fields) : Statement (.brx f) := by
  refine ⟨⟨Nat.le_of_ble_eq_true rfl, ?_⟩, rfl⟩; show (opCell (193 / 64) (193 % 64)).map (fun mk => mk f) = some (.brx f); rfl
theorem call (f : Fields) : Statement (.call f) := by
  refine ⟨⟨Nat.le_of_ble_eq_true rfl, ?_⟩, rfl⟩; show (opCell (194 / 64) (194 % 64)).map (fun mk => mk f) = some (.call f); rfl
theorem ret (f : Fields) : Statement (.ret f) := by
  refine ⟨⟨Nat.le_of_ble_eq_true rfl, ?_⟩, rfl⟩; show (opCell (195 / 64) (195 % 64)).map (fun mk => mk f) = some (.ret f); rfl
theorem loop (f : Fields) : Statement (.loop f) := by
  refine ⟨⟨Nat.le_of_ble_eq_true rfl, ?_⟩, rfl⟩; show (opCell (196 / 64) (196 % 64)).map (fun mk => mk f) = some (.loop f); rfl
theorem endTask (f : Fields) : Statement (.endTask f) := by
  refine ⟨⟨Nat.le_of_ble_eq_true rfl, ?_⟩, rfl⟩; show (opCell (197 / 64) (197 % 64)).map (fun mk => mk f) = some (.endTask f); rfl
theorem send (f : Fields) : Statement (.send f) := by
  refine ⟨⟨Nat.le_of_ble_eq_true rfl, ?_⟩, rfl⟩; show (opCell (256 / 64) (256 % 64)).map (fun mk => mk f) = some (.send f); rfl
theorem spawn (f : Fields) : Statement (.spawn f) := by
  refine ⟨⟨Nat.le_of_ble_eq_true rfl, ?_⟩, rfl⟩; show (opCell (257 / 64) (257 % 64)).map (fun mk => mk f) = some (.spawn f); rfl
theorem bind (f : Fields) : Statement (.bind f) := by
  refine ⟨⟨Nat.le_of_ble_eq_true rfl, ?_⟩, rfl⟩; show (opCell (258 / 64) (258 % 64)).map (fun mk => mk f) = some (.bind f); rfl
theorem unbind (f : Fields) : Statement (.unbind f) := by
  refine ⟨⟨Nat.le_of_ble_eq_true rfl, ?_⟩, rfl⟩; show (opCell (259 / 64) (259 % 64)).map (fun mk => mk f) = some (.unbind f); rfl
theorem chctl (f : Fields) : Statement (.chctl f) := by
  refine ⟨⟨Nat.le_of_ble_eq_true rfl, ?_⟩, rfl⟩; show (opCell (260 / 64) (260 % 64)).map (fun mk => mk f) = some (.chctl f); rfl
theorem mwin (f : Fields) : Statement (.mwin f) := by
  refine ⟨⟨Nat.le_of_ble_eq_true rfl, ?_⟩, rfl⟩; show (opCell (261 / 64) (261 % 64)).map (fun mk => mk f) = some (.mwin f); rfl
theorem qsend (f : Fields) : Statement (.qsend f) := by
  refine ⟨⟨Nat.le_of_ble_eq_true rfl, ?_⟩, rfl⟩; show (opCell (262 / 64) (262 % 64)).map (fun mk => mk f) = some (.qsend f); rfl
theorem home (f : Fields) : Statement (.home f) := by
  refine ⟨⟨Nat.le_of_ble_eq_true rfl, ?_⟩, rfl⟩; show (opCell (263 / 64) (263 % 64)).map (fun mk => mk f) = some (.home f); rfl
theorem csrr (f : Fields) : Statement (.csrr f) := by
  refine ⟨⟨Nat.le_of_ble_eq_true rfl, ?_⟩, rfl⟩; show (opCell (320 / 64) (320 % 64)).map (fun mk => mk f) = some (.csrr f); rfl
theorem csrw (f : Fields) : Statement (.csrw f) := by
  refine ⟨⟨Nat.le_of_ble_eq_true rfl, ?_⟩, rfl⟩; show (opCell (321 / 64) (321 % 64)).map (fun mk => mk f) = some (.csrw f); rfl
theorem trap (f : Fields) : Statement (.trap f) := by
  refine ⟨⟨Nat.le_of_ble_eq_true rfl, ?_⟩, rfl⟩; show (opCell (322 / 64) (322 % 64)).map (fun mk => mk f) = some (.trap f); rfl
theorem brk (f : Fields) : Statement (.brk f) := by
  refine ⟨⟨Nat.le_of_ble_eq_true rfl, ?_⟩, rfl⟩; show (opCell (323 / 64) (323 % 64)).map (fun mk => mk f) = some (.brk f); rfl
theorem ld (f : Fields) : Statement (.ld f) := by
  refine ⟨⟨Nat.le_of_ble_eq_true rfl, ?_⟩, rfl⟩; show (opCell (384 / 64) (384 % 64)).map (fun mk => mk f) = some (.ld f); rfl
theorem st (f : Fields) : Statement (.st f) := by
  refine ⟨⟨Nat.le_of_ble_eq_true rfl, ?_⟩, rfl⟩; show (opCell (385 / 64) (385 % 64)).map (fun mk => mk f) = some (.st f); rfl
theorem ldv (f : Fields) : Statement (.ldv f) := by
  refine ⟨⟨Nat.le_of_ble_eq_true rfl, ?_⟩, rfl⟩; show (opCell (448 / 64) (448 % 64)).map (fun mk => mk f) = some (.ldv f); rfl
theorem stv (f : Fields) : Statement (.stv f) := by
  refine ⟨⟨Nat.le_of_ble_eq_true rfl, ?_⟩, rfl⟩; show (opCell (449 / 64) (449 % 64)).map (fun mk => mk f) = some (.stv f); rfl
theorem ldvs (f : Fields) : Statement (.ldvs f) := by
  refine ⟨⟨Nat.le_of_ble_eq_true rfl, ?_⟩, rfl⟩; show (opCell (450 / 64) (450 % 64)).map (fun mk => mk f) = some (.ldvs f); rfl
theorem stvs (f : Fields) : Statement (.stvs f) := by
  refine ⟨⟨Nat.le_of_ble_eq_true rfl, ?_⟩, rfl⟩; show (opCell (451 / 64) (451 % 64)).map (fun mk => mk f) = some (.stvs f); rfl
theorem ldvg (f : Fields) : Statement (.ldvg f) := by
  refine ⟨⟨Nat.le_of_ble_eq_true rfl, ?_⟩, rfl⟩; show (opCell (452 / 64) (452 % 64)).map (fun mk => mk f) = some (.ldvg f); rfl
theorem stvx (f : Fields) : Statement (.stvx f) := by
  refine ⟨⟨Nat.le_of_ble_eq_true rfl, ?_⟩, rfl⟩; show (opCell (453 / 64) (453 % 64)).map (fun mk => mk f) = some (.stvx f); rfl
theorem ldf (f : Fields) : Statement (.ldf f) := by
  refine ⟨⟨Nat.le_of_ble_eq_true rfl, ?_⟩, rfl⟩; show (opCell (454 / 64) (454 % 64)).map (fun mk => mk f) = some (.ldf f); rfl
theorem sete (f : Fields) : Statement (.sete f) := by
  refine ⟨⟨Nat.le_of_ble_eq_true rfl, ?_⟩, rfl⟩; show (opCell (455 / 64) (455 % 64)).map (fun mk => mk f) = some (.sete f); rfl
theorem watch (f : Fields) : Statement (.watch f) := by
  refine ⟨⟨Nat.le_of_ble_eq_true rfl, ?_⟩, rfl⟩; show (opCell (456 / 64) (456 % 64)).map (fun mk => mk f) = some (.watch f); rfl
theorem amo (f : Fields) : Statement (.amo f) := by
  refine ⟨⟨Nat.le_of_ble_eq_true rfl, ?_⟩, rfl⟩; show (opCell (457 / 64) (457 % 64)).map (fun mk => mk f) = some (.amo f); rfl
theorem cas (f : Fields) : Statement (.cas f) := by
  refine ⟨⟨Nat.le_of_ble_eq_true rfl, ?_⟩, rfl⟩; show (opCell (458 / 64) (458 % 64)).map (fun mk => mk f) = some (.cas f); rfl
theorem amom (f : Fields) : Statement (.amom f) := by
  refine ⟨⟨Nat.le_of_ble_eq_true rfl, ?_⟩, rfl⟩; show (opCell (459 / 64) (459 % 64)).map (fun mk => mk f) = some (.amom f); rfl
theorem fence (f : Fields) : Statement (.fence f) := by
  refine ⟨⟨Nat.le_of_ble_eq_true rfl, ?_⟩, rfl⟩; show (opCell (460 / 64) (460 % 64)).map (fun mk => mk f) = some (.fence f); rfl
theorem ntdrain (f : Fields) : Statement (.ntdrain f) := by
  refine ⟨⟨Nat.le_of_ble_eq_true rfl, ?_⟩, rfl⟩; show (opCell (461 / 64) (461 % 64)).map (fun mk => mk f) = some (.ntdrain f); rfl
theorem pref (f : Fields) : Statement (.pref f) := by
  refine ⟨⟨Nat.le_of_ble_eq_true rfl, ?_⟩, rfl⟩; show (opCell (462 / 64) (462 % 64)).map (fun mk => mk f) = some (.pref f); rfl
theorem discard (f : Fields) : Statement (.discard f) := by
  refine ⟨⟨Nat.le_of_ble_eq_true rfl, ?_⟩, rfl⟩; show (opCell (463 / 64) (463 % 64)).map (fun mk => mk f) = some (.discard f); rfl
theorem stmap (f : Fields) : Statement (.stmap f) := by
  refine ⟨⟨Nat.le_of_ble_eq_true rfl, ?_⟩, rfl⟩; show (opCell (464 / 64) (464 % 64)).map (fun mk => mk f) = some (.stmap f); rfl
theorem stsync (f : Fields) : Statement (.stsync f) := by
  refine ⟨⟨Nat.le_of_ble_eq_true rfl, ?_⟩, rfl⟩; show (opCell (465 / 64) (465 % 64)).map (fun mk => mk f) = some (.stsync f); rfl
theorem capgive (f : Fields) : Statement (.capgive f) := by
  refine ⟨⟨Nat.le_of_ble_eq_true rfl, ?_⟩, rfl⟩; show (opCell (512 / 64) (512 % 64)).map (fun mk => mk f) = some (.capgive f); rfl
theorem sealCap (f : Fields) : Statement (.sealCap f) := by
  refine ⟨⟨Nat.le_of_ble_eq_true rfl, ?_⟩, rfl⟩; show (opCell (513 / 64) (513 % 64)).map (fun mk => mk f) = some (.sealCap f); rfl
theorem claim (f : Fields) : Statement (.claim f) := by
  refine ⟨⟨Nat.le_of_ble_eq_true rfl, ?_⟩, rfl⟩; show (opCell (514 / 64) (514 % 64)).map (fun mk => mk f) = some (.claim f); rfl
theorem rmode (f : Fields) : Statement (.rmode f) := by
  refine ⟨⟨Nat.le_of_ble_eq_true rfl, ?_⟩, rfl⟩; show (opCell (515 / 64) (515 % 64)).map (fun mk => mk f) = some (.rmode f); rfl
theorem vadd (f : Fields) : Statement (.vadd f) := by
  refine ⟨⟨Nat.le_of_ble_eq_true rfl, ?_⟩, rfl⟩; show (opCell (576 / 64) (576 % 64)).map (fun mk => mk f) = some (.vadd f); rfl
theorem vsub (f : Fields) : Statement (.vsub f) := by
  refine ⟨⟨Nat.le_of_ble_eq_true rfl, ?_⟩, rfl⟩; show (opCell (577 / 64) (577 % 64)).map (fun mk => mk f) = some (.vsub f); rfl
theorem vmul (f : Fields) : Statement (.vmul f) := by
  refine ⟨⟨Nat.le_of_ble_eq_true rfl, ?_⟩, rfl⟩; show (opCell (578 / 64) (578 % 64)).map (fun mk => mk f) = some (.vmul f); rfl
theorem vfma (f : Fields) : Statement (.vfma f) := by
  refine ⟨⟨Nat.le_of_ble_eq_true rfl, ?_⟩, rfl⟩; show (opCell (579 / 64) (579 % 64)).map (fun mk => mk f) = some (.vfma f); rfl
theorem vdiv (f : Fields) : Statement (.vdiv f) := by
  refine ⟨⟨Nat.le_of_ble_eq_true rfl, ?_⟩, rfl⟩; show (opCell (580 / 64) (580 % 64)).map (fun mk => mk f) = some (.vdiv f); rfl
theorem vsqrt (f : Fields) : Statement (.vsqrt f) := by
  refine ⟨⟨Nat.le_of_ble_eq_true rfl, ?_⟩, rfl⟩; show (opCell (581 / 64) (581 % 64)).map (fun mk => mk f) = some (.vsqrt f); rfl
theorem vmin (f : Fields) : Statement (.vmin f) := by
  refine ⟨⟨Nat.le_of_ble_eq_true rfl, ?_⟩, rfl⟩; show (opCell (582 / 64) (582 % 64)).map (fun mk => mk f) = some (.vmin f); rfl
theorem vmax (f : Fields) : Statement (.vmax f) := by
  refine ⟨⟨Nat.le_of_ble_eq_true rfl, ?_⟩, rfl⟩; show (opCell (583 / 64) (583 % 64)).map (fun mk => mk f) = some (.vmax f); rfl
theorem vabs (f : Fields) : Statement (.vabs f) := by
  refine ⟨⟨Nat.le_of_ble_eq_true rfl, ?_⟩, rfl⟩; show (opCell (584 / 64) (584 % 64)).map (fun mk => mk f) = some (.vabs f); rfl
theorem vneg (f : Fields) : Statement (.vneg f) := by
  refine ⟨⟨Nat.le_of_ble_eq_true rfl, ?_⟩, rfl⟩; show (opCell (585 / 64) (585 % 64)).map (fun mk => mk f) = some (.vneg f); rfl
theorem vand (f : Fields) : Statement (.vand f) := by
  refine ⟨⟨Nat.le_of_ble_eq_true rfl, ?_⟩, rfl⟩; show (opCell (586 / 64) (586 % 64)).map (fun mk => mk f) = some (.vand f); rfl
theorem vor (f : Fields) : Statement (.vor f) := by
  refine ⟨⟨Nat.le_of_ble_eq_true rfl, ?_⟩, rfl⟩; show (opCell (587 / 64) (587 % 64)).map (fun mk => mk f) = some (.vor f); rfl
theorem vxor (f : Fields) : Statement (.vxor f) := by
  refine ⟨⟨Nat.le_of_ble_eq_true rfl, ?_⟩, rfl⟩; show (opCell (588 / 64) (588 % 64)).map (fun mk => mk f) = some (.vxor f); rfl
theorem vshl (f : Fields) : Statement (.vshl f) := by
  refine ⟨⟨Nat.le_of_ble_eq_true rfl, ?_⟩, rfl⟩; show (opCell (589 / 64) (589 % 64)).map (fun mk => mk f) = some (.vshl f); rfl
theorem vshr (f : Fields) : Statement (.vshr f) := by
  refine ⟨⟨Nat.le_of_ble_eq_true rfl, ?_⟩, rfl⟩; show (opCell (590 / 64) (590 % 64)).map (fun mk => mk f) = some (.vshr f); rfl
theorem vsar (f : Fields) : Statement (.vsar f) := by
  refine ⟨⟨Nat.le_of_ble_eq_true rfl, ?_⟩, rfl⟩; show (opCell (591 / 64) (591 % 64)).map (fun mk => mk f) = some (.vsar f); rfl
theorem vcmp (f : Fields) : Statement (.vcmp f) := by
  refine ⟨⟨Nat.le_of_ble_eq_true rfl, ?_⟩, rfl⟩; show (opCell (592 / 64) (592 % 64)).map (fun mk => mk f) = some (.vcmp f); rfl
theorem vsel (f : Fields) : Statement (.vsel f) := by
  refine ⟨⟨Nat.le_of_ble_eq_true rfl, ?_⟩, rfl⟩; show (opCell (593 / 64) (593 % 64)).map (fun mk => mk f) = some (.vsel f); rfl
theorem vmov (f : Fields) : Statement (.vmov f) := by
  refine ⟨⟨Nat.le_of_ble_eq_true rfl, ?_⟩, rfl⟩; show (opCell (594 / 64) (594 % 64)).map (fun mk => mk f) = some (.vmov f); rfl
theorem vsplat (f : Fields) : Statement (.vsplat f) := by
  refine ⟨⟨Nat.le_of_ble_eq_true rfl, ?_⟩, rfl⟩; show (opCell (595 / 64) (595 % 64)).map (fun mk => mk f) = some (.vsplat f); rfl
theorem vred (f : Fields) : Statement (.vred f) := by
  refine ⟨⟨Nat.le_of_ble_eq_true rfl, ?_⟩, rfl⟩; show (opCell (596 / 64) (596 % 64)).map (fun mk => mk f) = some (.vred f); rfl
theorem vscan (f : Fields) : Statement (.vscan f) := by
  refine ⟨⟨Nat.le_of_ble_eq_true rfl, ?_⟩, rfl⟩; show (opCell (597 / 64) (597 % 64)).map (fun mk => mk f) = some (.vscan f); rfl
theorem viota (f : Fields) : Statement (.viota f) := by
  refine ⟨⟨Nat.le_of_ble_eq_true rfl, ?_⟩, rfl⟩; show (opCell (598 / 64) (598 % 64)).map (fun mk => mk f) = some (.viota f); rfl
theorem vwhile (f : Fields) : Statement (.vwhile f) := by
  refine ⟨⟨Nat.le_of_ble_eq_true rfl, ?_⟩, rfl⟩; show (opCell (599 / 64) (599 % 64)).map (fun mk => mk f) = some (.vwhile f); rfl
theorem vlen (f : Fields) : Statement (.vlen f) := by
  refine ⟨⟨Nat.le_of_ble_eq_true rfl, ?_⟩, rfl⟩; show (opCell (600 / 64) (600 % 64)).map (fun mk => mk f) = some (.vlen f); rfl
theorem vpcnt (f : Fields) : Statement (.vpcnt f) := by
  refine ⟨⟨Nat.le_of_ble_eq_true rfl, ?_⟩, rfl⟩; show (opCell (601 / 64) (601 % 64)).map (fun mk => mk f) = some (.vpcnt f); rfl
theorem vpfirst (f : Fields) : Statement (.vpfirst f) := by
  refine ⟨⟨Nat.le_of_ble_eq_true rfl, ?_⟩, rfl⟩; show (opCell (602 / 64) (602 % 64)).map (fun mk => mk f) = some (.vpfirst f); rfl
theorem vget (f : Fields) : Statement (.vget f) := by
  refine ⟨⟨Nat.le_of_ble_eq_true rfl, ?_⟩, rfl⟩; show (opCell (640 / 64) (640 % 64)).map (fun mk => mk f) = some (.vget f); rfl
theorem vput (f : Fields) : Statement (.vput f) := by
  refine ⟨⟨Nat.le_of_ble_eq_true rfl, ?_⟩, rfl⟩; show (opCell (641 / 64) (641 % 64)).map (fun mk => mk f) = some (.vput f); rfl
theorem vperm (f : Fields) : Statement (.vperm f) := by
  refine ⟨⟨Nat.le_of_ble_eq_true rfl, ?_⟩, rfl⟩; show (opCell (642 / 64) (642 % 64)).map (fun mk => mk f) = some (.vperm f); rfl
theorem vcmpr (f : Fields) : Statement (.vcmpr f) := by
  refine ⟨⟨Nat.le_of_ble_eq_true rfl, ?_⟩, rfl⟩; show (opCell (643 / 64) (643 % 64)).map (fun mk => mk f) = some (.vcmpr f); rfl
theorem vexpd (f : Fields) : Statement (.vexpd f) := by
  refine ⟨⟨Nat.le_of_ble_eq_true rfl, ?_⟩, rfl⟩; show (opCell (644 / 64) (644 % 64)).map (fun mk => mk f) = some (.vexpd f); rfl
theorem vsfu (f : Fields) : Statement (.vsfu f) := by
  refine ⟨⟨Nat.le_of_ble_eq_true rfl, ?_⟩, rfl⟩; show (opCell (645 / 64) (645 % 64)).map (fun mk => mk f) = some (.vsfu f); rfl
theorem vcvt (f : Fields) : Statement (.vcvt f) := by
  refine ⟨⟨Nat.le_of_ble_eq_true rfl, ?_⟩, rfl⟩; show (opCell (646 / 64) (646 % 64)).map (fun mk => mk f) = some (.vcvt f); rfl
theorem vqnt (f : Fields) : Statement (.vqnt f) := by
  refine ⟨⟨Nat.le_of_ble_eq_true rfl, ?_⟩, rfl⟩; show (opCell (647 / 64) (647 % 64)).map (fun mk => mk f) = some (.vqnt f); rfl
theorem vrtag (f : Fields) : Statement (.vrtag f) := by
  refine ⟨⟨Nat.le_of_ble_eq_true rfl, ?_⟩, rfl⟩; show (opCell (648 / 64) (648 % 64)).map (fun mk => mk f) = some (.vrtag f); rfl
theorem pack5t (f : Fields) : Statement (.pack5t f) := by
  refine ⟨⟨Nat.le_of_ble_eq_true rfl, ?_⟩, rfl⟩; show (opCell (649 / 64) (649 % 64)).map (fun mk => mk f) = some (.pack5t f); rfl
theorem unpk5t (f : Fields) : Statement (.unpk5t f) := by
  refine ⟨⟨Nat.le_of_ble_eq_true rfl, ?_⟩, rfl⟩; show (opCell (650 / 64) (650 % 64)).map (fun mk => mk f) = some (.unpk5t f); rfl
theorem cpy (f : Fields) : Statement (.cpy f) := by
  refine ⟨⟨Nat.le_of_ble_eq_true rfl, ?_⟩, rfl⟩; show (opCell (704 / 64) (704 % 64)).map (fun mk => mk f) = some (.cpy f); rfl
theorem cpyg (f : Fields) : Statement (.cpyg f) := by
  refine ⟨⟨Nat.le_of_ble_eq_true rfl, ?_⟩, rfl⟩; show (opCell (705 / 64) (705 % 64)).map (fun mk => mk f) = some (.cpyg f); rfl
theorem cpyx (f : Fields) : Statement (.cpyx f) := by
  refine ⟨⟨Nat.le_of_ble_eq_true rfl, ?_⟩, rfl⟩; show (opCell (706 / 64) (706 % 64)).map (fun mk => mk f) = some (.cpyx f); rfl
theorem cpyl (f : Fields) : Statement (.cpyl f) := by
  refine ⟨⟨Nat.le_of_ble_eq_true rfl, ?_⟩, rfl⟩; show (opCell (707 / 64) (707 % 64)).map (fun mk => mk f) = some (.cpyl f); rfl
theorem cpyset (f : Fields) : Statement (.cpyset f) := by
  refine ⟨⟨Nat.le_of_ble_eq_true rfl, ?_⟩, rfl⟩; show (opCell (708 / 64) (708 % 64)).map (fun mk => mk f) = some (.cpyset f); rfl
theorem cpyc (f : Fields) : Statement (.cpyc f) := by
  refine ⟨⟨Nat.le_of_ble_eq_true rfl, ?_⟩, rfl⟩; show (opCell (709 / 64) (709 % 64)).map (fun mk => mk f) = some (.cpyc f); rfl
theorem wcfg (f : Fields) : Statement (.wcfg f) := by
  refine ⟨⟨Nat.le_of_ble_eq_true rfl, ?_⟩, rfl⟩; show (opCell (768 / 64) (768 % 64)).map (fun mk => mk f) = some (.wcfg f); rfl
theorem wload (f : Fields) : Statement (.wload f) := by
  refine ⟨⟨Nat.le_of_ble_eq_true rfl, ?_⟩, rfl⟩; show (opCell (769 / 64) (769 % 64)).map (fun mk => mk f) = some (.wload f); rfl
theorem wscl (f : Fields) : Statement (.wscl f) := by
  refine ⟨⟨Nat.le_of_ble_eq_true rfl, ?_⟩, rfl⟩; show (opCell (770 / 64) (770 % 64)).map (fun mk => mk f) = some (.wscl f); rfl
theorem wrun (f : Fields) : Statement (.wrun f) := by
  refine ⟨⟨Nat.le_of_ble_eq_true rfl, ?_⟩, rfl⟩; show (opCell (771 / 64) (771 % 64)).map (fun mk => mk f) = some (.wrun f); rfl
theorem wdrain (f : Fields) : Statement (.wdrain f) := by
  refine ⟨⟨Nat.le_of_ble_eq_true rfl, ?_⟩, rfl⟩; show (opCell (772 / 64) (772 % 64)).map (fun mk => mk f) = some (.wdrain f); rfl
theorem wzero (f : Fields) : Statement (.wzero f) := by
  refine ⟨⟨Nat.le_of_ble_eq_true rfl, ?_⟩, rfl⟩; show (opCell (773 / 64) (773 % 64)).map (fun mk => mk f) = some (.wzero f); rfl
theorem wstat (f : Fields) : Statement (.wstat f) := by
  refine ⟨⟨Nat.le_of_ble_eq_true rfl, ?_⟩, rfl⟩; show (opCell (774 / 64) (774 % 64)).map (fun mk => mk f) = some (.wstat f); rfl
theorem gcfg (f : Fields) : Statement (.gcfg f) := by
  refine ⟨⟨Nat.le_of_ble_eq_true rfl, ?_⟩, rfl⟩; show (opCell (832 / 64) (832 % 64)).map (fun mk => mk f) = some (.gcfg f); rfl
theorem gbld (f : Fields) : Statement (.gbld f) := by
  refine ⟨⟨Nat.le_of_ble_eq_true rfl, ?_⟩, rfl⟩; show (opCell (833 / 64) (833 % 64)).map (fun mk => mk f) = some (.gbld f); rfl
theorem gmm (f : Fields) : Statement (.gmm f) := by
  refine ⟨⟨Nat.le_of_ble_eq_true rfl, ?_⟩, rfl⟩; show (opCell (834 / 64) (834 % 64)).map (fun mk => mk f) = some (.gmm f); rfl
theorem gzero (f : Fields) : Statement (.gzero f) := by
  refine ⟨⟨Nat.le_of_ble_eq_true rfl, ?_⟩, rfl⟩; show (opCell (835 / 64) (835 % 64)).map (fun mk => mk f) = some (.gzero f); rfl
theorem grd (f : Fields) : Statement (.grd f) := by
  refine ⟨⟨Nat.le_of_ble_eq_true rfl, ?_⟩, rfl⟩; show (opCell (836 / 64) (836 % 64)).map (fun mk => mk f) = some (.grd f); rfl
theorem gst (f : Fields) : Statement (.gst f) := by
  refine ⟨⟨Nat.le_of_ble_eq_true rfl, ?_⟩, rfl⟩; show (opCell (837 / 64) (837 % 64)).map (fun mk => mk f) = some (.gst f); rfl
theorem gwait (f : Fields) : Statement (.gwait f) := by
  refine ⟨⟨Nat.le_of_ble_eq_true rfl, ?_⟩, rfl⟩; show (opCell (838 / 64) (838 % 64)).map (fun mk => mk f) = some (.gwait f); rfl
theorem pload (f : Fields) : Statement (.pload f) := by
  refine ⟨⟨Nat.le_of_ble_eq_true rfl, ?_⟩, rfl⟩; show (opCell (896 / 64) (896 % 64)).map (fun mk => mk f) = some (.pload f); rfl
theorem pfree (f : Fields) : Statement (.pfree f) := by
  refine ⟨⟨Nat.le_of_ble_eq_true rfl, ?_⟩, rfl⟩; show (opCell (897 / 64) (897 % 64)).map (fun mk => mk f) = some (.pfree f); rfl
theorem popen (f : Fields) : Statement (.popen f) := by
  refine ⟨⟨Nat.le_of_ble_eq_true rfl, ?_⟩, rfl⟩; show (opCell (898 / 64) (898 % 64)).map (fun mk => mk f) = some (.popen f); rfl
theorem pclose (f : Fields) : Statement (.pclose f) := by
  refine ⟨⟨Nat.le_of_ble_eq_true rfl, ?_⟩, rfl⟩; show (opCell (899 / 64) (899 % 64)).map (fun mk => mk f) = some (.pclose f); rfl
theorem put (f : Fields) : Statement (.put f) := by
  refine ⟨⟨Nat.le_of_ble_eq_true rfl, ?_⟩, rfl⟩; show (opCell (900 / 64) (900 % 64)).map (fun mk => mk f) = some (.put f); rfl
theorem get (f : Fields) : Statement (.get f) := by
  refine ⟨⟨Nat.le_of_ble_eq_true rfl, ?_⟩, rfl⟩; show (opCell (901 / 64) (901 % 64)).map (fun mk => mk f) = some (.get f); rfl
theorem pcancel (f : Fields) : Statement (.pcancel f) := by
  refine ⟨⟨Nat.le_of_ble_eq_true rfl, ?_⟩, rfl⟩; show (opCell (902 / 64) (902 % 64)).map (fun mk => mk f) = some (.pcancel f); rfl
theorem pbind (f : Fields) : Statement (.pbind f) := by
  refine ⟨⟨Nat.le_of_ble_eq_true rfl, ?_⟩, rfl⟩; show (opCell (903 / 64) (903 % 64)).map (fun mk => mk f) = some (.pbind f); rfl
theorem pstat (f : Fields) : Statement (.pstat f) := by
  refine ⟨⟨Nat.le_of_ble_eq_true rfl, ?_⟩, rfl⟩; show (opCell (904 / 64) (904 % 64)).map (fun mk => mk f) = some (.pstat f); rfl
theorem unif (f : Fields) : Statement (.unif f) := by
  refine ⟨⟨Nat.le_of_ble_eq_true rfl, ?_⟩, rfl⟩; show (opCell (960 / 64) (960 % 64)).map (fun mk => mk f) = some (.unif f); rfl
theorem spstop (f : Fields) : Statement (.spstop f) := by
  refine ⟨⟨Nat.le_of_ble_eq_true rfl, ?_⟩, rfl⟩; show (opCell (961 / 64) (961 % 64)).map (fun mk => mk f) = some (.spstop f); rfl
theorem spinv (f : Fields) : Statement (.spinv f) := by
  refine ⟨⟨Nat.le_of_ble_eq_true rfl, ?_⟩, rfl⟩; show (opCell (962 / 64) (962 % 64)).map (fun mk => mk f) = some (.spinv f); rfl
theorem spqry (f : Fields) : Statement (.spqry f) := by
  refine ⟨⟨Nat.le_of_ble_eq_true rfl, ?_⟩, rfl⟩; show (opCell (963 / 64) (963 % 64)).map (fun mk => mk f) = some (.spqry f); rfl
theorem join (f : Fields) : Statement (.join f) := by
  refine ⟨⟨Nat.le_of_ble_eq_true rfl, ?_⟩, rfl⟩; show (opCell (968 / 64) (968 % 64)).map (fun mk => mk f) = some (.join f); rfl
theorem leave (f : Fields) : Statement (.leave f) := by
  refine ⟨⟨Nat.le_of_ble_eq_true rfl, ?_⟩, rfl⟩; show (opCell (969 / 64) (969 % 64)).map (fun mk => mk f) = some (.leave f); rfl
theorem cbar (f : Fields) : Statement (.cbar f) := by
  refine ⟨⟨Nat.le_of_ble_eq_true rfl, ?_⟩, rfl⟩; show (opCell (970 / 64) (970 % 64)).map (fun mk => mk f) = some (.cbar f); rfl
theorem cgath (f : Fields) : Statement (.cgath f) := by
  refine ⟨⟨Nat.le_of_ble_eq_true rfl, ?_⟩, rfl⟩; show (opCell (971 / 64) (971 % 64)).map (fun mk => mk f) = some (.cgath f); rfl
theorem creds (f : Fields) : Statement (.creds f) := by
  refine ⟨⟨Nat.le_of_ble_eq_true rfl, ?_⟩, rfl⟩; show (opCell (972 / 64) (972 % 64)).map (fun mk => mk f) = some (.creds f); rfl
theorem cxch (f : Fields) : Statement (.cxch f) := by
  refine ⟨⟨Nat.le_of_ble_eq_true rfl, ?_⟩, rfl⟩; show (opCell (973 / 64) (973 % 64)).map (fun mk => mk f) = some (.cxch f); rfl
theorem faultPacketSend : ∀ x0, Statement (.faultPacketSend x0) := by intros; exact ⟨rfl, rfl⟩
theorem faultPacketResend : ∀ x0, Statement (.faultPacketResend x0) := by intros; exact ⟨rfl, rfl⟩
theorem deferredFaultReport : ∀ x0, Statement (.deferredFaultReport x0) := by intros; exact ⟨rfl, rfl⟩
theorem dbgResume : ∀ x0 x1 x2, Statement (.dbgResume x0 x1 x2) := by intros; exact ⟨rfl, rfl⟩
theorem dbgSkip : ∀ x0 x1 x2, Statement (.dbgSkip x0 x1 x2) := by intros; exact ⟨rfl, rfl⟩
theorem dbgEnd : ∀ x0 x1 x2, Statement (.dbgEnd x0 x1 x2) := by intros; exact ⟨rfl, rfl⟩
theorem messageArrival : ∀ x0, Statement (.messageArrival x0) := by intros; exact ⟨rfl, rfl⟩
theorem unitMessageResend : ∀ x0, Statement (.unitMessageResend x0) := by intros; exact ⟨rfl, rfl⟩
theorem messageSend : ∀ x0 x1, Statement (.messageSend x0 x1) := by intros; exact ⟨rfl, rfl⟩
theorem taskActivation : ∀ x0, Statement (.taskActivation x0) := by intros; exact ⟨rfl, rfl⟩
theorem preemption : ∀ x0, Statement (.preemption x0) := by intros; exact ⟨rfl, rfl⟩
theorem maskedWindowClose : ∀ x0, Statement (.maskedWindowClose x0) := by intros; exact ⟨rfl, rfl⟩
theorem loadPerform : ∀ x0 x1 x2, Statement (.loadPerform x0 x1 x2) := by intros; exact ⟨rfl, rfl⟩
theorem longLatencyResult : ∀ x0 x1, Statement (.longLatencyResult x0 x1) := by intros; exact ⟨rfl, rfl⟩
theorem storeLeave : ∀ x0, Statement (.storeLeave x0) := by intros; exact ⟨rfl, rfl⟩
theorem storeApply : ∀ x0 x1 x2, Statement (.storeApply x0 x1 x2) := by intros; exact ⟨rfl, rfl⟩
theorem ntApply : ∀ x0 x1 x2, Statement (.ntApply x0 x1 x2) := by intros; exact ⟨rfl, rfl⟩
theorem atomicApply : ∀ x0 x1, Statement (.atomicApply x0 x1) := by intros; exact ⟨rfl, rfl⟩
theorem releaseComplete : ∀ x0 x1, Statement (.releaseComplete x0 x1) := by intros; exact ⟨rfl, rfl⟩
theorem engineCommandStart : ∀ x0 x1, Statement (.engineCommandStart x0 x1) := by intros; exact ⟨rfl, rfl⟩
theorem engineCommandFinish : ∀ x0 x1, Statement (.engineCommandFinish x0 x1) := by intros; exact ⟨rfl, rfl⟩
theorem engineAccessPerform : ∀ x0 x1 x2, Statement (.engineAccessPerform x0 x1 x2) := by intros; exact ⟨rfl, rfl⟩
theorem tokenWrite : ∀ x0, Statement (.tokenWrite x0) := by intros; exact ⟨rfl, rfl⟩
theorem cpylFlagTest : ∀ x0, Statement (.cpylFlagTest x0) := by intros; exact ⟨rfl, rfl⟩
theorem cpylTimeout : ∀ x0, Statement (.cpylTimeout x0) := by intros; exact ⟨rfl, rfl⟩
theorem gangStepStart : ∀ x0, Statement (.gangStepStart x0) := by intros; exact ⟨rfl, rfl⟩
theorem gangStepEnd : ∀ x0, Statement (.gangStepEnd x0) := by intros; exact ⟨rfl, rfl⟩
theorem gangTimeout : ∀ x0, Statement (.gangTimeout x0) := by intros; exact ⟨rfl, rfl⟩
theorem gstBufferStore : ∀ x0 x1, Statement (.gstBufferStore x0 x1) := by intros; exact ⟨rfl, rfl⟩
theorem pageWalk : ∀ x0 x1 x2, Statement (.pageWalk x0 x1 x2) := by intros; exact ⟨rfl, rfl⟩
theorem stashFill : ∀ x0 x1, Statement (.stashFill x0 x1) := by intros; exact ⟨rfl, rfl⟩
theorem stashRecall : ∀ x0 x1, Statement (.stashRecall x0 x1) := by intros; exact ⟨rfl, rfl⟩
theorem keeperModeChange : ∀ x0, Statement (.keeperModeChange x0) := by intros; exact ⟨rfl, rfl⟩
theorem claimServe : ∀ x0, Statement (.claimServe x0) := by intros; exact ⟨rfl, rfl⟩
theorem quantumBoundary : ∀ x0, Statement (.quantumBoundary x0) := by intros; exact ⟨rfl, rfl⟩
theorem tickPeriod : Statement .tickPeriod := ⟨rfl, rfl⟩
theorem offerArrival : ∀ x0, Statement (.offerArrival x0) := by intros; exact ⟨rfl, rfl⟩
theorem pcancelArrival : ∀ x0, Statement (.pcancelArrival x0) := by intros; exact ⟨rfl, rfl⟩
theorem liftDecision : ∀ x0 x1, Statement (.liftDecision x0 x1) := by intros; exact ⟨rfl, rfl⟩
theorem connectorImageLoad : ∀ x0 x1, Statement (.connectorImageLoad x0 x1) := by intros; exact ⟨rfl, rfl⟩
theorem collectiveRequestArrival : ∀ x0, Statement (.collectiveRequestArrival x0) := by intros; exact ⟨rfl, rfl⟩
theorem membershipChange : ∀ x0 x1, Statement (.membershipChange x0 x1) := by intros; exact ⟨rfl, rfl⟩
theorem instanceDataMove : ∀ x0 x1 x2, Statement (.instanceDataMove x0 x1 x2) := by intros; exact ⟨rfl, rfl⟩
theorem collectiveCompletion : ∀ x0 x1 x2, Statement (.collectiveCompletion x0 x1 x2) := by intros; exact ⟨rfl, rfl⟩
theorem instanceTimeout : ∀ x0 x1 x2, Statement (.instanceTimeout x0 x1 x2) := by intros; exact ⟨rfl, rfl⟩
theorem routingWindow : ∀ x0 x1 x2 x3, Statement (.routingWindow x0 x1 x2 x3) := by intros; exact ⟨rfl, rfl⟩
theorem escapement : Statement .escapement := ⟨rfl, rfl⟩
theorem contextSwitch : ∀ x0 x1, Statement (.contextSwitch x0 x1) := by intros; exact ⟨rfl, rfl⟩
theorem qkick : ∀ x0 x1, Statement (.qkick x0 x1) := by intros; exact ⟨rfl, rfl⟩
theorem qsendWrite : ∀ x0, Statement (.qsendWrite x0) := by intros; exact ⟨rfl, rfl⟩
theorem packetFetch : ∀ x0, Statement (.packetFetch x0) := by intros; exact ⟨rfl, rfl⟩
theorem packetRecheck : ∀ x0, Statement (.packetRecheck x0) := by intros; exact ⟨rfl, rfl⟩
theorem nop : ∀ x0, Statement (.nop x0) := by intros; exact ⟨rfl, rfl⟩
theorem launch : ∀ x0, Statement (.launch x0) := by intros; exact ⟨rfl, rfl⟩
theorem launchRange : ∀ x0, Statement (.launchRange x0) := by intros; exact ⟨rfl, rfl⟩
theorem indirect : ∀ x0, Statement (.indirect x0) := by intros; exact ⟨rfl, rfl⟩
theorem pred : ∀ x0, Statement (.pred x0) := by intros; exact ⟨rfl, rfl⟩
theorem packetLoop : ∀ x0, Statement (.packetLoop x0) := by intros; exact ⟨rfl, rfl⟩
theorem wait : ∀ x0, Statement (.wait x0) := by intros; exact ⟨rfl, rfl⟩
theorem waitRetest : ∀ x0, Statement (.waitRetest x0) := by intros; exact ⟨rfl, rfl⟩
theorem signal : ∀ x0, Statement (.signal x0) := by intros; exact ⟨rfl, rfl⟩
theorem barrier : ∀ x0, Statement (.barrier x0) := by intros; exact ⟨rfl, rfl⟩
theorem fetchFence : ∀ x0, Statement (.fetchFence x0) := by intros; exact ⟨rfl, rfl⟩
theorem connect : ∀ x0, Statement (.connect x0) := by intros; exact ⟨rfl, rfl⟩
theorem launchResend : ∀ x0, Statement (.launchResend x0) := by intros; exact ⟨rfl, rfl⟩
theorem taskEndReport : ∀ x0, Statement (.taskEndReport x0) := by intros; exact ⟨rfl, rfl⟩
theorem qactRetry : ∀ x0, Statement (.qactRetry x0) := by intros; exact ⟨rfl, rfl⟩
theorem qactSkip : ∀ x0, Statement (.qactSkip x0) := by intros; exact ⟨rfl, rfl⟩
theorem qactStop : ∀ x0, Statement (.qactStop x0) := by intros; exact ⟨rfl, rfl⟩
theorem qcfg : ∀ x0 x1, Statement (.qcfg x0 x1) := by intros; exact ⟨rfl, rfl⟩
theorem specialiserWalk : ∀ x0 x1, Statement (.specialiserWalk x0 x1) := by intros; exact ⟨rfl, rfl⟩
theorem ctxcreate : ∀ x0, Statement (.ctxcreate x0) := by intros; exact ⟨rfl, rfl⟩
theorem ctxkill : ∀ x0, Statement (.ctxkill x0) := by intros; exact ⟨rfl, rfl⟩
theorem shootva : ∀ x0, Statement (.shootva x0) := by intros; exact ⟨rfl, rfl⟩
theorem shootdownComplete : Statement .shootdownComplete := ⟨rfl, rfl⟩
theorem lctlStop : ∀ x0 x1, Statement (.lctlStop x0 x1) := by intros; exact ⟨rfl, rfl⟩
theorem lctlResume : ∀ x0 x1, Statement (.lctlResume x0 x1) := by intros; exact ⟨rfl, rfl⟩
theorem lctlStep : ∀ x0 x1, Statement (.lctlStep x0 x1) := by intros; exact ⟨rfl, rfl⟩
theorem ldeleg : ∀ x0 x1 x2, Statement (.ldeleg x0 x1 x2) := by intros; exact ⟨rfl, rfl⟩
theorem ldclr : ∀ x0 x1, Statement (.ldclr x0 x1) := by intros; exact ⟨rfl, rfl⟩
theorem registerWrite : ∀ x0 x1 x2 x3, Statement (.registerWrite x0 x1 x2 x3) := by intros; exact ⟨rfl, rfl⟩
theorem hostWrite : ∀ x0 x1, Statement (.hostWrite x0 x1) := by intros; exact ⟨rfl, rfl⟩
theorem hostRead : ∀ x0 x1, Statement (.hostRead x0 x1) := by intros; exact ⟨rfl, rfl⟩
theorem ucieLinkDown : Statement .ucieLinkDown := ⟨rfl, rfl⟩
theorem ucieRetrain : Statement .ucieRetrain := ⟨rfl, rfl⟩
theorem rhohimenLinkFail : ∀ x0, Statement (.rhohimenLinkFail x0) := by intros; exact ⟨rfl, rfl⟩
theorem powerOn : ∀ x0, Statement (.powerOn x0) := by intros; exact ⟨rfl, rfl⟩
theorem bootrecWrite : ∀ x0, Statement (.bootrecWrite x0) := by intros; exact ⟨rfl, rfl⟩
theorem tamperSensor : Statement .tamperSensor := ⟨rfl, rfl⟩
theorem glitchDetected : Statement .glitchDetected := ⟨rfl, rfl⟩
theorem powerThrottle : Statement .powerThrottle := ⟨rfl, rfl⟩
theorem overtempShutdown : Statement .overtempShutdown := ⟨rfl, rfl⟩
theorem correctableError : ∀ x0, Statement (.correctableError x0) := by intros; exact ⟨rfl, rfl⟩
theorem uncorrectableError : ∀ x0 x1 x2, Statement (.uncorrectableError x0 x1 x2) := by intros; exact ⟨rfl, rfl⟩
theorem powerRemoved : Statement .powerRemoved := ⟨rfl, rfl⟩

end Sys2Proof.Laws.Opcode
end

