-- ==== Sys2Proof/Laws/State.lean ====
section
/-! SUPPORT. What each update of the state leaves: one lemma per field per update, so that no proof unfolds a record update. -/

namespace Sys2Proof.Machine

/-! setCore -/

@[simp] theorem State.setCore_mem (s : State) (c : Core) : (s.setCore c).mem = s.mem := rfl
@[simp] theorem State.setCore_past (s : State) (c : Core) : (s.setCore c).past = s.past := rfl
@[simp] theorem State.setCore_full (s : State) (c : Core) : (s.setCore c).full = s.full := rfl
@[simp] theorem State.setCore_poison (s : State) (c : Core) : (s.setCore c).poison = s.poison := rfl
@[simp] theorem State.setCore_shadow (s : State) (c : Core) : (s.setCore c).shadow = s.shadow := rfl
@[simp] theorem State.setCore_fullShadow (s : State) (c : Core) : (s.setCore c).fullShadow = s.fullShadow := rfl
@[simp] theorem State.setCore_redo (s : State) (c : Core) : (s.setCore c).redo = s.redo := rfl
@[simp] theorem State.setCore_ctxs (s : State) (c : Core) : (s.setCore c).ctxs = s.ctxs := rfl
@[simp] theorem State.setCore_walkCache (s : State) (c : Core) : (s.setCore c).walkCache = s.walkCache := rfl
@[simp] theorem State.setCore_regions (s : State) (c : Core) : (s.setCore c).regions = s.regions := rfl
@[simp] theorem State.setCore_keepers (s : State) (c : Core) : (s.setCore c).keepers = s.keepers := rfl
@[simp] theorem State.setCore_watches (s : State) (c : Core) : (s.setCore c).watches = s.watches := rfl
@[simp] theorem State.setCore_flights (s : State) (c : Core) : (s.setCore c).flights = s.flights := rfl
@[simp] theorem State.setCore_kept (s : State) (c : Core) : (s.setCore c).kept = s.kept := rfl
@[simp] theorem State.setCore_hreqs (s : State) (c : Core) : (s.setCore c).hreqs = s.hreqs := rfl
@[simp] theorem State.setCore_creqs (s : State) (c : Core) : (s.setCore c).creqs = s.creqs := rfl
@[simp] theorem State.setCore_qsends (s : State) (c : Core) : (s.setCore c).qsends = s.qsends := rfl
@[simp] theorem State.setCore_hunits (s : State) (c : Core) : (s.setCore c).hunits = s.hunits := rfl
@[simp] theorem State.setCore_groups (s : State) (c : Core) : (s.setCore c).groups = s.groups := rfl
@[simp] theorem State.setCore_queues (s : State) (c : Core) : (s.setCore c).queues = s.queues := rfl
@[simp] theorem State.setCore_launches (s : State) (c : Core) : (s.setCore c).launches = s.launches := rfl
@[simp] theorem State.setCore_nextLaunch (s : State) (c : Core) : (s.setCore c).nextLaunch = s.nextLaunch := rfl
@[simp] theorem State.setCore_spec (s : State) (c : Core) : (s.setCore c).spec = s.spec := rfl
@[simp] theorem State.setCore_versions (s : State) (c : Core) : (s.setCore c).versions = s.versions := rfl
@[simp] theorem State.setCore_masks (s : State) (c : Core) : (s.setCore c).masks = s.masks := rfl
@[simp] theorem State.setCore_errs (s : State) (c : Core) : (s.setCore c).errs = s.errs := rfl
@[simp] theorem State.setCore_pkg (s : State) (c : Core) : (s.setCore c).pkg = s.pkg := rfl
@[simp] theorem State.setCore_cc (s : State) (c : Core) : (s.setCore c).cc = s.cc := rfl
@[simp] theorem State.setCore_tick (s : State) (c : Core) : (s.setCore c).tick = s.tick := rfl
@[simp] theorem State.setCore_cur (s : State) (c : Core) : (s.setCore c).cur = s.cur := rfl
@[simp] theorem State.setCore_agenda (s : State) (c : Core) : (s.setCore c).agenda = s.agenda := rfl
@[simp] theorem State.setCore_fresh (s : State) (c : Core) : (s.setCore c).fresh = s.fresh := rfl

/-! setCtx -/

@[simp] theorem State.setCtx_mem (s : State) (x : Ctx) : (s.setCtx x).mem = s.mem := rfl
@[simp] theorem State.setCtx_past (s : State) (x : Ctx) : (s.setCtx x).past = s.past := rfl
@[simp] theorem State.setCtx_full (s : State) (x : Ctx) : (s.setCtx x).full = s.full := rfl
@[simp] theorem State.setCtx_poison (s : State) (x : Ctx) : (s.setCtx x).poison = s.poison := rfl
@[simp] theorem State.setCtx_shadow (s : State) (x : Ctx) : (s.setCtx x).shadow = s.shadow := rfl
@[simp] theorem State.setCtx_fullShadow (s : State) (x : Ctx) : (s.setCtx x).fullShadow = s.fullShadow := rfl
@[simp] theorem State.setCtx_redo (s : State) (x : Ctx) : (s.setCtx x).redo = s.redo := rfl
@[simp] theorem State.setCtx_cores (s : State) (x : Ctx) : (s.setCtx x).cores = s.cores := rfl
@[simp] theorem State.setCtx_walkCache (s : State) (x : Ctx) : (s.setCtx x).walkCache = s.walkCache := rfl
@[simp] theorem State.setCtx_regions (s : State) (x : Ctx) : (s.setCtx x).regions = s.regions := rfl
@[simp] theorem State.setCtx_keepers (s : State) (x : Ctx) : (s.setCtx x).keepers = s.keepers := rfl
@[simp] theorem State.setCtx_watches (s : State) (x : Ctx) : (s.setCtx x).watches = s.watches := rfl
@[simp] theorem State.setCtx_flights (s : State) (x : Ctx) : (s.setCtx x).flights = s.flights := rfl
@[simp] theorem State.setCtx_kept (s : State) (x : Ctx) : (s.setCtx x).kept = s.kept := rfl
@[simp] theorem State.setCtx_hreqs (s : State) (x : Ctx) : (s.setCtx x).hreqs = s.hreqs := rfl
@[simp] theorem State.setCtx_creqs (s : State) (x : Ctx) : (s.setCtx x).creqs = s.creqs := rfl
@[simp] theorem State.setCtx_qsends (s : State) (x : Ctx) : (s.setCtx x).qsends = s.qsends := rfl
@[simp] theorem State.setCtx_hunits (s : State) (x : Ctx) : (s.setCtx x).hunits = s.hunits := rfl
@[simp] theorem State.setCtx_groups (s : State) (x : Ctx) : (s.setCtx x).groups = s.groups := rfl
@[simp] theorem State.setCtx_queues (s : State) (x : Ctx) : (s.setCtx x).queues = s.queues := rfl
@[simp] theorem State.setCtx_launches (s : State) (x : Ctx) : (s.setCtx x).launches = s.launches := rfl
@[simp] theorem State.setCtx_nextLaunch (s : State) (x : Ctx) : (s.setCtx x).nextLaunch = s.nextLaunch := rfl
@[simp] theorem State.setCtx_spec (s : State) (x : Ctx) : (s.setCtx x).spec = s.spec := rfl
@[simp] theorem State.setCtx_versions (s : State) (x : Ctx) : (s.setCtx x).versions = s.versions := rfl
@[simp] theorem State.setCtx_masks (s : State) (x : Ctx) : (s.setCtx x).masks = s.masks := rfl
@[simp] theorem State.setCtx_errs (s : State) (x : Ctx) : (s.setCtx x).errs = s.errs := rfl
@[simp] theorem State.setCtx_pkg (s : State) (x : Ctx) : (s.setCtx x).pkg = s.pkg := rfl
@[simp] theorem State.setCtx_cc (s : State) (x : Ctx) : (s.setCtx x).cc = s.cc := rfl
@[simp] theorem State.setCtx_tick (s : State) (x : Ctx) : (s.setCtx x).tick = s.tick := rfl
@[simp] theorem State.setCtx_cur (s : State) (x : Ctx) : (s.setCtx x).cur = s.cur := rfl
@[simp] theorem State.setCtx_agenda (s : State) (x : Ctx) : (s.setCtx x).agenda = s.agenda := rfl
@[simp] theorem State.setCtx_fresh (s : State) (x : Ctx) : (s.setCtx x).fresh = s.fresh := rfl

/-! setHunit -/

@[simp] theorem State.setHunit_mem (s : State) (u : HUnit) : (s.setHunit u).mem = s.mem := rfl
@[simp] theorem State.setHunit_past (s : State) (u : HUnit) : (s.setHunit u).past = s.past := rfl
@[simp] theorem State.setHunit_full (s : State) (u : HUnit) : (s.setHunit u).full = s.full := rfl
@[simp] theorem State.setHunit_poison (s : State) (u : HUnit) : (s.setHunit u).poison = s.poison := rfl
@[simp] theorem State.setHunit_shadow (s : State) (u : HUnit) : (s.setHunit u).shadow = s.shadow := rfl
@[simp] theorem State.setHunit_fullShadow (s : State) (u : HUnit) : (s.setHunit u).fullShadow = s.fullShadow := rfl
@[simp] theorem State.setHunit_redo (s : State) (u : HUnit) : (s.setHunit u).redo = s.redo := rfl
@[simp] theorem State.setHunit_cores (s : State) (u : HUnit) : (s.setHunit u).cores = s.cores := rfl
@[simp] theorem State.setHunit_ctxs (s : State) (u : HUnit) : (s.setHunit u).ctxs = s.ctxs := rfl
@[simp] theorem State.setHunit_walkCache (s : State) (u : HUnit) : (s.setHunit u).walkCache = s.walkCache := rfl
@[simp] theorem State.setHunit_regions (s : State) (u : HUnit) : (s.setHunit u).regions = s.regions := rfl
@[simp] theorem State.setHunit_keepers (s : State) (u : HUnit) : (s.setHunit u).keepers = s.keepers := rfl
@[simp] theorem State.setHunit_watches (s : State) (u : HUnit) : (s.setHunit u).watches = s.watches := rfl
@[simp] theorem State.setHunit_flights (s : State) (u : HUnit) : (s.setHunit u).flights = s.flights := rfl
@[simp] theorem State.setHunit_kept (s : State) (u : HUnit) : (s.setHunit u).kept = s.kept := rfl
@[simp] theorem State.setHunit_hreqs (s : State) (u : HUnit) : (s.setHunit u).hreqs = s.hreqs := rfl
@[simp] theorem State.setHunit_creqs (s : State) (u : HUnit) : (s.setHunit u).creqs = s.creqs := rfl
@[simp] theorem State.setHunit_qsends (s : State) (u : HUnit) : (s.setHunit u).qsends = s.qsends := rfl
@[simp] theorem State.setHunit_groups (s : State) (u : HUnit) : (s.setHunit u).groups = s.groups := rfl
@[simp] theorem State.setHunit_queues (s : State) (u : HUnit) : (s.setHunit u).queues = s.queues := rfl
@[simp] theorem State.setHunit_launches (s : State) (u : HUnit) : (s.setHunit u).launches = s.launches := rfl
@[simp] theorem State.setHunit_nextLaunch (s : State) (u : HUnit) : (s.setHunit u).nextLaunch = s.nextLaunch := rfl
@[simp] theorem State.setHunit_spec (s : State) (u : HUnit) : (s.setHunit u).spec = s.spec := rfl
@[simp] theorem State.setHunit_versions (s : State) (u : HUnit) : (s.setHunit u).versions = s.versions := rfl
@[simp] theorem State.setHunit_masks (s : State) (u : HUnit) : (s.setHunit u).masks = s.masks := rfl
@[simp] theorem State.setHunit_errs (s : State) (u : HUnit) : (s.setHunit u).errs = s.errs := rfl
@[simp] theorem State.setHunit_pkg (s : State) (u : HUnit) : (s.setHunit u).pkg = s.pkg := rfl
@[simp] theorem State.setHunit_cc (s : State) (u : HUnit) : (s.setHunit u).cc = s.cc := rfl
@[simp] theorem State.setHunit_tick (s : State) (u : HUnit) : (s.setHunit u).tick = s.tick := rfl
@[simp] theorem State.setHunit_cur (s : State) (u : HUnit) : (s.setHunit u).cur = s.cur := rfl
@[simp] theorem State.setHunit_agenda (s : State) (u : HUnit) : (s.setHunit u).agenda = s.agenda := rfl
@[simp] theorem State.setHunit_fresh (s : State) (u : HUnit) : (s.setHunit u).fresh = s.fresh := rfl

/-! setQueue -/

@[simp] theorem State.setQueue_mem (s : State) (q : Queue) : (s.setQueue q).mem = s.mem := rfl
@[simp] theorem State.setQueue_past (s : State) (q : Queue) : (s.setQueue q).past = s.past := rfl
@[simp] theorem State.setQueue_full (s : State) (q : Queue) : (s.setQueue q).full = s.full := rfl
@[simp] theorem State.setQueue_poison (s : State) (q : Queue) : (s.setQueue q).poison = s.poison := rfl
@[simp] theorem State.setQueue_shadow (s : State) (q : Queue) : (s.setQueue q).shadow = s.shadow := rfl
@[simp] theorem State.setQueue_fullShadow (s : State) (q : Queue) : (s.setQueue q).fullShadow = s.fullShadow := rfl
@[simp] theorem State.setQueue_redo (s : State) (q : Queue) : (s.setQueue q).redo = s.redo := rfl
@[simp] theorem State.setQueue_cores (s : State) (q : Queue) : (s.setQueue q).cores = s.cores := rfl
@[simp] theorem State.setQueue_ctxs (s : State) (q : Queue) : (s.setQueue q).ctxs = s.ctxs := rfl
@[simp] theorem State.setQueue_walkCache (s : State) (q : Queue) : (s.setQueue q).walkCache = s.walkCache := rfl
@[simp] theorem State.setQueue_regions (s : State) (q : Queue) : (s.setQueue q).regions = s.regions := rfl
@[simp] theorem State.setQueue_keepers (s : State) (q : Queue) : (s.setQueue q).keepers = s.keepers := rfl
@[simp] theorem State.setQueue_watches (s : State) (q : Queue) : (s.setQueue q).watches = s.watches := rfl
@[simp] theorem State.setQueue_flights (s : State) (q : Queue) : (s.setQueue q).flights = s.flights := rfl
@[simp] theorem State.setQueue_kept (s : State) (q : Queue) : (s.setQueue q).kept = s.kept := rfl
@[simp] theorem State.setQueue_hreqs (s : State) (q : Queue) : (s.setQueue q).hreqs = s.hreqs := rfl
@[simp] theorem State.setQueue_creqs (s : State) (q : Queue) : (s.setQueue q).creqs = s.creqs := rfl
@[simp] theorem State.setQueue_qsends (s : State) (q : Queue) : (s.setQueue q).qsends = s.qsends := rfl
@[simp] theorem State.setQueue_hunits (s : State) (q : Queue) : (s.setQueue q).hunits = s.hunits := rfl
@[simp] theorem State.setQueue_groups (s : State) (q : Queue) : (s.setQueue q).groups = s.groups := rfl
@[simp] theorem State.setQueue_launches (s : State) (q : Queue) : (s.setQueue q).launches = s.launches := rfl
@[simp] theorem State.setQueue_nextLaunch (s : State) (q : Queue) : (s.setQueue q).nextLaunch = s.nextLaunch := rfl
@[simp] theorem State.setQueue_spec (s : State) (q : Queue) : (s.setQueue q).spec = s.spec := rfl
@[simp] theorem State.setQueue_versions (s : State) (q : Queue) : (s.setQueue q).versions = s.versions := rfl
@[simp] theorem State.setQueue_masks (s : State) (q : Queue) : (s.setQueue q).masks = s.masks := rfl
@[simp] theorem State.setQueue_errs (s : State) (q : Queue) : (s.setQueue q).errs = s.errs := rfl
@[simp] theorem State.setQueue_pkg (s : State) (q : Queue) : (s.setQueue q).pkg = s.pkg := rfl
@[simp] theorem State.setQueue_cc (s : State) (q : Queue) : (s.setQueue q).cc = s.cc := rfl
@[simp] theorem State.setQueue_tick (s : State) (q : Queue) : (s.setQueue q).tick = s.tick := rfl
@[simp] theorem State.setQueue_cur (s : State) (q : Queue) : (s.setQueue q).cur = s.cur := rfl
@[simp] theorem State.setQueue_agenda (s : State) (q : Queue) : (s.setQueue q).agenda = s.agenda := rfl
@[simp] theorem State.setQueue_fresh (s : State) (q : Queue) : (s.setQueue q).fresh = s.fresh := rfl

/-! setBank -/

@[simp] theorem State.setBank_mem (s : State) (b : Bank) : (s.setBank b).mem = s.mem := rfl
@[simp] theorem State.setBank_past (s : State) (b : Bank) : (s.setBank b).past = s.past := rfl
@[simp] theorem State.setBank_full (s : State) (b : Bank) : (s.setBank b).full = s.full := rfl
@[simp] theorem State.setBank_poison (s : State) (b : Bank) : (s.setBank b).poison = s.poison := rfl
@[simp] theorem State.setBank_shadow (s : State) (b : Bank) : (s.setBank b).shadow = s.shadow := rfl
@[simp] theorem State.setBank_fullShadow (s : State) (b : Bank) : (s.setBank b).fullShadow = s.fullShadow := rfl
@[simp] theorem State.setBank_redo (s : State) (b : Bank) : (s.setBank b).redo = s.redo := rfl
@[simp] theorem State.setBank_ctxs (s : State) (b : Bank) : (s.setBank b).ctxs = s.ctxs := rfl
@[simp] theorem State.setBank_walkCache (s : State) (b : Bank) : (s.setBank b).walkCache = s.walkCache := rfl
@[simp] theorem State.setBank_regions (s : State) (b : Bank) : (s.setBank b).regions = s.regions := rfl
@[simp] theorem State.setBank_keepers (s : State) (b : Bank) : (s.setBank b).keepers = s.keepers := rfl
@[simp] theorem State.setBank_watches (s : State) (b : Bank) : (s.setBank b).watches = s.watches := rfl
@[simp] theorem State.setBank_flights (s : State) (b : Bank) : (s.setBank b).flights = s.flights := rfl
@[simp] theorem State.setBank_kept (s : State) (b : Bank) : (s.setBank b).kept = s.kept := rfl
@[simp] theorem State.setBank_hreqs (s : State) (b : Bank) : (s.setBank b).hreqs = s.hreqs := rfl
@[simp] theorem State.setBank_creqs (s : State) (b : Bank) : (s.setBank b).creqs = s.creqs := rfl
@[simp] theorem State.setBank_qsends (s : State) (b : Bank) : (s.setBank b).qsends = s.qsends := rfl
@[simp] theorem State.setBank_hunits (s : State) (b : Bank) : (s.setBank b).hunits = s.hunits := rfl
@[simp] theorem State.setBank_groups (s : State) (b : Bank) : (s.setBank b).groups = s.groups := rfl
@[simp] theorem State.setBank_queues (s : State) (b : Bank) : (s.setBank b).queues = s.queues := rfl
@[simp] theorem State.setBank_launches (s : State) (b : Bank) : (s.setBank b).launches = s.launches := rfl
@[simp] theorem State.setBank_nextLaunch (s : State) (b : Bank) : (s.setBank b).nextLaunch = s.nextLaunch := rfl
@[simp] theorem State.setBank_spec (s : State) (b : Bank) : (s.setBank b).spec = s.spec := rfl
@[simp] theorem State.setBank_versions (s : State) (b : Bank) : (s.setBank b).versions = s.versions := rfl
@[simp] theorem State.setBank_masks (s : State) (b : Bank) : (s.setBank b).masks = s.masks := rfl
@[simp] theorem State.setBank_errs (s : State) (b : Bank) : (s.setBank b).errs = s.errs := rfl
@[simp] theorem State.setBank_pkg (s : State) (b : Bank) : (s.setBank b).pkg = s.pkg := rfl
@[simp] theorem State.setBank_cc (s : State) (b : Bank) : (s.setBank b).cc = s.cc := rfl
@[simp] theorem State.setBank_tick (s : State) (b : Bank) : (s.setBank b).tick = s.tick := rfl
@[simp] theorem State.setBank_cur (s : State) (b : Bank) : (s.setBank b).cur = s.cur := rfl
@[simp] theorem State.setBank_agenda (s : State) (b : Bank) : (s.setBank b).agenda = s.agenda := rfl
@[simp] theorem State.setBank_fresh (s : State) (b : Bank) : (s.setBank b).fresh = s.fresh := rfl

/-! drawn -/

@[simp] theorem State.drawn_mem (s : State) : (s.drawn).mem = s.mem := rfl
@[simp] theorem State.drawn_past (s : State) : (s.drawn).past = s.past := rfl
@[simp] theorem State.drawn_full (s : State) : (s.drawn).full = s.full := rfl
@[simp] theorem State.drawn_poison (s : State) : (s.drawn).poison = s.poison := rfl
@[simp] theorem State.drawn_shadow (s : State) : (s.drawn).shadow = s.shadow := rfl
@[simp] theorem State.drawn_fullShadow (s : State) : (s.drawn).fullShadow = s.fullShadow := rfl
@[simp] theorem State.drawn_redo (s : State) : (s.drawn).redo = s.redo := rfl
@[simp] theorem State.drawn_cores (s : State) : (s.drawn).cores = s.cores := rfl
@[simp] theorem State.drawn_ctxs (s : State) : (s.drawn).ctxs = s.ctxs := rfl
@[simp] theorem State.drawn_walkCache (s : State) : (s.drawn).walkCache = s.walkCache := rfl
@[simp] theorem State.drawn_regions (s : State) : (s.drawn).regions = s.regions := rfl
@[simp] theorem State.drawn_keepers (s : State) : (s.drawn).keepers = s.keepers := rfl
@[simp] theorem State.drawn_watches (s : State) : (s.drawn).watches = s.watches := rfl
@[simp] theorem State.drawn_flights (s : State) : (s.drawn).flights = s.flights := rfl
@[simp] theorem State.drawn_kept (s : State) : (s.drawn).kept = s.kept := rfl
@[simp] theorem State.drawn_hreqs (s : State) : (s.drawn).hreqs = s.hreqs := rfl
@[simp] theorem State.drawn_creqs (s : State) : (s.drawn).creqs = s.creqs := rfl
@[simp] theorem State.drawn_qsends (s : State) : (s.drawn).qsends = s.qsends := rfl
@[simp] theorem State.drawn_hunits (s : State) : (s.drawn).hunits = s.hunits := rfl
@[simp] theorem State.drawn_groups (s : State) : (s.drawn).groups = s.groups := rfl
@[simp] theorem State.drawn_queues (s : State) : (s.drawn).queues = s.queues := rfl
@[simp] theorem State.drawn_launches (s : State) : (s.drawn).launches = s.launches := rfl
@[simp] theorem State.drawn_nextLaunch (s : State) : (s.drawn).nextLaunch = s.nextLaunch := rfl
@[simp] theorem State.drawn_spec (s : State) : (s.drawn).spec = s.spec := rfl
@[simp] theorem State.drawn_versions (s : State) : (s.drawn).versions = s.versions := rfl
@[simp] theorem State.drawn_masks (s : State) : (s.drawn).masks = s.masks := rfl
@[simp] theorem State.drawn_errs (s : State) : (s.drawn).errs = s.errs := rfl
@[simp] theorem State.drawn_pkg (s : State) : (s.drawn).pkg = s.pkg := rfl
@[simp] theorem State.drawn_cc (s : State) : (s.drawn).cc = s.cc := rfl
@[simp] theorem State.drawn_tick (s : State) : (s.drawn).tick = s.tick := rfl
@[simp] theorem State.drawn_cur (s : State) : (s.drawn).cur = s.cur := rfl
@[simp] theorem State.drawn_agenda (s : State) : (s.drawn).agenda = s.agenda := rfl

/-! setBytes -/

@[simp] theorem setBytes_past (s : State) (k : Nat) (bs : List Byte) : (setBytes s k bs).past = s.past := rfl
@[simp] theorem setBytes_full (s : State) (k : Nat) (bs : List Byte) : (setBytes s k bs).full = s.full := rfl
@[simp] theorem setBytes_poison (s : State) (k : Nat) (bs : List Byte) : (setBytes s k bs).poison = s.poison := rfl
@[simp] theorem setBytes_shadow (s : State) (k : Nat) (bs : List Byte) : (setBytes s k bs).shadow = s.shadow := rfl
@[simp] theorem setBytes_fullShadow (s : State) (k : Nat) (bs : List Byte) : (setBytes s k bs).fullShadow = s.fullShadow := rfl
@[simp] theorem setBytes_redo (s : State) (k : Nat) (bs : List Byte) : (setBytes s k bs).redo = s.redo := rfl
@[simp] theorem setBytes_cores (s : State) (k : Nat) (bs : List Byte) : (setBytes s k bs).cores = s.cores := rfl
@[simp] theorem setBytes_ctxs (s : State) (k : Nat) (bs : List Byte) : (setBytes s k bs).ctxs = s.ctxs := rfl
@[simp] theorem setBytes_walkCache (s : State) (k : Nat) (bs : List Byte) : (setBytes s k bs).walkCache = s.walkCache := rfl
@[simp] theorem setBytes_regions (s : State) (k : Nat) (bs : List Byte) : (setBytes s k bs).regions = s.regions := rfl
@[simp] theorem setBytes_keepers (s : State) (k : Nat) (bs : List Byte) : (setBytes s k bs).keepers = s.keepers := rfl
@[simp] theorem setBytes_watches (s : State) (k : Nat) (bs : List Byte) : (setBytes s k bs).watches = s.watches := rfl
@[simp] theorem setBytes_flights (s : State) (k : Nat) (bs : List Byte) : (setBytes s k bs).flights = s.flights := rfl
@[simp] theorem setBytes_kept (s : State) (k : Nat) (bs : List Byte) : (setBytes s k bs).kept = s.kept := rfl
@[simp] theorem setBytes_hreqs (s : State) (k : Nat) (bs : List Byte) : (setBytes s k bs).hreqs = s.hreqs := rfl
@[simp] theorem setBytes_creqs (s : State) (k : Nat) (bs : List Byte) : (setBytes s k bs).creqs = s.creqs := rfl
@[simp] theorem setBytes_qsends (s : State) (k : Nat) (bs : List Byte) : (setBytes s k bs).qsends = s.qsends := rfl
@[simp] theorem setBytes_hunits (s : State) (k : Nat) (bs : List Byte) : (setBytes s k bs).hunits = s.hunits := rfl
@[simp] theorem setBytes_groups (s : State) (k : Nat) (bs : List Byte) : (setBytes s k bs).groups = s.groups := rfl
@[simp] theorem setBytes_queues (s : State) (k : Nat) (bs : List Byte) : (setBytes s k bs).queues = s.queues := rfl
@[simp] theorem setBytes_launches (s : State) (k : Nat) (bs : List Byte) : (setBytes s k bs).launches = s.launches := rfl
@[simp] theorem setBytes_nextLaunch (s : State) (k : Nat) (bs : List Byte) : (setBytes s k bs).nextLaunch = s.nextLaunch := rfl
@[simp] theorem setBytes_spec (s : State) (k : Nat) (bs : List Byte) : (setBytes s k bs).spec = s.spec := rfl
@[simp] theorem setBytes_versions (s : State) (k : Nat) (bs : List Byte) : (setBytes s k bs).versions = s.versions := rfl
@[simp] theorem setBytes_masks (s : State) (k : Nat) (bs : List Byte) : (setBytes s k bs).masks = s.masks := rfl
@[simp] theorem setBytes_errs (s : State) (k : Nat) (bs : List Byte) : (setBytes s k bs).errs = s.errs := rfl
@[simp] theorem setBytes_pkg (s : State) (k : Nat) (bs : List Byte) : (setBytes s k bs).pkg = s.pkg := rfl
@[simp] theorem setBytes_cc (s : State) (k : Nat) (bs : List Byte) : (setBytes s k bs).cc = s.cc := rfl
@[simp] theorem setBytes_tick (s : State) (k : Nat) (bs : List Byte) : (setBytes s k bs).tick = s.tick := rfl
@[simp] theorem setBytes_cur (s : State) (k : Nat) (bs : List Byte) : (setBytes s k bs).cur = s.cur := rfl
@[simp] theorem setBytes_agenda (s : State) (k : Nat) (bs : List Byte) : (setBytes s k bs).agenda = s.agenda := rfl
@[simp] theorem setBytes_fresh (s : State) (k : Nat) (bs : List Byte) : (setBytes s k bs).fresh = s.fresh := rfl
@[simp] theorem setBytes_mem (s : State) (k : Nat) (bs : List Byte) : (setBytes s k bs).mem = writeCells s.mem k bs := rfl

/-! clearPois -/

@[simp] theorem clearPois_mem (s : State) (k n : Nat) : (clearPois s k n).mem = s.mem := by
  unfold clearPois; split <;> rfl
@[simp] theorem clearPois_past (s : State) (k n : Nat) : (clearPois s k n).past = s.past := by
  unfold clearPois; split <;> rfl
@[simp] theorem clearPois_full (s : State) (k n : Nat) : (clearPois s k n).full = s.full := by
  unfold clearPois; split <;> rfl
@[simp] theorem clearPois_shadow (s : State) (k n : Nat) : (clearPois s k n).shadow = s.shadow := by
  unfold clearPois; split <;> rfl
@[simp] theorem clearPois_fullShadow (s : State) (k n : Nat) : (clearPois s k n).fullShadow = s.fullShadow := by
  unfold clearPois; split <;> rfl
@[simp] theorem clearPois_redo (s : State) (k n : Nat) : (clearPois s k n).redo = s.redo := by
  unfold clearPois; split <;> rfl
@[simp] theorem clearPois_cores (s : State) (k n : Nat) : (clearPois s k n).cores = s.cores := by
  unfold clearPois; split <;> rfl
@[simp] theorem clearPois_ctxs (s : State) (k n : Nat) : (clearPois s k n).ctxs = s.ctxs := by
  unfold clearPois; split <;> rfl
@[simp] theorem clearPois_walkCache (s : State) (k n : Nat) : (clearPois s k n).walkCache = s.walkCache := by
  unfold clearPois; split <;> rfl
@[simp] theorem clearPois_regions (s : State) (k n : Nat) : (clearPois s k n).regions = s.regions := by
  unfold clearPois; split <;> rfl
@[simp] theorem clearPois_keepers (s : State) (k n : Nat) : (clearPois s k n).keepers = s.keepers := by
  unfold clearPois; split <;> rfl
@[simp] theorem clearPois_watches (s : State) (k n : Nat) : (clearPois s k n).watches = s.watches := by
  unfold clearPois; split <;> rfl
@[simp] theorem clearPois_flights (s : State) (k n : Nat) : (clearPois s k n).flights = s.flights := by
  unfold clearPois; split <;> rfl
@[simp] theorem clearPois_kept (s : State) (k n : Nat) : (clearPois s k n).kept = s.kept := by
  unfold clearPois; split <;> rfl
@[simp] theorem clearPois_hreqs (s : State) (k n : Nat) : (clearPois s k n).hreqs = s.hreqs := by
  unfold clearPois; split <;> rfl
@[simp] theorem clearPois_creqs (s : State) (k n : Nat) : (clearPois s k n).creqs = s.creqs := by
  unfold clearPois; split <;> rfl
@[simp] theorem clearPois_qsends (s : State) (k n : Nat) : (clearPois s k n).qsends = s.qsends := by
  unfold clearPois; split <;> rfl
@[simp] theorem clearPois_hunits (s : State) (k n : Nat) : (clearPois s k n).hunits = s.hunits := by
  unfold clearPois; split <;> rfl
@[simp] theorem clearPois_groups (s : State) (k n : Nat) : (clearPois s k n).groups = s.groups := by
  unfold clearPois; split <;> rfl
@[simp] theorem clearPois_queues (s : State) (k n : Nat) : (clearPois s k n).queues = s.queues := by
  unfold clearPois; split <;> rfl
@[simp] theorem clearPois_launches (s : State) (k n : Nat) : (clearPois s k n).launches = s.launches := by
  unfold clearPois; split <;> rfl
@[simp] theorem clearPois_nextLaunch (s : State) (k n : Nat) : (clearPois s k n).nextLaunch = s.nextLaunch := by
  unfold clearPois; split <;> rfl
@[simp] theorem clearPois_spec (s : State) (k n : Nat) : (clearPois s k n).spec = s.spec := by
  unfold clearPois; split <;> rfl
@[simp] theorem clearPois_versions (s : State) (k n : Nat) : (clearPois s k n).versions = s.versions := by
  unfold clearPois; split <;> rfl
@[simp] theorem clearPois_masks (s : State) (k n : Nat) : (clearPois s k n).masks = s.masks := by
  unfold clearPois; split <;> rfl
@[simp] theorem clearPois_errs (s : State) (k n : Nat) : (clearPois s k n).errs = s.errs := by
  unfold clearPois; split <;> rfl
@[simp] theorem clearPois_pkg (s : State) (k n : Nat) : (clearPois s k n).pkg = s.pkg := by
  unfold clearPois; split <;> rfl
@[simp] theorem clearPois_cc (s : State) (k n : Nat) : (clearPois s k n).cc = s.cc := by
  unfold clearPois; split <;> rfl
@[simp] theorem clearPois_tick (s : State) (k n : Nat) : (clearPois s k n).tick = s.tick := by
  unfold clearPois; split <;> rfl
@[simp] theorem clearPois_cur (s : State) (k n : Nat) : (clearPois s k n).cur = s.cur := by
  unfold clearPois; split <;> rfl
@[simp] theorem clearPois_agenda (s : State) (k n : Nat) : (clearPois s k n).agenda = s.agenda := by
  unfold clearPois; split <;> rfl
@[simp] theorem clearPois_fresh (s : State) (k n : Nat) : (clearPois s k n).fresh = s.fresh := by
  unfold clearPois; split <;> rfl

/-! A core's banks -/

@[simp] theorem Core.setBankOf_phys (c : Core) (hi : Bool) (b : Bank) : (c.setBankOf hi b).phys = c.phys := by
  cases hi <;> rfl
@[simp] theorem Core.setBankOf_saved (c : Core) (hi : Bool) (b : Bank) : (c.setBankOf hi b).saved = c.saved := by
  cases hi <;> rfl
@[simp] theorem Core.setBankOf_nextId (c : Core) (hi : Bool) (b : Bank) : (c.setBankOf hi b).nextId = c.nextId := by
  cases hi <;> rfl
@[simp] theorem Core.setBankOf_nextTask (c : Core) (hi : Bool) (b : Bank) : (c.setBankOf hi b).nextTask = c.nextTask := by
  cases hi <;> rfl
@[simp] theorem Core.setBankOf_ops (c : Core) (hi : Bool) (b : Bank) : (c.setBankOf hi b).ops = c.ops := by
  cases hi <;> rfl
@[simp] theorem Core.setBankOf_sending (c : Core) (hi : Bool) (b : Bank) : (c.setBankOf hi b).sending = c.sending := by
  cases hi <;> rfl
@[simp] theorem Core.setBankOf_vec (c : Core) (hi : Bool) (b : Bank) : (c.setBankOf hi b).vec = c.vec := by
  cases hi <;> rfl
@[simp] theorem Core.setBankOf_shu (c : Core) (hi : Bool) (b : Bank) : (c.setBankOf hi b).shu = c.shu := by
  cases hi <;> rfl
@[simp] theorem Core.setBankOf_weft (c : Core) (hi : Bool) (b : Bank) : (c.setBankOf hi b).weft = c.weft := by
  cases hi <;> rfl
@[simp] theorem Core.setBankOf_gear (c : Core) (hi : Bool) (b : Bank) : (c.setBankOf hi b).gear = c.gear := by
  cases hi <;> rfl
@[simp] theorem Core.setBankOf_tlb (c : Core) (hi : Bool) (b : Bank) : (c.setBankOf hi b).tlb = c.tlb := by
  cases hi <;> rfl
@[simp] theorem Core.setBankOf_icache (c : Core) (hi : Bool) (b : Bank) : (c.setBankOf hi b).icache = c.icache := by
  cases hi <;> rfl
@[simp] theorem Core.setBankOf_frames (c : Core) (hi : Bool) (b : Bank) : (c.setBankOf hi b).frames = c.frames := by
  cases hi <;> rfl
@[simp] theorem Core.setBankOf_loupe (c : Core) (hi : Bool) (b : Bank) : (c.setBankOf hi b).loupe = c.loupe := by
  cases hi <;> rfl
@[simp] theorem Core.setBankOf_dacc (c : Core) (hi : Bool) (b : Bank) : (c.setBankOf hi b).dacc = c.dacc := by
  cases hi <;> rfl
@[simp] theorem Core.setBankOf_fetchDrop (c : Core) (hi : Bool) (b : Bank) : (c.setBankOf hi b).fetchDrop = c.fetchDrop := by
  cases hi <;> rfl
@[simp] theorem Core.setBankOf_netWindow (c : Core) (hi : Bool) (b : Bank) : (c.setBankOf hi b).netWindow = c.netWindow := by
  cases hi <;> rfl
@[simp] theorem Core.setBankOf_cx_ctx (c : Core) (hi : Bool) (b : Bank) : (c.setBankOf hi b).cx.ctx = c.cx.ctx := by
  cases hi <;> rfl
@[simp] theorem Core.setBankOf_cx_lc (c : Core) (hi : Bool) (b : Bank) : (c.setBankOf hi b).cx.lc = c.cx.lc := by
  cases hi <;> rfl
@[simp] theorem Core.setBankOf_cx_chans (c : Core) (hi : Bool) (b : Bank) : (c.setBankOf hi b).cx.chans = c.cx.chans := by
  cases hi <;> rfl
@[simp] theorem Core.setBankOf_cx_mwin (c : Core) (hi : Bool) (b : Bank) : (c.setBankOf hi b).cx.mwin = c.cx.mwin := by
  cases hi <;> rfl
@[simp] theorem Core.setBankOf_cx_sel (c : Core) (hi : Bool) (b : Bank) : (c.setBankOf hi b).cx.sel = c.cx.sel := by
  cases hi <;> rfl
@[simp] theorem Core.setBankOf_cx_due (c : Core) (hi : Bool) (b : Bank) : (c.setBankOf hi b).cx.due = c.cx.due := by
  cases hi <;> rfl
@[simp] theorem Core.setBankOf_cx_rr (c : Core) (hi : Bool) (b : Bank) : (c.setBankOf hi b).cx.rr = c.cx.rr := by
  cases hi <;> rfl
@[simp] theorem Core.setBankOf_cx_slots (c : Core) (hi : Bool) (b : Bank) : (c.setBankOf hi b).cx.slots = c.cx.slots := by
  cases hi <;> rfl
@[simp] theorem Core.setBankOf_cx_overflow (c : Core) (hi : Bool) (b : Bank) : (c.setBankOf hi b).cx.overflow = c.cx.overflow := by
  cases hi <;> rfl
@[simp] theorem Core.setBankOf_cx_qret (c : Core) (hi : Bool) (b : Bank) : (c.setBankOf hi b).cx.qret = c.cx.qret := by
  cases hi <;> rfl
@[simp] theorem Core.setBankOf_cx_instret (c : Core) (hi : Bool) (b : Bank) : (c.setBankOf hi b).cx.instret = c.cx.instret := by
  cases hi <;> rfl
@[simp] theorem Core.setBankOf_cx_bounceDrop (c : Core) (hi : Bool) (b : Bank) : (c.setBankOf hi b).cx.bounceDrop = c.cx.bounceDrop := by
  cases hi <;> rfl
@[simp] theorem Core.setBankOf_cx_msgDrop (c : Core) (hi : Bool) (b : Bank) : (c.setBankOf hi b).cx.msgDrop = c.cx.msgDrop := by
  cases hi <;> rfl
@[simp] theorem Core.setBankOf_cx_tiles (c : Core) (hi : Bool) (b : Bank) : (c.setBankOf hi b).cx.tiles = c.cx.tiles := by
  cases hi <;> rfl
@[simp] theorem Core.setBankOf_cx_gear (c : Core) (hi : Bool) (b : Bank) : (c.setBankOf hi b).cx.gear = c.cx.gear := by
  cases hi <;> rfl
@[simp] theorem Core.setBankOf_cx_weft (c : Core) (hi : Bool) (b : Bank) : (c.setBankOf hi b).cx.weft = c.cx.weft := by
  cases hi <;> rfl
@[simp] theorem Core.setBankOf_cx_frz (c : Core) (hi : Bool) (b : Bank) : (c.setBankOf hi b).cx.frz = c.cx.frz := by
  cases hi <;> rfl
@[simp] theorem Core.setBankOf_cx_marks (c : Core) (hi : Bool) (b : Bank) : (c.setBankOf hi b).cx.marks = c.cx.marks := by
  cases hi <;> rfl
@[simp] theorem Core.setBankOf_cx_savedFull (c : Core) (hi : Bool) (b : Bank) : (c.setBankOf hi b).cx.savedFull = c.cx.savedFull := by
  cases hi <;> rfl
@[simp] theorem Core.setBankOf_cx_savedWeft (c : Core) (hi : Bool) (b : Bank) : (c.setBankOf hi b).cx.savedWeft = c.cx.savedWeft := by
  cases hi <;> rfl
@[simp] theorem Core.setBankOf_cx_savedRun (c : Core) (hi : Bool) (b : Bank) : (c.setBankOf hi b).cx.savedRun = c.cx.savedRun := by
  cases hi <;> rfl
@[simp] theorem Core.setBankOf_cx_savedGear (c : Core) (hi : Bool) (b : Bank) : (c.setBankOf hi b).cx.savedGear = c.cx.savedGear := by
  cases hi <;> rfl
@[simp] theorem Core.setBankOf_cx_ended (c : Core) (hi : Bool) (b : Bank) : (c.setBankOf hi b).cx.ended = c.cx.ended := by
  cases hi <;> rfl

@[simp] theorem Core.bankOf_setBankOf (c : Core) (hi : Bool) (b : Bank) : (c.setBankOf hi b).bankOf hi = b := by
  cases hi <;> rfl
@[simp] theorem Core.bankOf_setBankOf_not (c : Core) (hi : Bool) (b : Bank) : (c.setBankOf hi b).bankOf (!hi) = c.bankOf (!hi) := by
  cases hi <;> rfl
theorem Core.bankOf_setBankOf_ne (c : Core) (hi lo : Bool) (b : Bank) (h : lo ≠ hi) :
    (c.setBankOf hi b).bankOf lo = c.bankOf lo := by
  cases hi <;> cases lo <;> simp_all <;> rfl

/-! The cores of the state -/

@[simp] theorem State.core_phys (s : State) (p : Nat) : (s.core p).phys = p := by
  unfold State.core
  cases h : getBy Core.phys s.cores p with
  | none => rfl
  | some c => exact getBy_key _ _ _ _ h

theorem State.core_setCore (s : State) (c : Core) (p : Nat) :
    (s.setCore c).core p = if c.phys = p then c else s.core p := by
  simp only [State.core, State.setCore, getBy_putBy]
  split <;> rfl

@[simp] theorem State.core_setCore_same (s : State) (c : Core) : (s.setCore c).core c.phys = c := by
  simp [State.core_setCore]

/-- An update that leaves the table of cores alone leaves every core alone. -/
theorem State.core_of_cores {s t : State} (h : t.cores = s.cores) (p : Nat) : t.core p = s.core p := by
  simp [State.core, h]

@[simp] theorem State.here_phys (s : State) : s.here.phys = s.cur := State.core_phys s s.cur

@[simp] theorem State.here_setCore (s : State) (c : Core) (h : c.phys = s.cur) : (s.setCore c).here = c := by
  simp [State.here, State.core_setCore, h]

@[simp] theorem State.here_setBank (s : State) (b : Bank) : (s.setBank b).here = s.here.setBankOf s.here.rb b := by
  simp [State.setBank]

@[simp] theorem State.drawn_core (s : State) (p : Nat) : s.drawn.core p = s.core p := rfl
@[simp] theorem State.setCtx_core (s : State) (x : Ctx) (p : Nat) : (s.setCtx x).core p = s.core p := rfl
@[simp] theorem setBytes_core (s : State) (k : Nat) (bs : List Byte) (p : Nat) : (setBytes s k bs).core p = s.core p := rfl
@[simp] theorem clearPois_core (s : State) (k n p : Nat) : (clearPois s k n).core p = s.core p :=
  State.core_of_cores (clearPois_cores s k n) p

theorem State.core_modCore (s : State) (p q : Nat) (g : Core → Core) (hg : (g (s.core p)).phys = p) :
    (s.modCore p g).core q = if p = q then g (s.core p) else s.core q := by
  simp [State.modCore, State.core_setCore, hg]

/-! Contexts, queues and heddle units -/

theorem State.ctx?_setCtx (s : State) (x : Ctx) (id : Nat) :
    (s.setCtx x).ctx? id = if x.id = id then some x else s.ctx? id := by
  simp [State.ctx?, State.setCtx, getBy_putBy]

theorem State.queue_setQueue (s : State) (q : Queue) (n : Nat) :
    (s.setQueue q).queue n = if q.n = n then q else s.queue n := by
  simp only [State.queue, State.queue?, State.setQueue, getBy_putBy]
  split <;> rfl

theorem State.hunit_setHunit (s : State) (u : HUnit) (n : Nat) :
    (s.setHunit u).hunit n = if u.n = n then u else s.hunit n := by
  simp only [State.hunit, State.setHunit, getBy_putBy]
  split <;> rfl

end Sys2Proof.Machine
end

