-- ==== Sys2Proof/Laws/Queue.lean ====
section
/-! SUPPORT. What issuing a command, an outstanding operation or a request leaves in the core (R9, R41, R146). -/

namespace Sys2Proof.Machine

theorem Core.same_task (c : Core) : c = c.setBankOf c.rb { c.bank with task := c.bank.task } := by
  unfold Core.bank
  cases c.rb <;> rfl

/-- Opening a window changes nothing but the windows of the running task. -/
theorem Bank.opened_task (b : Bank) (f : Fields) (regs : List Reg) (op : Nat) :
    ∃ t, b.opened f regs op = { b with task := t } ∧ t.live = b.task.live ∧ t.serial = b.task.serial := by
  unfold Bank.opened
  simp only []
  split
  · exact ⟨b.task, rfl, rfl, rfl⟩
  · exact ⟨_, rfl, rfl, rfl⟩

/-- So the bank that runs is the same but for its task. -/
theorem opened_here (s : State) (f : Fields) (regs : List Reg) (op : Nat) :
    ∃ t, (s.setBank (s.bank.opened f regs op)).here = s.here.setBankOf s.here.rb { s.here.bank with task := t } ∧
      t.live = s.here.bank.task.live ∧ t.serial = s.here.bank.task.serial := by
  obtain ⟨t, ht, hl, hs⟩ := Bank.opened_task s.bank f regs op
  exact ⟨t, by rw [ht]; exact State.here_setBank _ _, hl, hs⟩

/-- Where the queue has room a command goes to its end. -/
theorem pushCmd_room (s : State) (f : Fields) (e : Eng) (k : Cmd) (h : HasRoom s e) :
    ∃ u, pushCmd s f e k = .done u ∧ u.cur = s.cur ∧
      u.here.eng e = { s.here.eng e with waiting := (s.here.eng e).waiting ++ [k] } ∧
      ∀ hi, (u.here.bankOf hi).regs = (s.here.bankOf hi).regs := by
  unfold HasRoom at h
  have full : ((s.here.eng e).full || commandHeld s) = false := by simp [EngQ.full, h.2]; omega
  refine ⟨_, by unfold pushCmd; simp only [full]; exact rfl, by rfl, ?_, ?_⟩
  · obtain ⟨t, ht, -, -⟩ := opened_here
      (s.setCore { s.here.setEng e { s.here.eng e with waiting := (s.here.eng e).waiting ++ [k] } with nextId := s.here.nextId + 1 }) f (regOf f.dst) k.id
    rw [ht]
    cases e <;> simp [Core.eng, Core.setEng]
  · intro hi
    obtain ⟨t, ht, -, -⟩ := opened_here
      (s.setCore { s.here.setEng e { s.here.eng e with waiting := (s.here.eng e).waiting ++ [k] } with nextId := s.here.nextId + 1 }) f (regOf f.dst) k.id
    rw [ht, State.here_setCore _ _ (by cases e <;> simp [Core.setEng])]
    cases e <;> cases hr : Core.rb s.here <;> cases hi <;> simp [Core.setEng, Core.setBankOf, Core.bankOf, Core.rb, Core.bank] <;>
      simp_all [Core.rb, Bank.regs]

theorem pushCmd_full (s : State) (f : Fields) (e : Eng) (k : Cmd) (h : ¬ HasRoom s e) : pushCmd s f e k = .stall := by
  unfold HasRoom at h
  have full : ((s.here.eng e).full || commandHeld s) = true := by
    simp only [Bool.or_eq_true, EngQ.full, decide_eq_true_eq]
    cases hc : commandHeld s
    · exact .inl (Nat.le_of_not_lt fun hl => h ⟨hl, hc⟩)
    · exact .inr rfl
  unfold pushCmd
  simp only [full, if_true]

/-- A command of the instruction, as `Queues` describes it. -/
theorem queues_of_push (i : Instr) (f : Fields) (s s' : State) (e : Eng) (k : Cmd) (p : Cmd → Prop) (r : Regs)
    (run : ∀ u, pushCmd s' f e k = .done u → Completes i f s u) (room : HasRoom s e)
    (cur : s'.cur = s.cur) (eng : s'.here.eng e = s.here.eng e) (held : commandHeld s' = commandHeld s)
    (regs : (s'.here.bankOf s.here.rb).regs = r) (id : k.id = s.here.nextId)
    (ins : k.ins = i) (bank : k.bank = s.here.rb) (task : k.task = s.bank.task.serial) (pc : k.pc = s.bank.pc)
    (mask : k.mask = guardMask s.bank f) (hp : p k) : Queues i f s e r p := by
  obtain ⟨u, hu, c, q, rg⟩ := pushCmd_room s' f e k (by unfold HasRoom at *; rw [eng, held]; exact room)
  refine ⟨u, k, run u hu, by rw [q, eng], id, ins, bank, task, pc, mask, ?_, hp⟩
  unfold State.regs
  rw [← c.trans cur]
  exact (rg _).trans regs

/-- The issue of a vector command whose checks pass. -/
theorem vecIssue_queues (i : Instr) (f : Fields) (size : Bank → Nat) (check : State → Option FaultInfo)
    (tag : Bank → Option (BitVec 4)) (long : Bool) (prep : State → Cmd → Cmd) (s : State) (p : Cmd → Prop)
    (e : exec i s = .next (vecIssue i f size check tag long prep s)) (h : Issues f s)
    (g : (if size s.bank = 0 then guardMask s.bank f != 0#128 else anyActive (size s.bank) (guardMask s.bank f)) = true)
    (ok : check s = none) (room : HasRoom s .vec)
    (prepOk : let k := prep s (newCmd s i f)
      k.id = s.here.nextId ∧ k.ins = i ∧ k.bank = s.here.rb ∧ k.task = s.bank.task.serial ∧ k.pc = s.bank.pc ∧
        k.mask = guardMask s.bank f ∧ p k) (r : Regs)
    (hr : (match tag s.bank with
      | some t => retag s.bank f.dst long t
      | none => s.bank).regs = r) :
    Queues i f s .vec r p := by
  subst hr
  obtain ⟨hid, hins, hbank, htask, hpc, hmask, hp⟩ := prepOk
  have full : ((s.here.eng .vec).full || commandHeld s) = false := by
    unfold HasRoom at room
    simp [EngQ.full, room.2]
    omega
  refine queues_of_push i f s (match tag s.bank with
      | some t => s.setBank (retag s.bank f.dst long t)
      | none => s) .vec (prep s (newCmd s i f)) p _ (fun u hu => ?_) room ?_ ?_ ?_ ?_ hid hins hbank htask hpc hmask hp
  · unfold Completes
    rw [e]
    unfold vecIssue
    rw [runWith_active _ f _ s h g]
    simp only [ok, full, Bool.false_eq_true, if_false]
    exact congrArg (fun x => Host.Outcome.next (settle f s x)) hu
  · cases tag s.bank <;> rfl
  · cases tag s.bank <;> simp [Core.eng]
  · cases tag s.bank <;> simp [commandHeld, State.det, State.ctx?]
  · cases tag s.bank with
    | none => rfl
    | some t => simp

theorem vecIssue_fault (i : Instr) (f : Fields) (size : Bank → Nat) (check : State → Option FaultInfo)
    (tag : Bank → Option (BitVec 4)) (long : Bool) (prep : State → Cmd → Cmd) (s : State) (x : FaultInfo)
    (e : exec i s = .next (vecIssue i f size check tag long prep s)) (h : Issues f s)
    (g : (if size s.bank = 0 then guardMask s.bank f != 0#128 else anyActive (size s.bank) (guardMask s.bank f)) = true)
    (bad : check s = some x) : Raises i s x := by
  unfold Raises
  rw [e]
  unfold vecIssue
  rw [runWith_active _ f _ s h g]
  simp [bad]

theorem vecIssue_full (i : Instr) (f : Fields) (size : Bank → Nat) (check : State → Option FaultInfo)
    (tag : Bank → Option (BitVec 4)) (long : Bool) (prep : State → Cmd → Cmd) (s : State)
    (e : exec i s = .next (vecIssue i f size check tag long prep s)) (h : Issues f s)
    (g : (if size s.bank = 0 then guardMask s.bank f != 0#128 else anyActive (size s.bank) (guardMask s.bank f)) = true)
    (ok : check s = none) (room : ¬ HasRoom s .vec) : exec i s = .next s := by
  have full : ((s.here.eng .vec).full || commandHeld s) = true := by
    unfold HasRoom at room
    simp only [Bool.or_eq_true, EngQ.full, decide_eq_true_eq]
    cases hc : commandHeld s
    · exact .inl (Nat.le_of_not_lt fun hl => room ⟨hl, hc⟩)
    · exact .inr rfl
  rw [e]
  unfold vecIssue
  rw [runWith_active _ f _ s h g]
  simp [ok, full]

/-- The issue of a command by an instruction whose guard reads bit 0. -/
theorem run_queues (i : Instr) (f : Fields) (eff : State → Eff) (s : State) (e : Eng) (k : Cmd) (p : Cmd → Prop)
    (he : exec i s = .next (run f eff s)) (h : Guarded f s) (hk : eff s = pushCmd s f e k) (room : HasRoom s e)
    (ok : k.id = s.here.nextId ∧ k.ins = i ∧ k.bank = s.here.rb ∧ k.task = s.bank.task.serial ∧ k.pc = s.bank.pc ∧
        k.mask = guardMask s.bank f ∧ p k) : Queues i f s e s.bank.regs p := by
  obtain ⟨hid, hins, hbank, htask, hpc, hmask, hp⟩ := ok
  refine queues_of_push i f s s e k p _ (fun u hu => ?_) room rfl rfl rfl rfl hid hins hbank htask hpc hmask hp
  unfold Completes
  rw [he, run_guarded f eff s h, hk, hu]
  rfl

theorem run_completes (i : Instr) (f : Fields) (eff : State → Eff) (s u : State) (he : exec i s = .next (run f eff s))
    (h : Guarded f s) (hk : eff s = .done u) : Completes i f s u := by
  unfold Completes
  rw [he, run_guarded f eff s h, hk]
  rfl

theorem run_raises (i : Instr) (f : Fields) (eff : State → Eff) (s : State) (x : FaultInfo) (he : exec i s = .next (run f eff s))
    (h : Guarded f s) (hk : eff s = .fault x) : Raises i s x := by
  unfold Raises
  rw [he, run_guarded f eff s h, hk]
  rfl

/-- Where the send buffer has room a request leaves. -/
theorem sendOut_may (s : State) (o : Out) (h : MaySend s) : sendOut s o = .done (sentOut s o) := by
  unfold MaySend at h
  cases hd : s.det s.here.cx.ctx with
  | true => simp [sendOut, sentOut, hd]
  | false =>
    have n : ¬ 8 ≤ s.here.sending.length := by simp [hd] at h; omega
    simp [sendOut, sentOut, hd, n]

/-- What an outstanding operation leaves in the core. -/
theorem pushOp_here (s : State) (f : Fields) (o : Op) :
    (pushOp s f o).cur = s.cur ∧ (pushOp s f o).here.ops = s.here.ops ++ [o] ∧
      ∀ hi, ((pushOp s f o).here.bankOf hi).regs = (s.here.bankOf hi).regs := by
  obtain ⟨t, ht, -, -⟩ := Bank.opened_task s.here.bank f o.dst o.id
  refine ⟨rfl, ?_⟩
  have hb : Core.bank { s.here with ops := s.here.ops ++ [o], nextId := s.here.nextId + 1 } = s.here.bank := rfl
  unfold pushOp
  simp only [hb, ht]
  rw [State.here_setCore _ _ (by simp)]
  refine ⟨by simp, fun hi => ?_⟩
  cases hr : Core.rb s.here <;> cases hi <;> simp [Core.setBankOf, Core.bankOf, Core.rb, Core.bank] <;>
    simp_all [Core.rb, Bank.regs]

end Sys2Proof.Machine
end

