-- ==== Sys2Proof/Laws/Registers.lean ====
section
/-! SUPPORT. Registers: the constant ones, and what a write of one leaves (R64, R123). -/

namespace Sys2Proof.Machine

@[simp] theorem Bank.rs_zero (b : Bank) : b.rs 0 = 0 := rfl
@[simp] theorem Bank.rp_zero (b : Bank) : b.rp 0 = BitVec.allOnes 128 := rfl
@[simp] theorem Bank.ws_zero (b : Bank) (x : W64) : b.ws 0 x = b := rfl
@[simp] theorem Bank.wp_zero (b : Bank) (x : PBits) : b.wp 0 x = b := rfl

theorem Bank.rs_ws (b : Bank) (n k : Fin 64) (x : W64) :
    (b.ws n x).rs k = if k = n ∧ n ≠ 0 then x else b.rs k := by
  simp only [Bank.ws, Bank.rs]
  by_cases hn : n = 0
  · simp [hn]
  · by_cases hk : k = 0
    · subst hk
      have : (0 : Fin 64) ≠ n := fun e => hn e.symm
      simp [hn, this]
    · by_cases e : k = n
      · subst e; simp [hn]
      · have : n.val ≠ k.val := fun h => e (Fin.ext h.symm)
        simp [hn, hk, e, this]

theorem Bank.rp_wp (b : Bank) (n k : Fin 16) (x : PBits) :
    (b.wp n x).rp k = if k = n ∧ n ≠ 0 then x else b.rp k := by
  simp only [Bank.wp, Bank.rp]
  by_cases hn : n = 0
  · simp [hn]
  · by_cases hk : k = 0
    · subst hk
      have : (0 : Fin 16) ≠ n := fun e => hn e.symm
      simp [hn, this]
    · by_cases e : k = n
      · subst e; simp [hn]
      · have : n.val ≠ k.val := fun h => e (Fin.ext h.symm)
        simp [hn, hk, e, this]

@[simp] theorem Bank.ws_p (b : Bank) (n : Fin 64) (x : W64) : (b.ws n x).p = b.p := by
  unfold Bank.ws; split <;> rfl
@[simp] theorem Bank.ws_v (b : Bank) (n : Fin 64) (x : W64) : (b.ws n x).v = b.v := by
  unfold Bank.ws; split <;> rfl
@[simp] theorem Bank.ws_o (b : Bank) (n : Fin 64) (x : W64) : (b.ws n x).o = b.o := by
  unfold Bank.ws; split <;> rfl
@[simp] theorem Bank.ws_lv (b : Bank) (n : Fin 64) (x : W64) : (b.ws n x).lv = b.lv := by
  unfold Bank.ws; split <;> rfl
@[simp] theorem Bank.ws_vtag (b : Bank) (n : Fin 64) (x : W64) : (b.ws n x).vtag = b.vtag := by
  unfold Bank.ws; split <;> rfl
@[simp] theorem Bank.ws_otag (b : Bank) (n : Fin 64) (x : W64) : (b.ws n x).otag = b.otag := by
  unfold Bank.ws; split <;> rfl
@[simp] theorem Bank.ws_lvtag (b : Bank) (n : Fin 64) (x : W64) : (b.ws n x).lvtag = b.lvtag := by
  unfold Bank.ws; split <;> rfl
@[simp] theorem Bank.ws_vown (b : Bank) (n : Fin 64) (x : W64) : (b.ws n x).vown = b.vown := by
  unfold Bank.ws; split <;> rfl
@[simp] theorem Bank.ws_vbase (b : Bank) (n : Fin 64) (x : W64) : (b.ws n x).vbase = b.vbase := by
  unfold Bank.ws; split <;> rfl
@[simp] theorem Bank.ws_ls (b : Bank) (n : Fin 64) (x : W64) : (b.ws n x).ls = b.ls := by
  unfold Bank.ws; split <;> rfl
@[simp] theorem Bank.ws_pc (b : Bank) (n : Fin 64) (x : W64) : (b.ws n x).pc = b.pc := by
  unfold Bank.ws; split <;> rfl
@[simp] theorem Bank.ws_fflags (b : Bank) (n : Fin 64) (x : W64) : (b.ws n x).fflags = b.fflags := by
  unfold Bank.ws; split <;> rfl
@[simp] theorem Bank.ws_fenable (b : Bank) (n : Fin 64) (x : W64) : (b.ws n x).fenable = b.fenable := by
  unfold Bank.ws; split <;> rfl
@[simp] theorem Bank.ws_task (b : Bank) (n : Fin 64) (x : W64) : (b.ws n x).task = b.task := by
  unfold Bank.ws; split <;> rfl
@[simp] theorem Bank.wp_s (b : Bank) (n : Fin 16) (x : PBits) : (b.wp n x).s = b.s := by
  unfold Bank.wp; split <;> rfl
@[simp] theorem Bank.wp_v (b : Bank) (n : Fin 16) (x : PBits) : (b.wp n x).v = b.v := by
  unfold Bank.wp; split <;> rfl
@[simp] theorem Bank.wp_o (b : Bank) (n : Fin 16) (x : PBits) : (b.wp n x).o = b.o := by
  unfold Bank.wp; split <;> rfl
@[simp] theorem Bank.wp_lv (b : Bank) (n : Fin 16) (x : PBits) : (b.wp n x).lv = b.lv := by
  unfold Bank.wp; split <;> rfl
@[simp] theorem Bank.wp_vtag (b : Bank) (n : Fin 16) (x : PBits) : (b.wp n x).vtag = b.vtag := by
  unfold Bank.wp; split <;> rfl
@[simp] theorem Bank.wp_otag (b : Bank) (n : Fin 16) (x : PBits) : (b.wp n x).otag = b.otag := by
  unfold Bank.wp; split <;> rfl
@[simp] theorem Bank.wp_lvtag (b : Bank) (n : Fin 16) (x : PBits) : (b.wp n x).lvtag = b.lvtag := by
  unfold Bank.wp; split <;> rfl
@[simp] theorem Bank.wp_vown (b : Bank) (n : Fin 16) (x : PBits) : (b.wp n x).vown = b.vown := by
  unfold Bank.wp; split <;> rfl
@[simp] theorem Bank.wp_vbase (b : Bank) (n : Fin 16) (x : PBits) : (b.wp n x).vbase = b.vbase := by
  unfold Bank.wp; split <;> rfl
@[simp] theorem Bank.wp_ls (b : Bank) (n : Fin 16) (x : PBits) : (b.wp n x).ls = b.ls := by
  unfold Bank.wp; split <;> rfl
@[simp] theorem Bank.wp_pc (b : Bank) (n : Fin 16) (x : PBits) : (b.wp n x).pc = b.pc := by
  unfold Bank.wp; split <;> rfl
@[simp] theorem Bank.wp_fflags (b : Bank) (n : Fin 16) (x : PBits) : (b.wp n x).fflags = b.fflags := by
  unfold Bank.wp; split <;> rfl
@[simp] theorem Bank.wp_fenable (b : Bank) (n : Fin 16) (x : PBits) : (b.wp n x).fenable = b.fenable := by
  unfold Bank.wp; split <;> rfl
@[simp] theorem Bank.wp_task (b : Bank) (n : Fin 16) (x : PBits) : (b.wp n x).task = b.task := by
  unfold Bank.wp; split <;> rfl
@[simp] theorem Bank.wd_p (b : Bank) (d : Operand) (x : W64) : (b.wd d x).p = b.p := by
  cases d <;> simp [Bank.wd]
@[simp] theorem Bank.wd_v (b : Bank) (d : Operand) (x : W64) : (b.wd d x).v = b.v := by
  cases d <;> simp [Bank.wd]
@[simp] theorem Bank.wd_o (b : Bank) (d : Operand) (x : W64) : (b.wd d x).o = b.o := by
  cases d <;> simp [Bank.wd]
@[simp] theorem Bank.wd_lv (b : Bank) (d : Operand) (x : W64) : (b.wd d x).lv = b.lv := by
  cases d <;> simp [Bank.wd]
@[simp] theorem Bank.wd_vtag (b : Bank) (d : Operand) (x : W64) : (b.wd d x).vtag = b.vtag := by
  cases d <;> simp [Bank.wd]
@[simp] theorem Bank.wd_otag (b : Bank) (d : Operand) (x : W64) : (b.wd d x).otag = b.otag := by
  cases d <;> simp [Bank.wd]
@[simp] theorem Bank.wd_lvtag (b : Bank) (d : Operand) (x : W64) : (b.wd d x).lvtag = b.lvtag := by
  cases d <;> simp [Bank.wd]
@[simp] theorem Bank.wd_vown (b : Bank) (d : Operand) (x : W64) : (b.wd d x).vown = b.vown := by
  cases d <;> simp [Bank.wd]
@[simp] theorem Bank.wd_vbase (b : Bank) (d : Operand) (x : W64) : (b.wd d x).vbase = b.vbase := by
  cases d <;> simp [Bank.wd]
@[simp] theorem Bank.wd_pc (b : Bank) (d : Operand) (x : W64) : (b.wd d x).pc = b.pc := by
  cases d <;> simp [Bank.wd]
@[simp] theorem Bank.wd_fflags (b : Bank) (d : Operand) (x : W64) : (b.wd d x).fflags = b.fflags := by
  cases d <;> simp [Bank.wd]
@[simp] theorem Bank.wd_fenable (b : Bank) (d : Operand) (x : W64) : (b.wd d x).fenable = b.fenable := by
  cases d <;> simp [Bank.wd]
@[simp] theorem Bank.wd_task (b : Bank) (d : Operand) (x : W64) : (b.wd d x).task = b.task := by
  cases d <;> simp [Bank.wd]

/-- What a scalar destination leaves in s0 to s63. -/
theorem Bank.rs_wd (b : Bank) (d : Operand) (x : W64) (k : Fin 64) :
    (b.wd d x).rs k = if d = .s k ∧ k ≠ 0 then x else b.rs k := by
  cases d with
  | s n =>
    simp only [Bank.wd, Bank.rs_ws, Operand.s.injEq]
    by_cases e : k = n
    · subst e; simp
    · have : ¬ n = k := fun h => e h.symm
      simp [e, this]
  | _ => simp [Bank.wd, Bank.rs]

/-- What a scalar destination leaves in the latch. -/
theorem Bank.ls_wd (b : Bank) (d : Operand) (x : W64) : (b.wd d x).ls = if d = .ls then x else b.ls := by
  cases d <;> simp [Bank.wd]

/-- The running bank after a scalar result (R123). -/
theorem wres_bank (s : State) (d : Operand) (x : W64) :
    (wres s d x).here.bankOf s.here.rb =
      (if (originOf s s.here s.bank.pc).mater then s.bank.wd d x else { s.bank.wd d x with ls := x }) := by
  unfold wres
  simp only []
  split <;> simp

theorem wpred_bank (s : State) (n : Fin 16) (x : PBits) : (wpred s (.p n) x).here.bankOf s.here.rb = s.bank.wp n x := by
  simp [wpred]

@[simp] theorem wres_mem (s : State) (d : Operand) (x : W64) : (wres s d x).mem = s.mem := by
  unfold wres; dsimp only; split <;> rfl
@[simp] theorem wres_full (s : State) (d : Operand) (x : W64) : (wres s d x).full = s.full := by
  unfold wres; dsimp only; split <;> rfl
@[simp] theorem wres_past (s : State) (d : Operand) (x : W64) : (wres s d x).past = s.past := by
  unfold wres; dsimp only; split <;> rfl
@[simp] theorem wres_walkCache (s : State) (d : Operand) (x : W64) : (wres s d x).walkCache = s.walkCache := by
  unfold wres; dsimp only; split <;> rfl
@[simp] theorem wres_poison (s : State) (d : Operand) (x : W64) : (wres s d x).poison = s.poison := by
  unfold wres; dsimp only; split <;> rfl
@[simp] theorem wres_shadow (s : State) (d : Operand) (x : W64) : (wres s d x).shadow = s.shadow := by
  unfold wres; dsimp only; split <;> rfl
@[simp] theorem wres_fullShadow (s : State) (d : Operand) (x : W64) : (wres s d x).fullShadow = s.fullShadow := by
  unfold wres; dsimp only; split <;> rfl
@[simp] theorem wres_redo (s : State) (d : Operand) (x : W64) : (wres s d x).redo = s.redo := by
  unfold wres; dsimp only; split <;> rfl
@[simp] theorem wres_ctxs (s : State) (d : Operand) (x : W64) : (wres s d x).ctxs = s.ctxs := by
  unfold wres; dsimp only; split <;> rfl
@[simp] theorem wres_regions (s : State) (d : Operand) (x : W64) : (wres s d x).regions = s.regions := by
  unfold wres; dsimp only; split <;> rfl
@[simp] theorem wres_keepers (s : State) (d : Operand) (x : W64) : (wres s d x).keepers = s.keepers := by
  unfold wres; dsimp only; split <;> rfl
@[simp] theorem wres_watches (s : State) (d : Operand) (x : W64) : (wres s d x).watches = s.watches := by
  unfold wres; dsimp only; split <;> rfl
@[simp] theorem wres_flights (s : State) (d : Operand) (x : W64) : (wres s d x).flights = s.flights := by
  unfold wres; dsimp only; split <;> rfl
@[simp] theorem wres_kept (s : State) (d : Operand) (x : W64) : (wres s d x).kept = s.kept := by
  unfold wres; dsimp only; split <;> rfl
@[simp] theorem wres_hreqs (s : State) (d : Operand) (x : W64) : (wres s d x).hreqs = s.hreqs := by
  unfold wres; dsimp only; split <;> rfl
@[simp] theorem wres_creqs (s : State) (d : Operand) (x : W64) : (wres s d x).creqs = s.creqs := by
  unfold wres; dsimp only; split <;> rfl
@[simp] theorem wres_qsends (s : State) (d : Operand) (x : W64) : (wres s d x).qsends = s.qsends := by
  unfold wres; dsimp only; split <;> rfl
@[simp] theorem wres_hunits (s : State) (d : Operand) (x : W64) : (wres s d x).hunits = s.hunits := by
  unfold wres; dsimp only; split <;> rfl
@[simp] theorem wres_groups (s : State) (d : Operand) (x : W64) : (wres s d x).groups = s.groups := by
  unfold wres; dsimp only; split <;> rfl
@[simp] theorem wres_queues (s : State) (d : Operand) (x : W64) : (wres s d x).queues = s.queues := by
  unfold wres; dsimp only; split <;> rfl
@[simp] theorem wres_launches (s : State) (d : Operand) (x : W64) : (wres s d x).launches = s.launches := by
  unfold wres; dsimp only; split <;> rfl
@[simp] theorem wres_nextLaunch (s : State) (d : Operand) (x : W64) : (wres s d x).nextLaunch = s.nextLaunch := by
  unfold wres; dsimp only; split <;> rfl
@[simp] theorem wres_spec (s : State) (d : Operand) (x : W64) : (wres s d x).spec = s.spec := by
  unfold wres; dsimp only; split <;> rfl
@[simp] theorem wres_versions (s : State) (d : Operand) (x : W64) : (wres s d x).versions = s.versions := by
  unfold wres; dsimp only; split <;> rfl
@[simp] theorem wres_masks (s : State) (d : Operand) (x : W64) : (wres s d x).masks = s.masks := by
  unfold wres; dsimp only; split <;> rfl
@[simp] theorem wres_errs (s : State) (d : Operand) (x : W64) : (wres s d x).errs = s.errs := by
  unfold wres; dsimp only; split <;> rfl
@[simp] theorem wres_pkg (s : State) (d : Operand) (x : W64) : (wres s d x).pkg = s.pkg := by
  unfold wres; dsimp only; split <;> rfl
@[simp] theorem wres_cc (s : State) (d : Operand) (x : W64) : (wres s d x).cc = s.cc := by
  unfold wres; dsimp only; split <;> rfl
@[simp] theorem wres_tick (s : State) (d : Operand) (x : W64) : (wres s d x).tick = s.tick := by
  unfold wres; dsimp only; split <;> rfl
@[simp] theorem wres_cur (s : State) (d : Operand) (x : W64) : (wres s d x).cur = s.cur := by
  unfold wres; dsimp only; split <;> rfl
@[simp] theorem wres_agenda (s : State) (d : Operand) (x : W64) : (wres s d x).agenda = s.agenda := by
  unfold wres; dsimp only; split <;> rfl
@[simp] theorem wres_fresh (s : State) (d : Operand) (x : W64) : (wres s d x).fresh = s.fresh := by
  unfold wres; dsimp only; split <;> rfl
@[simp] theorem wpred_mem (s : State) (d : Operand) (x : PBits) : (wpred s d x).mem = s.mem := by
  cases d <;> rfl
@[simp] theorem wpred_full (s : State) (d : Operand) (x : PBits) : (wpred s d x).full = s.full := by
  cases d <;> rfl
@[simp] theorem wpred_past (s : State) (d : Operand) (x : PBits) : (wpred s d x).past = s.past := by
  cases d <;> rfl
@[simp] theorem wpred_walkCache (s : State) (d : Operand) (x : PBits) : (wpred s d x).walkCache = s.walkCache := by
  cases d <;> rfl
@[simp] theorem wpred_poison (s : State) (d : Operand) (x : PBits) : (wpred s d x).poison = s.poison := by
  cases d <;> rfl
@[simp] theorem wpred_shadow (s : State) (d : Operand) (x : PBits) : (wpred s d x).shadow = s.shadow := by
  cases d <;> rfl
@[simp] theorem wpred_fullShadow (s : State) (d : Operand) (x : PBits) : (wpred s d x).fullShadow = s.fullShadow := by
  cases d <;> rfl
@[simp] theorem wpred_redo (s : State) (d : Operand) (x : PBits) : (wpred s d x).redo = s.redo := by
  cases d <;> rfl
@[simp] theorem wpred_ctxs (s : State) (d : Operand) (x : PBits) : (wpred s d x).ctxs = s.ctxs := by
  cases d <;> rfl
@[simp] theorem wpred_regions (s : State) (d : Operand) (x : PBits) : (wpred s d x).regions = s.regions := by
  cases d <;> rfl
@[simp] theorem wpred_keepers (s : State) (d : Operand) (x : PBits) : (wpred s d x).keepers = s.keepers := by
  cases d <;> rfl
@[simp] theorem wpred_watches (s : State) (d : Operand) (x : PBits) : (wpred s d x).watches = s.watches := by
  cases d <;> rfl
@[simp] theorem wpred_flights (s : State) (d : Operand) (x : PBits) : (wpred s d x).flights = s.flights := by
  cases d <;> rfl
@[simp] theorem wpred_kept (s : State) (d : Operand) (x : PBits) : (wpred s d x).kept = s.kept := by
  cases d <;> rfl
@[simp] theorem wpred_hreqs (s : State) (d : Operand) (x : PBits) : (wpred s d x).hreqs = s.hreqs := by
  cases d <;> rfl
@[simp] theorem wpred_creqs (s : State) (d : Operand) (x : PBits) : (wpred s d x).creqs = s.creqs := by
  cases d <;> rfl
@[simp] theorem wpred_qsends (s : State) (d : Operand) (x : PBits) : (wpred s d x).qsends = s.qsends := by
  cases d <;> rfl
@[simp] theorem wpred_hunits (s : State) (d : Operand) (x : PBits) : (wpred s d x).hunits = s.hunits := by
  cases d <;> rfl
@[simp] theorem wpred_groups (s : State) (d : Operand) (x : PBits) : (wpred s d x).groups = s.groups := by
  cases d <;> rfl
@[simp] theorem wpred_queues (s : State) (d : Operand) (x : PBits) : (wpred s d x).queues = s.queues := by
  cases d <;> rfl
@[simp] theorem wpred_launches (s : State) (d : Operand) (x : PBits) : (wpred s d x).launches = s.launches := by
  cases d <;> rfl
@[simp] theorem wpred_nextLaunch (s : State) (d : Operand) (x : PBits) : (wpred s d x).nextLaunch = s.nextLaunch := by
  cases d <;> rfl
@[simp] theorem wpred_spec (s : State) (d : Operand) (x : PBits) : (wpred s d x).spec = s.spec := by
  cases d <;> rfl
@[simp] theorem wpred_versions (s : State) (d : Operand) (x : PBits) : (wpred s d x).versions = s.versions := by
  cases d <;> rfl
@[simp] theorem wpred_masks (s : State) (d : Operand) (x : PBits) : (wpred s d x).masks = s.masks := by
  cases d <;> rfl
@[simp] theorem wpred_errs (s : State) (d : Operand) (x : PBits) : (wpred s d x).errs = s.errs := by
  cases d <;> rfl
@[simp] theorem wpred_pkg (s : State) (d : Operand) (x : PBits) : (wpred s d x).pkg = s.pkg := by
  cases d <;> rfl
@[simp] theorem wpred_cc (s : State) (d : Operand) (x : PBits) : (wpred s d x).cc = s.cc := by
  cases d <;> rfl
@[simp] theorem wpred_tick (s : State) (d : Operand) (x : PBits) : (wpred s d x).tick = s.tick := by
  cases d <;> rfl
@[simp] theorem wpred_cur (s : State) (d : Operand) (x : PBits) : (wpred s d x).cur = s.cur := by
  cases d <;> rfl
@[simp] theorem wpred_agenda (s : State) (d : Operand) (x : PBits) : (wpred s d x).agenda = s.agenda := by
  cases d <;> rfl
@[simp] theorem wpred_fresh (s : State) (d : Operand) (x : PBits) : (wpred s d x).fresh = s.fresh := by
  cases d <;> rfl

end Sys2Proof.Machine
end

