-- ==== Sys2Proof/Laws/Retire.lean ====
section
/-! SUPPORT. What tracing, retiring, ending a task, freezing and a loupe stop leave unchanged. -/

namespace Sys2Proof.Machine

/-- Two states that agree in every bank's registers, in the state of every other core's units but what stashes hold of a block that the
trace is written to, and in the parts of the machine that retiring does not reach. -/
structure Calm (s t : State) : Prop where
  regs : ∀ p hi, t.regs p hi = s.regs p hi
  framed : ∀ p, p ≠ s.cur → ∃ fr, t.core p = { s.core p with frames := fr }
  cur : t.cur = s.cur
  full : t.full = s.full
  ctxs : t.ctxs = s.ctxs
  regions : t.regions = s.regions
  wf : Memory.wf s.mem = true → Memory.wf t.mem = true
  quiet : Untraced s s.cur → Untraced t s.cur ∧ t.mem = s.mem ∧ ∀ p, p ≠ s.cur → t.core p = s.core p

theorem Calm.refl (s : State) : Calm s s :=
  ⟨fun _ _ => rfl, fun _ _ => ⟨_, rfl⟩, rfl, rfl, rfl, rfl, id, fun h => ⟨h, rfl, fun _ _ => rfl⟩⟩

theorem Calm.trans {s t u : State} (a : Calm s t) (b : Calm t u) : Calm s u where
  regs p hi := (b.regs p hi).trans (a.regs p hi)
  framed p h := by
    obtain ⟨x, hx⟩ := a.framed p h
    obtain ⟨y, hy⟩ := b.framed p (by rw [a.cur]; exact h)
    exact ⟨y, by rw [hy, hx]⟩
  cur := b.cur.trans a.cur
  full := b.full.trans a.full
  ctxs := b.ctxs.trans a.ctxs
  regions := b.regions.trans a.regions
  wf h := b.wf (a.wf h)
  quiet h := by
    obtain ⟨x, y, o⟩ := a.quiet h
    obtain ⟨z, w, q⟩ := b.quiet (by rw [a.cur]; exact x)
    rw [a.cur] at z q
    exact ⟨z, w.trans y, fun p ne => (q p ne).trans (o p ne)⟩

/-- The loupe's trace is off, and its encoder holds no record. -/
def Loupe.off (l : Loupe) : Prop := l.trc.getLsbD 0 = false ∧ l.tq = []

/-- Changing the current core without touching its registers or its trace. -/
theorem Calm.setCore (s : State) (c : Core) (h : c.phys = s.cur) (r : ∀ hi, (c.bankOf hi).regs = (s.here.bankOf hi).regs)
    (l : Untraced s s.cur → c.loupe.off) : Calm s (s.setCore c) where
  regs p hi := by
    simp only [State.regs, State.core_setCore, h]
    split
    · rename_i e; subst e; exact r hi
    · rfl
  framed p ne := ⟨_, by
    simp only [State.core_setCore, h]
    split
    · rename_i e; exact absurd e.symm ne
    · rfl⟩
  cur := rfl
  full := rfl
  ctxs := rfl
  regions := rfl
  wf := id
  quiet u := by
    refine ⟨by simpa [Untraced, State.core_setCore, h, Loupe.off] using l u, rfl, fun p ne => ?_⟩
    simp only [State.core_setCore, h]
    split
    · rename_i e; exact absurd e.symm ne
    · rfl

/-- A change that no core and no byte of memory sees. -/
theorem Calm.of_eq {s t : State} (co : t.cores = s.cores) (cu : t.cur = s.cur) (f : t.full = s.full) (x : t.ctxs = s.ctxs)
    (g : t.regions = s.regions) (m : t.mem = s.mem) : Calm s t :=
  have e := State.core_of_cores co
  ⟨fun p hi => by simp [State.regs, e], fun p _ => ⟨_, e p⟩, cu, f, x, g, fun h => m ▸ h,
    fun h => ⟨by simpa [Untraced, e] using h, m, fun p _ => e p⟩⟩

/-- Changing the launches reaches no core. -/
theorem Calm.launches (s : State) (l : List Launch) : Calm s { s with launches := l } := Calm.of_eq rfl rfl rfl rfl rfl rfl

theorem Calm.drawn (s : State) : Calm s s.drawn := Calm.of_eq rfl rfl rfl rfl rfl rfl

/-- A trace record of the current core. -/
theorem Calm.traceRec (s : State) (hi : Bool) (pc : W64) (kind : Nat) (w1 : W64) :
    Calm s (traceRec s s.cur hi pc kind w1) := by
  unfold Sys2Proof.Machine.traceRec
  simp only []
  split
  · exact Calm.refl s
  · rename_i on
    refine Calm.setCore _ _ (by simp) (fun hi => rfl) ?_
    intro u; exact absurd u.1 (by simpa using on)

theorem Calm.modLoupe (s : State) (l : Loupe) (h : Untraced s s.cur → l.off) :
    Calm s (s.setCore { s.here with loupe := l }) :=
  Calm.setCore s _ (by simp) (fun _ => rfl) h

/-- A block given back by every stash: cores keep all but what their frames hold. -/
theorem recallKey_core (s : State) (key p : Nat) : ∃ fr, (recallKey s key).core p = { s.core p with frames := fr } := by
  unfold recallKey
  split
  · exact ⟨_, rfl⟩
  · refine ⟨mapIf (Frame.holds key) (fun f => { f with filled := false, dirty := false }) (s.core p).frames, ?_⟩
    simp only [State.core]
    induction s.cores with
    | nil => rfl
    | cons c cs ih =>
      simp only [List.map_cons, getBy] at ih ⊢
      split <;> simp_all

/-- A write reaches bytes, poison and what rows hold, and no core. -/
structure Plain (s t : State) : Prop where
  cores : t.cores = s.cores
  cur : t.cur = s.cur
  full : t.full = s.full
  ctxs : t.ctxs = s.ctxs
  regions : t.regions = s.regions

theorem writeRun_plain (s : State) (key : Nat) (bs : List PByte) :
    Plain s (writeRun s key bs) ∧ (writeRun s key bs).mem = writeCells s.mem key (bs.map PByte.b) := by
  unfold writeRun keepPast setPois
  repeat' split
  all_goals exact ⟨⟨by simp, by simp, by simp, by simp, by simp⟩, by simp⟩

theorem recallKey_rest (s : State) (key : Nat) : (recallKey s key).cur = s.cur ∧ (recallKey s key).full = s.full ∧
    (recallKey s key).ctxs = s.ctxs ∧ (recallKey s key).regions = s.regions ∧ (recallKey s key).mem = s.mem := by
  unfold recallKey
  split <;> exact ⟨rfl, rfl, rfl, rfl, rfl⟩

/-- The encoder's write of a record of the current core. -/
theorem Calm.writeTrace (s : State) : Calm s (writeTrace s s.cur) := by
  unfold Sys2Proof.Machine.writeTrace
  simp only []
  split
  · exact Calm.refl s
  · rename_i w0 w1 rest hq
    have no (u : Untraced s s.cur) : False := by simp [u.2] at hq
    have cut : Calm s (s.setCore { s.core s.cur with loupe := (s.core s.cur).loupe.traceOff }) :=
      Calm.modLoupe s _ fun u => (no u).elim
    split
    · split
      · exact cut
      · rename_i q _ _
        split
        · exact Calm.modLoupe s _ fun u => (no u).elim
        generalize clean _ = bs
        obtain ⟨w, m⟩ := writeRun_plain (recallKey s q.key) q.key bs
        obtain ⟨ru, rf, rx, rg, rm⟩ := recallKey_rest s q.key
        have fr (p : Nat) : ∃ fr, (writeRun (recallKey s q.key) q.key bs).core p = { s.core p with frames := fr } := by
          rw [State.core_of_cores w.cores]
          exact recallKey_core s q.key p
        have cu := w.cur.trans ru
        refine Calm.trans (t := writeRun (recallKey s q.key) q.key bs) ?_
          (Calm.setCore _ _ (by simp [cu]) (fun hi => by simp only [State.here, cu]; cases hi <;> rfl) fun u => ?_)
        · exact {
            regs := fun p hi => by
              obtain ⟨x, hx⟩ := fr p
              simp only [State.regs, hx]; cases hi <;> rfl
            framed := fun p _ => fr p
            cur := cu, full := w.full.trans rf, ctxs := w.ctxs.trans rx, regions := w.regions.trans rg
            wf := fun h => by rw [m, rm]; exact Memory.wf_writeCells _ _ _ h
            quiet := fun u => (no u).elim }
        · obtain ⟨x, hx⟩ := fr s.cur
          rw [cu] at u
          exact (no (by simpa [Untraced, hx] using u)).elim
    · exact cut

theorem Calm.flushTrace (s : State) : Calm s (flushTrace s s.cur) := by
  unfold Sys2Proof.Machine.flushTrace
  generalize (s.core s.cur).loupe.tq = l
  have go : ∀ (l : List (W64 × W64)) (t : State), t.cur = s.cur → Calm t (l.foldl (fun s' _ => Sys2Proof.Machine.writeTrace s' s.cur) t) := by
    intro l
    induction l with
    | nil => exact fun t _ => Calm.refl t
    | cons _ l ih =>
      intro t e
      have a := Calm.writeTrace t
      rw [e] at a
      exact a.trans (ih _ (a.cur.trans e))
  exact go l s rfl

/-- Registers and trace control after a change of one bank's task and of what is no register. -/
theorem Calm.of_task (s t : State) (a : Calm s t) (c : Core) (h : c.phys = s.cur)
    (r : ∀ k, (c.bankOf k).regs = (s.here.bankOf k).regs) (l : c.loupe = t.here.loupe) : Calm t (t.setCore c) := by
  refine Calm.setCore t c (h.trans a.cur.symm) (fun k => ?_) (fun u => ?_)
  · rw [r k]
    have := a.regs s.cur k
    simpa [State.regs, State.here, a.cur] using this.symm
  · rw [l]; simpa [Untraced, State.here, Loupe.off] using u

/-- A task end of the current core. -/
theorem Calm.endTask (s : State) (hi : Bool) : Calm s (endTask s s.cur hi) := by
  unfold Sys2Proof.Machine.endTask
  simp only []
  have a := Calm.traceRec s hi ((s.core s.cur).bankOf hi).pc 2 (s.core s.cur).cx.instret
  generalize Sys2Proof.Machine.traceRec s s.cur hi ((s.core s.cur).bankOf hi).pc 2 (s.core s.cur).cx.instret = t at a
  refine a.trans ?_
  have e : t.here = t.core s.cur := by simp [State.here, a.cur]
  have r : ∀ k, ((t.core s.cur).bankOf k).regs = (s.here.bankOf k).regs := fun k => a.regs s.cur k
  split
  · refine Calm.trans (Calm.of_task s t a _ ?_ (fun k => ?_) ?_) (Calm.launches _ _)
    · simp
    · rw [← r k]; have := r hi; cases hi <;> cases k <;> simp_all [Core.bankOf, Core.setBankOf, Bank.regs, State.here]
    · simp [e]
  · refine Calm.of_task s t a _ ?_ (fun k => ?_) ?_
    · simp
    · rw [← r k]; have := r hi; cases hi <;> cases k <;> simp_all [Core.bankOf, Core.setBankOf, Bank.regs, State.here]
    · simp [e]

/-- A loupe stop of the current core. -/
theorem Calm.loupeStop (s : State) (n : Nat) : Calm s (loupeStop s s.cur n) := by
  unfold Sys2Proof.Machine.loupeStop
  simp only []
  have a := Calm.flushTrace s
  generalize Sys2Proof.Machine.flushTrace s s.cur = t at a ⊢
  refine a.trans ?_
  rw [← a.cur]
  have b := Calm.traceRec t (t.core t.cur).rb ((t.core t.cur).bankOf (t.core t.cur).rb).pc 7 (BitVec.ofNat 64
    (1 + n * 2 + boolNat (t.core t.cur).rb * 16
      + bits (originOf t (t.core t.cur) ((t.core t.cur).bankOf (t.core t.cur).rb).pc).pc 0 48 * 2 ^ 16))
  refine b.trans ?_
  have cu := b.cur
  generalize Sys2Proof.Machine.traceRec t t.cur _ _ 7 _ = u at cu ⊢
  rw [← cu]
  unfold State.modCore
  refine Calm.setCore u _ (by simp) (fun k => by cases k <;> rfl) (fun v => v)

/-- The loupe's stop behind an instruction. -/
theorem Calm.stopAfterIssue (s : State) : Calm s (stopAfterIssue s) := by
  unfold Sys2Proof.Machine.stopAfterIssue
  split
  · exact Calm.loupeStop s 4
  · split
    · exact Calm.loupeStop s 5
    · exact Calm.refl s

/-- The counters, windows and PC of a retired instruction. -/
theorem Calm.countRetired (s : State) (hi counts det : Bool) (next : W64) :
    Calm s (s.setCore (countRetired s.here hi counts det next)) := by
  refine Calm.setCore s _ (by simp [Sys2Proof.Machine.countRetired]) (fun k => ?_) (fun u => ?_)
  · unfold Sys2Proof.Machine.countRetired
    cases hi <;> cases k <;> simp [Core.setBankOf, Core.bankOf, Bank.regs]
  · simpa [Sys2Proof.Machine.countRetired, Untraced, State.here, Loupe.off] using u

/-- The last part of retiring: counters and PC, the task's end. -/
theorem Calm.retireEnd (s : State) (hi counts det stop : Bool) (next : W64) :
    Calm s (
      let s := s.setCore (Sys2Proof.Machine.countRetired s.here hi counts det next)
      if stop then Sys2Proof.Machine.endTask s s.cur hi else s) := by
  refine Calm.trans (Calm.countRetired s hi counts det next) ?_
  simp only []
  split
  · exact Calm.endTask _ _
  · exact Calm.refl _

/-- Retiring, before the loupe's stop. -/
theorem Calm.retireOnly (s : State) (f : Fields) (target : Option W64) : Calm s (retireOnly s f target) := by
  cases target with
  | none => exact Calm.retireEnd s _ _ _ _ _
  | some pc =>
    refine Calm.trans (t := if f.stop then s else Sys2Proof.Machine.traceRec s s.cur s.here.rb s.here.bank.pc 3 pc) ?_
      (Calm.retireEnd _ _ _ _ _ _)
    split
    · exact Calm.refl s
    · exact Calm.traceRec s _ _ _ _

/-- What retiring an instruction leaves: every bank's registers, every other core, the full-empty bits, contexts and regions;
and, where no trace is written, every byte of memory. -/
theorem Calm.retire (s : State) (f : Fields) (target : Option W64) : Calm s (retire s f target) :=
  (Calm.retireOnly s f target).trans (Calm.stopAfterIssue _)

/-- A freeze of the current core. -/
theorem Calm.freezeCore (s : State) (hi : Bool) (ch : Fin 16) (z : Freeze) : Calm s (freezeCore s s.cur hi ch z) := by
  unfold Sys2Proof.Machine.freezeCore
  simp only []
  have a := Calm.traceRec s hi z.pc 6 (BitVec.ofNat 64 z.info.cause)
  generalize Sys2Proof.Machine.traceRec s s.cur hi z.pc 6 (BitVec.ofNat 64 z.info.cause) = t at a
  refine a.trans (Calm.setCore t _ (by simp [a.cur]) (fun k => ?_) (fun u => ?_))
  · cases hi <;> cases k <;> simp [Core.bankOf, Core.setBankOf, Bank.regs, State.here, a.cur]
  · simpa [Untraced, State.here, a.cur, Loupe.off] using u

/-- A precise fault leaves every register and every byte of memory, where no trace is written. -/
theorem Calm.raise (s : State) (x : FaultInfo) (k : FreezeKind) : Calm s (raise s x k) := by
  unfold Sys2Proof.Machine.raise
  simp only []
  have d : Calm s (if x.cause = 6 then s.drawn else s) := by
    split
    · exact Calm.drawn s
    · exact Calm.refl s
  refine d.trans ?_
  generalize (if x.cause = 6 then s.drawn else s) = u
  have c : Calm u (u.setCore { u.here with loupe := { u.here.loupe with skipCheck := false } }) :=
    Calm.modLoupe u _ fun v => v
  refine c.trans ?_
  exact (Calm.freezeCore _ _ _ _).trans (Calm.stopAfterIssue _)

end Sys2Proof.Machine
end

