-- ==== Sys2Proof/Tests/Slice0.lean ====
section
/-! SUPPORT. Tests of one word or one step each, with results worked out from the manual, and for each statement a state that meets
its hypotheses. -/

open Sys2Proof Sys2Proof.Machine

/-! Decoding: every encoded instruction, by a word put together from R59, R64, R68, R69 and R79. -/

/-- Fields of a word that is 0 but for its op. -/
def f0 : Fields :=
  { stop := false, bt := false, look := 0, mod := 0, sat := false, rnd := .rne, imm := 0, opc := .s 0, opb := .s 0, opa := .s 0, dst := .s 0
    guard := ⟨false, 0⟩, typ := .untyped }

/-- `vdiv.f32 v6, o2, v7 ?p3 +4`, a word that the manual prints. -/
theorem test_decode_vdiv : decode 0x04000000000047408461AE44 = .ok
    (.vdiv { f0 with look := 4, opb := .v 7, opa := .o 2, dst := .v 6, guard := ⟨false, 3⟩, typ := .f32 }) := by rfl
/-- `!shl s12, s9, 3 stop`, a word that the manual prints. -/
theorem test_decode_shl : decode 0x90000000000F000240C0100D = .ok
    (.shl { f0 with stop := true, bt := true, imm := 3, opb := .imm, opa := .s 9, dst := .s 12, typ := .s64 }) := by rfl
/-- `vfma.f32 v1, v2, v3, o4 ?!p5`, a word that the manual prints. -/
theorem test_decode_vfma : decode 0x2000000004104310841AAE43 = .ok
    (.vfma { f0 with opc := .o 4, opb := .v 3, opa := .v 2, dst := .v 1, guard := ⟨true, 5⟩, typ := .f32 }) := by rfl
/-- `cmp.lt p3, s9, 100`, a word that the manual prints. -/
theorem test_decode_cmp : decode 0x004000000193000248301021 = .ok
    (.cmp { f0 with mod := 2, imm := 100, opb := .imm, opa := .s 9, dst := .p 3, typ := .s64 }) := by rfl
/-- `plog p4, p1, p2, p3, 0x80`, a word that the manual prints. -/
theorem test_decode_plog : decode 0x20000008020C822048400040 = .ok
    (.plog { f0 with imm := 128, opc := .p 3, opb := .p 2, opa := .p 1, dst := .p 4 }) := by rfl
/-- `ld.d s9, [s1+8] +2`, a word that the manual prints. -/
theorem test_decode_ld : decode 0x020000000020000040902180 = .ok
    (.ld { f0 with look := 2, imm := 8, opa := .s 1, dst := .s 9, typ := .n64 }) := by rfl
/-- `amo.add.s64 s9, [s10+16], 1`, a word that the manual prints. -/
theorem test_decode_amo : decode 0x0000000000430202809011C9 = .ok
    (.amo { f0 with imm := 16, opb := .k 2, opa := .s 10, dst := .s 9, typ := .s64 }) := by rfl
/-- `fence.sys rel`, a word that the manual prints. -/
theorem test_decode_fence : decode 0x0080000000080000000001CC = .ok (.fence { f0 with mod := 4, imm := 2 }) := by rfl
/-- `st.q [s1+24], s10 stop`, a word that the manual prints. -/
theorem test_decode_st : decode 0x800000000060000040A03D81 = .ok
    (.st { f0 with stop := true, imm := 24, opa := .s 1, dst := .s 10, typ := .q }) := by rfl
/-- `amom.sub.s64 s0, [s20], 1, 0xFFFF_0003`, a word that the manual prints. -/
theorem test_decode_amom : decode 0x0023FFFC000F0205000011CB = .ok
    (.amom { f0 with mod := 1, imm := 0xffff0003, opb := .k 2, opa := .s 20, dst := .s 0, typ := .s64 }) := by rfl
/-- `qsend s24, s22, s23`, a word that the manual prints. -/
theorem test_decode_qsend : decode 0x000000000000170581800106 = .ok
    (.qsend { f0 with opb := .s 23, opa := .s 22, dst := .s 24 }) := by rfl
/-- `vadd.tm24 v3, v3, o1`, a word that the manual prints. -/
theorem test_decode_vadd : decode 0x0000000000010110C4303640 = .ok
    (.vadd { f0 with opb := .o 1, opa := .v 3, dst := .v 3, typ := .tm24 }) := by rfl
/-- `vwhile.f32 p1, s10, s11`, a word that the manual prints. -/
theorem test_decode_vwhile : decode 0x0000000000000B0288102E57 = .ok
    (.vwhile { f0 with opb := .s 11, opa := .s 10, dst := .p 1, typ := .f32 }) := by rfl
/-- `vred.f32.add s20, v4 +3`, a word that the manual prints. -/
theorem test_decode_vred : decode 0x030000000000001101402E54 = .ok
    (.vred { f0 with look := 3, opa := .v 4, dst := .s 20, typ := .f32 }) := by rfl
/-- `pack5t.part2 v12, v10`, a word that the manual prints. -/
theorem test_decode_pack5t : decode 0x004000000000001284C03A89 = .ok
    (.pack5t { f0 with mod := 2, opa := .v 10, dst := .v 12, typ := .t5 }) := by rfl
/-- `cpy s20, s9`, a word that the manual prints. -/
theorem test_decode_cpy : decode 0x0000000000000002414002C0 = .ok (.cpy { f0 with opa := .s 9, dst := .s 20 }) := by rfl
/-- `cpyl.nz s20, s9, s16, 1`, a word that the manual prints. -/
theorem test_decode_cpyl : decode 0x0020000000041002414002C3 = .ok
    (.cpyl { f0 with mod := 1, imm := 1, opb := .s 16, opa := .s 9, dst := .s 20 }) := by rfl
/-- `cpyset.n32 s22, s11, 0`, a word that the manual prints. -/
theorem test_decode_cpyset : decode 0x0000000000030002C1601EC4 = .ok
    (.cpyset { f0 with opb := .imm, opa := .s 11, dst := .s 22, typ := .n32 }) := by rfl
/-- `stvx.n32.x4 [s20+32], v5, v4 ?p1`, a word that the manual prints. -/
theorem test_decode_stvx : decode 0x004000000080440504509DC5 = .ok
    (.stvx { f0 with mod := 2, imm := 32, opb := .v 4, opa := .s 20, dst := .v 5, guard := ⟨false, 1⟩, typ := .n32 }) := by rfl
/-- `cpyg s22, s20, s21`, a word that the manual prints. -/
theorem test_decode_cpyg : decode 0x0000000000001505016002C1 = .ok
    (.cpyg { f0 with opb := .s 21, opa := .s 20, dst := .s 22 }) := by rfl
/-- `vcvt.f32.part1 v7, v1`, a word that the manual prints. -/
theorem test_decode_vcvt : decode 0x002000000000001044702E86 = .ok
    (.vcvt { f0 with mod := 1, opa := .v 1, dst := .v 7, typ := .f32 }) := by rfl
/-- `wcfg.count`, a word that the manual prints. -/
theorem test_decode_wcfg : decode 0x002000000000000000000300 = .ok (.wcfg { f0 with mod := 1 }) := by rfl
/-- `wload.s8 [s9]`, a word that the manual prints. -/
theorem test_decode_wload : decode 0x000000000000000240000701 = .ok (.wload { f0 with opa := .s 9, typ := .s8 }) := by rfl
/-- `wrun [s10+128]`, a word that the manual prints. -/
theorem test_decode_wrun : decode 0x000000000200000280000303 = .ok (.wrun { f0 with imm := 128, opa := .s 10 }) := by rfl
/-- `wdrain.next [s11]`, a word that the manual prints. -/
theorem test_decode_wdrain : decode 0x0020000000000002C0002F04 = .ok (.wdrain { f0 with mod := 1, opa := .s 11, typ := .f32 }) := by rfl
/-- `wstat s20`, a word that the manual prints. -/
theorem test_decode_wstat : decode 0x000000000000000001400306 = .ok (.wstat { f0 with dst := .s 20 }) := by rfl
/-- `gcfg s10, s11`, a word that the manual prints. -/
theorem test_decode_gcfg : decode 0x0000000000000B0280000340 = .ok (.gcfg { f0 with opb := .s 11, opa := .s 10 }) := by rfl
/-- `gmm.bf16.gang a2, [s9], s12`, a word that the manual prints. -/
theorem test_decode_gmm : decode 0x0020000000000C024C202B42 = .ok
    (.gmm { f0 with mod := 1, opb := .s 12, opa := .s 9, dst := .a 2, typ := .bf16 }) := by rfl
/-- `grd.f32 s9, a2, s10 +2`, a word that the manual prints. -/
theorem test_decode_grd : decode 0x0200000000000A3080902F44 = .ok
    (.grd { f0 with look := 2, opb := .s 10, opa := .a 2, dst := .s 9, typ := .f32 }) := by rfl
/-- `gst.bf16.sclrelu [s20+64], a2, s21`, a word that the manual prints. -/
theorem test_decode_gst : decode 0x00600000010015050C202B45 = .ok
    (.gst { f0 with mod := 3, imm := 64, opb := .s 21, opa := .s 20, dst := .a 2, typ := .bf16 }) := by rfl
/-- `pload s20, s9 +1`, a word that the manual prints. -/
theorem test_decode_pload : decode 0x010000000000000241400380 = .ok (.pload { f0 with look := 1, opa := .s 9, dst := .s 20 }) := by rfl
/-- `put s4, s10, s11`, a word that the manual prints. -/
theorem test_decode_put : decode 0x0000000000000B0280400384 = .ok (.put { f0 with opb := .s 11, opa := .s 10, dst := .s 4 }) := by rfl
/-- `get s10, s12`, a word that the manual prints. -/
theorem test_decode_get : decode 0x0000000000000C0280000385 = .ok (.get { f0 with opb := .s 12, opa := .s 10 }) := by rfl
/-- `spawn s20, s24, imm:0x205`, a word that the manual prints. -/
theorem test_decode_spawn : decode 0x000000000817000601400101 = .ok
    (.spawn { f0 with imm := 517, opb := .imm, opa := .s 24, dst := .s 20 }) := by rfl
/-- `!unif.w s10, 8`, a word that the manual prints. -/
theorem test_decode_unif : decode 0x104000000020000000A003C0 = .ok
    (.unif { f0 with bt := true, mod := 2, imm := 8, dst := .s 10 }) := by rfl
/-- `spstop`, a word that the manual prints. -/
theorem test_decode_spstop : decode 0x0000000000000000000003C1 = .ok (.spstop f0) := by rfl
/-- `spinv s9`, a word that the manual prints. -/
theorem test_decode_spinv : decode 0x0000000000000002400003C2 = .ok (.spinv { f0 with opa := .s 9 }) := by rfl
/-- `spqry.stat s9, 4 +1`, a word that the manual prints. -/
theorem test_decode_spqry : decode 0x01200000001000C0009003C3 = .ok
    (.spqry { f0 with look := 1, mod := 1, imm := 4, opa := .imm, dst := .s 9 }) := by rfl
/-- `join s9, 0x0001_0004`, a word that the manual prints. -/
theorem test_decode_join : decode 0x0000000400100002400003C8 = .ok (.join { f0 with imm := 0x10004, opa := .s 9 }) := by rfl
/-- `cbar s9, 5`, a word that the manual prints. -/
theorem test_decode_cbar : decode 0x0000000000140002400003CA = .ok (.cbar { f0 with imm := 5, opa := .s 9 }) := by rfl
/-- `creds.f32.max s9, s10, 0x0002_0006`, a word that the manual prints. -/
theorem test_decode_creds : decode 0x0040000800180A0240002FCC = .ok
    (.creds { f0 with mod := 2, imm := 0x20006, opb := .s 10, opa := .s 9, typ := .f32 }) := by rfl
theorem test_decode_add : decode 0x001000000000050100301000 = .ok
    (.add { f0 with sat := true, opb := .s 5, opa := .s 4, dst := .s 3, typ := .s64 }) := by rfl
theorem test_decode_sub : decode 0x000000000003010100301001 = .ok
    (.sub { f0 with opb := .k 1, opa := .s 4, dst := .s 3, typ := .s64 }) := by rfl
theorem test_decode_mul : decode 0x000000000000050120001002 = .ok
    (.mul { f0 with opb := .s 5, opa := .s 4, dst := .ls, typ := .s64 }) := by rfl
theorem test_decode_mulh : decode 0x000000000000053280301003 = .ok
    (.mulh { f0 with opb := .s 5, opa := .lc, dst := .s 3, typ := .s64 }) := by rfl
theorem test_decode_mulhn : decode 0x000000000000050100301004 = .ok
    (.mulhn { f0 with opb := .s 5, opa := .s 4, dst := .s 3, typ := .s64 }) := by rfl
theorem test_decode_div : decode 0x0F0000000000050100301005 = .ok
    (.div { f0 with look := 15, opb := .s 5, opa := .s 4, dst := .s 3, typ := .s64 }) := by rfl
theorem test_decode_divn : decode 0x010000000000050100301006 = .ok
    (.divn { f0 with look := 1, opb := .s 5, opa := .s 4, dst := .s 3, typ := .s64 }) := by rfl
theorem test_decode_rem : decode 0x000000000000050100301007 = .ok
    (.rem { f0 with opb := .s 5, opa := .s 4, dst := .s 3, typ := .s64 }) := by rfl
theorem test_decode_remn : decode 0x0000000000000501003F9008 = .ok
    (.remn { f0 with opb := .s 5, opa := .s 4, dst := .s 3, guard := ⟨true, 15⟩, typ := .s64 }) := by rfl
theorem test_decode_and : decode 0x000000000000050100301009 = .ok
    (.and { f0 with opb := .s 5, opa := .s 4, dst := .s 3, typ := .s64 }) := by rfl
theorem test_decode_or : decode 0x00000000000005010030100A = .ok
    (.or { f0 with opb := .s 5, opa := .s 4, dst := .s 3, typ := .s64 }) := by rfl
theorem test_decode_xor : decode 0x00000000000005010030100B = .ok
    (.xor { f0 with opb := .s 5, opa := .s 4, dst := .s 3, typ := .s64 }) := by rfl
theorem test_decode_andn : decode 0x00000000000005010030100C = .ok
    (.andn { f0 with opb := .s 5, opa := .s 4, dst := .s 3, typ := .s64 }) := by rfl
theorem test_decode_shr : decode 0x00000000000005010030100E = .ok
    (.shr { f0 with opb := .s 5, opa := .s 4, dst := .s 3, typ := .s64 }) := by rfl
theorem test_decode_sar : decode 0x00000000000005010030100F = .ok
    (.sar { f0 with opb := .s 5, opa := .s 4, dst := .s 3, typ := .s64 }) := by rfl
theorem test_decode_rol : decode 0x000000000000050100301010 = .ok
    (.rol { f0 with opb := .s 5, opa := .s 4, dst := .s 3, typ := .s64 }) := by rfl
theorem test_decode_min : decode 0x000000000000050100301014 = .ok
    (.min { f0 with opb := .s 5, opa := .s 4, dst := .s 3, typ := .s64 }) := by rfl
theorem test_decode_minn : decode 0x000000000000050100301015 = .ok
    (.minn { f0 with opb := .s 5, opa := .s 4, dst := .s 3, typ := .s64 }) := by rfl
theorem test_decode_max : decode 0x000000000000050100301016 = .ok
    (.max { f0 with opb := .s 5, opa := .s 4, dst := .s 3, typ := .s64 }) := by rfl
theorem test_decode_maxn : decode 0x000000000000050100301017 = .ok
    (.maxn { f0 with opb := .s 5, opa := .s 4, dst := .s 3, typ := .s64 }) := by rfl
theorem test_decode_clz : decode 0x000000000000000F83F01011 = .ok (.clz { f0 with opa := .s 62, dst := .s 63, typ := .s64 }) := by rfl
theorem test_decode_ctz : decode 0x000000000000000F83F01012 = .ok (.ctz { f0 with opa := .s 62, dst := .s 63, typ := .s64 }) := by rfl
theorem test_decode_popc : decode 0x000000000000000F83F01013 = .ok (.popc { f0 with opa := .s 62, dst := .s 63, typ := .s64 }) := by rfl
theorem test_decode_abs : decode 0x000000000000000F83F01018 = .ok (.abs { f0 with opa := .s 62, dst := .s 63, typ := .s64 }) := by rfl
theorem test_decode_mov : decode 0x000000000000000F83F0101A = .ok (.mov { f0 with opa := .s 62, dst := .s 63, typ := .s64 }) := by rfl
theorem test_decode_sel : decode 0x20000000023C050100301019 = .ok
    (.sel { f0 with opc := .p 15, opb := .s 5, opa := .s 4, dst := .s 3, typ := .s64 }) := by rfl
theorem test_decode_movi : decode 0x0003FFFFFFFC00000090101B = .ok
    (.movi { f0 with imm := 0xffffffff, dst := .s 9, typ := .s64 }) := by rfl
theorem test_decode_lea : decode 0x0063FFFFFFE002004090101C = .ok
    (.lea { f0 with mod := 3, imm := 0xfffffff8, opb := .s 2, opa := .s 1, dst := .s 9, typ := .s64 }) := by rfl
theorem test_decode_sext : decode 0x00000000000000028090081D = .ok (.sext { f0 with opa := .s 10, dst := .s 9, typ := .s16 }) := by rfl
theorem test_decode_zext : decode 0x000000000000000280901C1E = .ok (.zext { f0 with opa := .s 10, dst := .s 9, typ := .n32 }) := by rfl
theorem test_decode_bfx : decode 0x00200000402300010030101F = .ok
    (.bfx { f0 with mod := 1, imm := 0x1008, opb := .imm, opa := .s 4, dst := .s 3, typ := .s64 }) := by rfl
theorem test_decode_bfi : decode 0x200000208C00050100301020 = .ok
    (.bfi { f0 with imm := 520, opc := .imm, opb := .s 5, opa := .s 4, dst := .s 3, typ := .s64 }) := by rfl
theorem test_decode_pmov : decode 0x002000000000000000900041 = .ok (.pmov { f0 with mod := 1, dst := .s 9 }) := by rfl
theorem test_decode_fadd : decode 0x000C00000000050100302C80 = .ok
    (.fadd { f0 with rnd := .rup, opb := .s 5, opa := .s 4, dst := .s 3, typ := .f32 }) := by rfl
theorem test_decode_fsub : decode 0x000000000000050100303081 = .ok
    (.fsub { f0 with opb := .s 5, opa := .s 4, dst := .s 3, typ := .f64 }) := by rfl
theorem test_decode_fmul : decode 0x000000000000050100302882 = .ok
    (.fmul { f0 with opb := .s 5, opa := .s 4, dst := .s 3, typ := .bf16 }) := by rfl
theorem test_decode_ffma : decode 0x200000000800050100302C83 = .ok
    (.ffma { f0 with opc := .ls, opb := .s 5, opa := .s 4, dst := .s 3, typ := .f32 }) := by rfl
theorem test_decode_fdiv : decode 0x000400000000050100302484 = .ok
    (.fdiv { f0 with rnd := .rtz, opb := .s 5, opa := .s 4, dst := .s 3, typ := .f16 }) := by rfl
theorem test_decode_fsqrt : decode 0x030000000000000100302C85 = .ok
    (.fsqrt { f0 with look := 3, opa := .s 4, dst := .s 3, typ := .f32 }) := by rfl
theorem test_decode_fmin : decode 0x000000000000050100302C86 = .ok
    (.fmin { f0 with opb := .s 5, opa := .s 4, dst := .s 3, typ := .f32 }) := by rfl
theorem test_decode_fmax : decode 0x000000000000050100302C87 = .ok
    (.fmax { f0 with opb := .s 5, opa := .s 4, dst := .s 3, typ := .f32 }) := by rfl
theorem test_decode_fcmp : decode 0x00E000000000050108702C88 = .ok
    (.fcmp { f0 with mod := 7, opb := .s 5, opa := .s 4, dst := .p 7, typ := .f32 }) := by rfl
theorem test_decode_fcvt : decode 0x003800000000000100301089 = .ok
    (.fcvt { f0 with mod := 1, sat := true, rnd := .rdn, opa := .s 4, dst := .s 3, typ := .s64 }) := by rfl
theorem test_decode_fclass : decode 0x000000000000000100302C8A = .ok
    (.fclass { f0 with opa := .s 4, dst := .s 3, typ := .f32 }) := by rfl
theorem test_decode_fsgn : decode 0x004000000000050100302C8B = .ok
    (.fsgn { f0 with mod := 2, opb := .s 5, opa := .s 4, dst := .s 3, typ := .f32 }) := by rfl
theorem test_decode_br : decode 0x0003FFFFFFDC0000000900C0 = .ok (.br { f0 with imm := 0xfffffff7, guard := ⟨true, 2⟩ }) := by rfl
theorem test_decode_brx : decode 0x0000000000000002400000C1 = .ok (.brx { f0 with opa := .s 9 }) := by rfl
theorem test_decode_call : decode 0x0000000000140000009000C2 = .ok (.call { f0 with imm := 5, dst := .s 9 }) := by rfl
theorem test_decode_ret : decode 0x0000000000000002400000C3 = .ok (.ret { f0 with opa := .s 9 }) := by rfl
theorem test_decode_loop : decode 0x0003FFFFFFF40002409000C4 = .ok
    (.loop { f0 with imm := 0xfffffffd, opa := .s 9, dst := .s 9 }) := by rfl
theorem test_decode_endTask : decode 0x8000000000000000000000C5 = .ok (.endTask { f0 with stop := true }) := by rfl
theorem test_decode_send : decode 0x0000000000000B0280900100 = .ok (.send { f0 with opb := .s 11, opa := .s 10, dst := .s 9 }) := by rfl
theorem test_decode_bind : decode 0x0000000000000B0280000102 = .ok (.bind { f0 with opb := .s 11, opa := .s 10 }) := by rfl
theorem test_decode_unbind : decode 0x000000000000000280000103 = .ok (.unbind { f0 with opa := .s 10 }) := by rfl
theorem test_decode_chctl : decode 0x0060000000000B0280900104 = .ok
    (.chctl { f0 with mod := 3, opb := .s 11, opa := .s 10, dst := .s 9 }) := by rfl
theorem test_decode_mwin : decode 0x000000000100000000000105 = .ok (.mwin { f0 with imm := 64 }) := by rfl
theorem test_decode_home : decode 0x020000000000000280900107 = .ok (.home { f0 with look := 2, opa := .s 10, dst := .s 9 }) := by rfl
theorem test_decode_csrr : decode 0x000000000104000000900140 = .ok (.csrr { f0 with imm := 65, dst := .s 9 }) := by rfl
theorem test_decode_csrw : decode 0x004000000004000240000141 = .ok (.csrw { f0 with mod := 2, imm := 1, opa := .s 9 }) := by rfl
theorem test_decode_trap : decode 0x00000003FFFC000000000142 = .ok (.trap { f0 with imm := 0xffff }) := by rfl
theorem test_decode_brk : decode 0x00000000001C000000000143 = .ok (.brk { f0 with imm := 7 }) := by rfl
theorem test_decode_ldv : decode 0x0303FFFFFF00020044102DC0 = .ok
    (.ldv { f0 with look := 3, imm := 0xffffffc0, opb := .s 2, opa := .s 1, dst := .v 1, typ := .f32 }) := by rfl
theorem test_decode_stv : decode 0x0020000000000000441005C1 = .ok
    (.stv { f0 with mod := 1, opb := .s 0, opa := .s 1, dst := .v 1, typ := .s8 }) := by rfl
theorem test_decode_ldvs : decode 0x0000000000030400503019C2 = .ok
    (.ldvs { f0 with opb := .k 4, opa := .s 1, dst := .o 3, typ := .n16 }) := by rfl
theorem test_decode_stvs : decode 0x0000000000000300503031C3 = .ok
    (.stvs { f0 with opb := .s 3, opa := .s 1, dst := .o 3, typ := .f64 }) := by rfl
theorem test_decode_ldvg : decode 0x00E0000000004300442015C4 = .ok
    (.ldvg { f0 with mod := 7, opb := .v 3, opa := .s 1, dst := .v 2, typ := .n8 }) := by rfl
theorem test_decode_ldf : decode 0x0020000000008100409001C6 = .ok
    (.ldf { f0 with mod := 1, opb := .p 1, opa := .s 1, dst := .s 9 }) := by rfl
theorem test_decode_sete : decode 0x0000000000200200400001C7 = .ok (.sete { f0 with imm := 8, opb := .s 2, opa := .s 1 }) := by rfl
theorem test_decode_watch : decode 0x0020000000000200400001C8 = .ok (.watch { f0 with mod := 1, opb := .s 2, opa := .s 1 }) := by rfl
theorem test_decode_cas : decode 0x20000000400C020040901DCA = .ok
    (.cas { f0 with imm := 4, opc := .s 3, opb := .s 2, opa := .s 1, dst := .s 9, typ := .n32 }) := by rfl
theorem test_decode_ntdrain : decode 0x0000000000000000000001CD = .ok (.ntdrain f0) := by rfl
theorem test_decode_pref : decode 0x0020000002000000400001CE = .ok (.pref { f0 with mod := 1, imm := 128, opa := .s 1 }) := by rfl
theorem test_decode_discard : decode 0x0000000000000200400001CF = .ok (.discard { f0 with opb := .s 2, opa := .s 1 }) := by rfl
theorem test_decode_stmap : decode 0x0000000000000200400001D0 = .ok (.stmap { f0 with opb := .s 2, opa := .s 1 }) := by rfl
theorem test_decode_stsync : decode 0x0040000000000000400001D1 = .ok (.stsync { f0 with mod := 2, opa := .s 1 }) := by rfl
theorem test_decode_capgive : decode 0x000000000000020040000200 = .ok (.capgive { f0 with opb := .s 2, opa := .s 1 }) := by rfl
theorem test_decode_sealCap : decode 0x000000000000000040000201 = .ok (.sealCap { f0 with opa := .s 1 }) := by rfl
theorem test_decode_claim : decode 0x010000000000000040900202 = .ok (.claim { f0 with look := 1, opa := .s 1, dst := .s 9 }) := by rfl
theorem test_decode_rmode : decode 0x002000000000000040000203 = .ok (.rmode { f0 with mod := 1, opa := .s 1 }) := by rfl
theorem test_decode_vsub : decode 0x001000000000431084100A41 = .ok
    (.vsub { f0 with sat := true, opb := .v 3, opa := .v 2, dst := .v 1, typ := .s16 }) := by rfl
theorem test_decode_vmul : decode 0x000000000000433204102E42 = .ok
    (.vmul { f0 with opb := .v 3, opa := .zv, dst := .v 1, typ := .f32 }) := by rfl
theorem test_decode_vsqrt : decode 0x040000000000008050103245 = .ok
    (.vsqrt { f0 with look := 4, opa := .lv, dst := .o 1, typ := .f64 }) := by rfl
theorem test_decode_vmin : decode 0x000000000000431084102E46 = .ok
    (.vmin { f0 with opb := .v 3, opa := .v 2, dst := .v 1, typ := .f32 }) := by rfl
theorem test_decode_vmax : decode 0x000000000000431084101647 = .ok
    (.vmax { f0 with opb := .v 3, opa := .v 2, dst := .v 1, typ := .n8 }) := by rfl
theorem test_decode_vabs : decode 0x000000000000001084102648 = .ok (.vabs { f0 with opa := .v 2, dst := .v 1, typ := .f16 }) := by rfl
theorem test_decode_vneg : decode 0x001000000000001084100E49 = .ok
    (.vneg { f0 with sat := true, opa := .v 2, dst := .v 1, typ := .s32 }) := by rfl
theorem test_decode_vand : decode 0x0000000000004310A0101E4A = .ok
    (.vand { f0 with opb := .v 3, opa := .v 2, dst := .lv, typ := .n32 }) := by rfl
theorem test_decode_vor : decode 0x0000000000004310A0101E4B = .ok
    (.vor { f0 with opb := .v 3, opa := .v 2, dst := .lv, typ := .n32 }) := by rfl
theorem test_decode_vxor : decode 0x0000000000004310A0101E4C = .ok
    (.vxor { f0 with opb := .v 3, opa := .v 2, dst := .lv, typ := .n32 }) := by rfl
theorem test_decode_vshl : decode 0x0000000000004310A0101E4D = .ok
    (.vshl { f0 with opb := .v 3, opa := .v 2, dst := .lv, typ := .n32 }) := by rfl
theorem test_decode_vshr : decode 0x0000000000004310A0101E4E = .ok
    (.vshr { f0 with opb := .v 3, opa := .v 2, dst := .lv, typ := .n32 }) := by rfl
theorem test_decode_vsar : decode 0x0000000000004310A0101E4F = .ok
    (.vsar { f0 with opb := .v 3, opa := .v 2, dst := .lv, typ := .n32 }) := by rfl
theorem test_decode_vcmp : decode 0x00C000000000431088202E50 = .ok
    (.vcmp { f0 with mod := 6, opb := .v 3, opa := .v 2, dst := .p 2, typ := .f32 }) := by rfl
theorem test_decode_vsel : decode 0x200000000210431084100251 = .ok
    (.vsel { f0 with opc := .p 4, opb := .v 3, opa := .v 2, dst := .v 1 }) := by rfl
theorem test_decode_vmov : decode 0x00200000007C0031C4100252 = .ok
    (.vmov { f0 with mod := 1, imm := 31, opa := .a 7, dst := .v 1 }) := by rfl
theorem test_decode_vsplat : decode 0x00000000032000C004101653 = .ok
    (.vsplat { f0 with imm := 200, opa := .imm, dst := .v 1, typ := .n8 }) := by rfl
theorem test_decode_vscan : decode 0x00C000000000001084100E55 = .ok
    (.vscan { f0 with mod := 6, opa := .v 2, dst := .v 1, typ := .s32 }) := by rfl
theorem test_decode_viota : decode 0x000000000003020084101A56 = .ok
    (.viota { f0 with opb := .k 2, opa := .s 2, dst := .v 1, typ := .n16 }) := by rfl
theorem test_decode_vlen : decode 0x000000000000000000903A58 = .ok (.vlen { f0 with dst := .s 9, typ := .t5 }) := by rfl
theorem test_decode_vpcnt : decode 0x0060000000000020C0900259 = .ok (.vpcnt { f0 with mod := 3, opa := .p 3, dst := .s 9 }) := by rfl
theorem test_decode_vpfirst : decode 0x0040000000000020C090025A = .ok
    (.vpfirst { f0 with mod := 2, opa := .p 3, dst := .s 9 }) := by rfl
theorem test_decode_vget : decode 0x000000000000031080900280 = .ok (.vget { f0 with opb := .s 3, opa := .v 2, dst := .s 9 }) := by rfl
theorem test_decode_vput : decode 0x000000000FFC031084100281 = .ok
    (.vput { f0 with imm := 0x3ff, opb := .s 3, opa := .v 2, dst := .v 1 }) := by rfl
theorem test_decode_vperm : decode 0x000000000000431084100282 = .ok (.vperm { f0 with opb := .v 3, opa := .v 2, dst := .v 1 }) := by rfl
theorem test_decode_vcmpr : decode 0x000000000000001084100283 = .ok (.vcmpr { f0 with opa := .v 2, dst := .v 1 }) := by rfl
theorem test_decode_vexpd : decode 0x000000000000001084100284 = .ok (.vexpd { f0 with opa := .v 2, dst := .v 1 }) := by rfl
theorem test_decode_vsfu : decode 0x01E000000000001084102E85 = .ok
    (.vsfu { f0 with look := 1, mod := 7, opa := .v 2, dst := .v 1, typ := .f32 }) := by rfl
theorem test_decode_vqnt : decode 0x006000000000031084100687 = .ok
    (.vqnt { f0 with mod := 3, opb := .s 3, opa := .v 2, dst := .v 1, typ := .s8 }) := by rfl
theorem test_decode_vrtag : decode 0x000000000000001084103E88 = .ok (.vrtag { f0 with opa := .v 2, dst := .v 1, typ := .q }) := by rfl
theorem test_decode_unpk5t : decode 0x00800000000000108410068A = .ok
    (.unpk5t { f0 with mod := 4, opa := .v 2, dst := .v 1, typ := .s8 }) := by rfl
theorem test_decode_cpyx : decode 0x0000000000000B02809002C2 = .ok (.cpyx { f0 with opb := .s 11, opa := .s 10, dst := .s 9 }) := by rfl
theorem test_decode_cpyc : decode 0x0020000000000000000002C5 = .ok (.cpyc { f0 with mod := 1 }) := by rfl
theorem test_decode_wscl : decode 0x000000000100000240002B02 = .ok (.wscl { f0 with imm := 64, opa := .s 9, typ := .bf16 }) := by rfl
theorem test_decode_wzero : decode 0x000000000000000000000305 = .ok (.wzero f0) := by rfl
theorem test_decode_gbld : decode 0x0000000000000A0240003341 = .ok (.gbld { f0 with opb := .s 10, opa := .s 9, typ := .f64 }) := by rfl
theorem test_decode_gzero : decode 0x00200000000000000C600343 = .ok (.gzero { f0 with mod := 1, dst := .a 6 }) := by rfl
theorem test_decode_gwait : decode 0x002000000000000000000346 = .ok (.gwait { f0 with mod := 1 }) := by rfl
theorem test_decode_pfree : decode 0x000000000000000240000381 = .ok (.pfree { f0 with opa := .s 9 }) := by rfl
theorem test_decode_popen : decode 0x0000000000000A0240000382 = .ok (.popen { f0 with opb := .s 10, opa := .s 9 }) := by rfl
theorem test_decode_pclose : decode 0x000000000003030240000383 = .ok (.pclose { f0 with opb := .k 3, opa := .s 9 }) := by rfl
theorem test_decode_pcancel : decode 0x0000000000000A0240000386 = .ok (.pcancel { f0 with opb := .s 10, opa := .s 9 }) := by rfl
theorem test_decode_pbind : decode 0x0000000000000A0240000387 = .ok (.pbind { f0 with opb := .s 10, opa := .s 9 }) := by rfl
theorem test_decode_pstat : decode 0x0F00000000000B0280900388 = .ok
    (.pstat { f0 with look := 15, opb := .s 11, opa := .s 10, dst := .s 9 }) := by rfl
theorem test_decode_leave : decode 0x00000000000C0002400003C9 = .ok (.leave { f0 with imm := 3, opa := .s 9 }) := by rfl
theorem test_decode_cgath : decode 0x0000000000380A02400003CB = .ok (.cgath { f0 with imm := 14, opb := .s 10, opa := .s 9 }) := by rfl
theorem test_decode_cxch : decode 0x0003FFFC00000A02400003CD = .ok
    (.cxch { f0 with imm := 0xffff0000, opb := .s 10, opa := .s 9 }) := by rfl

/-! Ill-formed instructions, one for each check of R65 to R69, R73, R74 and R77: each is refused. -/

theorem test_illformed_typ : Instr.wf (.add { f0 with typ := .s32 }) = false := by decide
theorem test_illformed_mod : Instr.wf (.add { f0 with typ := .s64, mod := 1 }) = false := by decide
theorem test_illformed_sat : Instr.wf (.mulh { f0 with typ := .s64, sat := true }) = false := by decide
theorem test_illformed_rnd : Instr.wf (.add { f0 with typ := .s64, rnd := .rtz }) = false := by decide
theorem test_illformed_look : Instr.wf (.add { f0 with typ := .s64, look := 1 }) = false := by decide
theorem test_illformed_scalarSource : Instr.wf (.add { f0 with typ := .s64, opa := .p 1 }) = false := by decide
theorem test_illformed_constantZero : Instr.wf (.add { f0 with typ := .s64, opa := .k 0 }) = false := by decide
theorem test_illformed_constantFpOnly : Instr.wf (.add { f0 with typ := .s64, opa := .k 192 }) = false := by decide
theorem test_illformed_constantT5 : Instr.wf (.unpk5t { f0 with typ := .s8, dst := .v 1, opa := .k 1 }) = false := by decide
theorem test_illformed_countConstant : Instr.wf (.loop { f0 with opa := .k 192 }) = false := by decide
theorem test_illformed_scalarDestination : Instr.wf (.add { f0 with typ := .s64, dst := .v 1 }) = false := by decide
theorem test_illformed_latchOfLongOp : Instr.wf (.div { f0 with typ := .s64, dst := .ls }) = false := by decide
theorem test_illformed_pairOdd : Instr.wf (.ld { f0 with typ := .q, dst := .s 3 }) = false := by decide
theorem test_illformed_pairZero : Instr.wf (.ld { f0 with typ := .q, dst := .s 0 }) = false := by decide
theorem test_illformed_vectorSource : Instr.wf (.vadd { f0 with typ := .f32, dst := .v 1, opa := .s 1, opb := .v 2 }) = false := by decide
theorem test_illformed_vectorData : Instr.wf (.vsel { f0 with dst := .v 1, opa := .zv, opb := .v 2, opc := .p 1 }) = false := by decide
theorem test_illformed_vectorDestination :
    Instr.wf (.vadd { f0 with typ := .f32, dst := .zv, opa := .v 1, opb := .v 2 }) = false := by decide
theorem test_illformed_latchOfVectorLoad : Instr.wf (.ldv { f0 with typ := .f32, dst := .lv }) = false := by decide
theorem test_illformed_predicate : Instr.wf (.cmp { f0 with typ := .s64, dst := .s 1 }) = false := by decide
theorem test_illformed_tile : Instr.wf (.gmm { f0 with typ := .f32, dst := .s 1 }) = false := by decide
theorem test_illformed_tileOdd : Instr.wf (.gmm { f0 with typ := .f64, dst := .a 3 }) = false := by decide
theorem test_illformed_storeTileOdd : Instr.wf (.gst { f0 with typ := .f64, dst := .a 1 }) = false := by decide
theorem test_illformed_groupPc : Instr.wf (.cbar { f0 with opa := .pc }) = false := by decide
theorem test_illformed_address : Instr.wf (.ld { f0 with typ := .n64, opa := .ls }) = false := by decide
theorem test_illformed_unused : Instr.wf (.mov { f0 with typ := .s64, opb := .s 1 }) = false := by decide
theorem test_illformed_unusedThird : Instr.wf (.add { f0 with typ := .s64, opc := .s 1 }) = false := by decide
theorem test_illformed_storePair : Instr.wf (.st { f0 with typ := .q, dst := .s 5 }) = false := by decide
theorem test_illformed_fillPair : Instr.wf (.cpyset { f0 with typ := .q, opb := .s 5 }) = false := by decide
theorem test_illformed_groupImmediate : Instr.wf (.cbar { f0 with opa := .imm, imm := 1 }) = false := by decide
theorem test_illformed_putImmediate : Instr.wf (.vput { f0 with dst := .v 1, opa := .v 2, opb := .imm }) = false := by decide
theorem test_illformed_immediateUnread : Instr.wf (.add { f0 with typ := .s64, imm := 1 }) = false := by decide
theorem test_illformed_immediateOf22Bits :
    Instr.wf (.sel { f0 with typ := .s64, opa := .imm, opc := .p 1, imm := 0x400000 }) = false := by decide
theorem test_illformed_truthTable :
    Instr.wf (.plog { f0 with dst := .p 1, opa := .p 1, opb := .p 1, opc := .p 1, imm := 256 }) = false := by decide
theorem test_illformed_callImmediate : Instr.wf (.call { f0 with mod := 1, imm := 1 }) = false := by decide
theorem test_illformed_windowOf0 : Instr.wf (.mwin { f0 with imm := 0 }) = false := by decide
theorem test_illformed_windowOf65 : Instr.wf (.mwin { f0 with imm := 65 }) = false := by decide
theorem test_illformed_systemRegister : Instr.wf (.csrr { f0 with imm := 2 }) = false := by decide
theorem test_illformed_readOnlyRegister : Instr.wf (.csrw { f0 with imm := 0x10 }) = false := by decide
theorem test_illformed_trapCode : Instr.wf (.trap { f0 with imm := 0x10000 }) = false := by decide
theorem test_illformed_signedDouble : Instr.wf (.ld { f0 with typ := .n64, mod := 1 }) = false := by decide
theorem test_illformed_fpAtomicAnd : Instr.wf (.amo { f0 with typ := .f32, mod := 2 }) = false := by decide
theorem test_illformed_atomicSat : Instr.wf (.amo { f0 with typ := .s64, mod := 2, sat := true }) = false := by decide
theorem test_illformed_atomicRnd : Instr.wf (.amom { f0 with typ := .s64, rnd := .rup }) = false := by decide
theorem test_illformed_fenceOrder : Instr.wf (.fence { f0 with imm := 3 }) = false := by decide
theorem test_illformed_integerCondition : Instr.wf (.cmp { f0 with typ := .s64, dst := .p 1, mod := 6 }) = false := by decide
theorem test_illformed_tileRow : Instr.wf (.vmov { f0 with mod := 1, dst := .v 1, opa := .a 1, imm := 32 }) = false := by decide
theorem test_illformed_putIndex : Instr.wf (.vput { f0 with dst := .v 1, opa := .v 2, opb := .s 1, imm := 1024 }) = false := by decide
theorem test_illformed_flagWord : Instr.wf (.cpyl { f0 with imm := 0x10000 }) = false := by decide
theorem test_illformed_cancelAll : Instr.wf (.cpyc { f0 with mod := 1, dst := .s 1 }) = false := by decide
theorem test_illformed_uniformUnaligned : Instr.wf (.unif { f0 with mod := 2, imm := 6 }) = false := by decide
theorem test_illformed_uniformPast : Instr.wf (.unif { f0 with mod := 3, imm := 256 }) = false := by decide
theorem test_illformed_notifyChannel : Instr.wf (.join { f0 with opa := .s 1, imm := 15 }) = false := by decide
theorem test_illformed_event : Instr.wf (.tickPeriod) = false := by decide

/-! Words that are no instruction, by the check that refuses them (R61, R77). -/

theorem test_rejects_op : decode 0x000000000000000000000022 = .error .op := by rfl
theorem test_rejects_op2 : decode 0x0000000000000000000003C4 = .error .op := by rfl
theorem test_rejects_bit94 : decode 0x400000000000000000001000 = .error .bit94 := by rfl
theorem test_rejects_typ : decode 0x000000000000000000004000 = .error .typ := by rfl
theorem test_rejects_typ2 : decode 0x000000000000000000000C00 = .error .typ := by rfl
theorem test_rejects_operand : decode 0x000000000000000006001000 = .error .operand := by rfl
theorem test_rejects_operand2 : decode 0x000000000000000004001000 = .error .operand := by rfl
theorem test_rejects_mod : decode 0x002000000000000000001000 = .error .mod := by rfl
theorem test_rejects_sat : decode 0x001000000000000000001003 = .error .sat := by rfl
theorem test_rejects_rnd : decode 0x000400000000000000001000 = .error .rnd := by rfl
theorem test_rejects_look : decode 0x010000000000000000001000 = .error .look := by rfl
theorem test_rejects_c3 : decode 0x200000000000000000001000 = .error .c3 := by rfl
theorem test_rejects_imm : decode 0x000000000004000000001000 = .error .imm := by rfl

/-- A table row of 96 bits reads as the word does; a slot shorter than 12 bytes holds no instruction (R60). -/
theorem test_table_word : decodeTableWord 96 0x020000000020000040902180 =
    some (.ld { f0 with look := 2, imm := 8, opa := .s 1, dst := .s 9, typ := .n64 }) := by rfl
theorem test_short_bytes : decodeBytes (List.replicate 11 0) = none := by rfl

/-! A small machine: core 0 runs the first task of context 1 in bank 0, in free mode, at slot 0 of a line of its local memory; p1 is
true, p2 false, nothing is outstanding. -/

def ctx1 : Ctx :=
  { id := 1, det := false, q := 10000, dumpFirst := false, root := 0x10000, grant := [0, 1], slots := [0, 0], supv := [1], authority := [], kicks := [2], dump := 0
    record := 0, packages := 0, dead := none, dying := none, dropLaunch := 0, dropWb := 0, quanta := 0, bounds := 0, collected := []
    outbox := [] }

def quietBank (rs : List (Fin 64 × W64)) : Bank :=
  { Bank.reset with
    s := rs.foldl (fun v r => v.set r.1 r.2) Bank.reset.s, p := Bank.reset.p.set 1 (BitVec.allOnes 128), pc := 0xFF0000001000
    task := { TaskSt.reset with live := true, serial := 1 } }

def core0 (b : Bank) : Core := { Core.reset 0 with cx := { CtxCore.reset 1 0 with b0 := b }, nextTask := 2, nextId := 1 }

/-- Core 0 as given, in context 1. -/
def with0 (c : Core) : State := { State.reset with cores := [c], ctxs := [ctx1] }

/-- Core 0 with these scalar registers. -/
def quiet (rs : List (Fin 64 × W64)) : State := with0 (core0 (quietBank rs))

/-- Two sources s1 and s2, destination s3. -/
def d3 : Fields := { f0 with typ := .s64, dst := .s 3, opa := .s 1, opb := .s 2 }

theorem quiet_guarded (f : Fields) (rs : List (Fin 64 × W64)) (g : guard0 (quiet rs).bank f = true) : Guarded f (quiet rs) :=
  ⟨issues_of_quiet f _ rfl rfl (by intro e; cases e <;> rfl), g⟩

/-! For each statement with hypotheses, a state and operands that meet them. -/

/-- Did it give a value? -/
def isOk {ε α : Type} : Except ε α → Bool
  | .ok _ => true
  | .error _ => false

/-- Does the step or instruction answer a next state of which `p` holds? -/
def nextIs (r : Res) (p : State → Bool) : Bool :=
  match r with
  | .next t => p t
  | _ => false

/-- One executable page at virtual address 0, as the table that `State.withFetchWord` lays out. -/
def fetchable : State := State.reset.withFetchWord 96 0x000000000003020000A01000

/-- The small machine with that table. -/
def mapped (rs : List (Fin 64 × W64)) : State := { quiet rs with mem := fetchable.mem }

/-- A guard that reads false (p2), and one that is inverted and reads true. -/
def off : Fields := { d3 with guard := ⟨false, 2⟩ }
def inverted : Fields := { d3 with guard := ⟨true, 2⟩ }

theorem witness_EncodingAndDecodingAgree : (Instr.add d3).wf = true ∧
    (Instr.cas { f0 with typ := .q, dst := .s 62, opb := .s 0, opc := .s 62, imm := 0x3FFFFF }).wf = true ∧
    decode 0x000000000000000000001000 = .ok (.add { f0 with typ := .s64 }) := by
  refine ⟨by decide, by decide, by rfl⟩

theorem witness_StepRunsTheDecodedInstruction :
    let s := fetchable
    let u := ({ s with agenda := [] } : State).begin 0
    let pc := u.bank.pc
    s.agenda = [.issue 0] ∧ s.pkg.hold = false ∧ mayIssue u u.here = true ∧ slotOk pc = true ∧
    breakpointAt u.here (originOf u u.here pc).pc = false ∧ fetchKey u u.here pc = .ok 0x200000 ∧
    anyIn u.poison 16 (0x200000 + pc.toNat % 64) 12 = false ∧ lineWord u 0x200000 = 0 ∧
    decodeBytes (readCells u.mem (0x200000 + pc.toNat % 64) 12) = some (.ok (.add { d3 with dst := .s 10, opa := .s 0, opb := .k 2 })) := by
  refine ⟨rfl, rfl, ?_, ?_, ?_, ?_, ?_, ?_, ?_⟩ <;> rfl

/-- The line of that page as an instruction cache holds it, read clean or poisoned, and its core told to issue from there. -/
def heldLine (pois : Bool) : List PByte := (toBytes 64 0x000000000003020000A01000).map fun b => { b := b, p := pois }
def holding (pois : Bool) : State :=
  let c := fetchable.core 0
  { fetchable.setCore { c with icache := [(0x200000, heldLine pois)] } with agenda := [.hold 0] }

theorem witness_StepRunsTheDecodedInstruction_hold :
    let s := holding false
    let u := ({ s with agenda := [] } : State).begin 0
    s.agenda = [.hold 0] ∧ mayIssue u u.here = true ∧ fetchKey u u.here u.bank.pc = .ok 0x200000 ∧ u.here.cached 0x200000 = some (heldLine false) ∧
    anyPois (sub (heldLine false) (u.bank.pc.toNat % 64) 12) = false ∧ ofBytes ((sub (heldLine false) 60 4).map PByte.b) = 0 ∧
    decodeBytes ((sub (heldLine false) (u.bank.pc.toNat % 64) 12).map PByte.b) = some (.ok (.add { d3 with dst := .s 10, opa := .s 0, opb := .k 2 })) := by
  refine ⟨rfl, ?_, ?_, ?_, ?_, ?_, ?_⟩ <;> rfl

theorem witness_StepRunsTheDecodedInstruction_poisoned :
    let u := ({ holding true with agenda := [] } : State).begin 0
    mayIssue u u.here = true ∧ u.here.cached 0x200000 = some (heldLine true) ∧ anyPois (sub (heldLine true) (u.bank.pc.toNat % 64) 12) = true ∧
    nextIs (step (holding true)) (fun t => t.here.cx.frz.frozen && t.here.cx.frz.cause == 3) = true := by
  refine ⟨?_, ?_, ?_, ?_⟩ <;> decide +kernel

theorem witness_StepCarriesOutTheNamedEvent :
    let s : State := { State.reset with agenda := [.event .tickPeriod] }
    let h : State := { State.reset with agenda := [.hold 0], pkg := { State.reset.pkg with hold := true } }
    s.agenda = [.event .tickPeriod] ∧ Instr.isEvent .tickPeriod = true ∧ s.pkg.hold = false ∧ h.pkg.hold = true ∧ h.agenda = [.hold 0] ∧
    ({ State.reset with agenda := [.wait 5] } : State).agenda = [.wait 5] := by
  refine ⟨?_, ?_, ?_, ?_, ?_, ?_⟩ <;> rfl

theorem witness_EveryStepKeepsMemoryCanonical :
    fetchable.memOk = true ∧ nextIs (step fetchable) (fun t => t.bank.rs 10 == 1) = true := by decide

theorem witness_WordsReadAsWritten : State.reset.memOk = true ∧ (0 < 2 ∧ (4 : Nat) < 8) := by decide

theorem witness_IssueChangesOnlyItsOwnCore : Instr.isEvent (.add d3) = false ∧ (quiet [(1, 5)]).memOk = true ∧
    Untraced (quiet [(1, 5)]) 0 ∧ (quiet [(1, 5)]).here.rb = false ∧ (1 : Nat) ≠ (quiet [(1, 5)]).cur ∧
    nextIs (exec (.add d3) (quiet [(1, 5)])) (fun t => t.bank.rs 3 == 5) = true := by
  refine ⟨by decide, by decide, by unfold Untraced; decide, by decide, by decide, by decide⟩

/-- A destination in each of v, o and lv; 3 the tag of `.s32`. -/
theorem witness_RegistersReadAsWritten :
    (wvec Bank.reset (.v 5) false 7).v[5] = 7 ∧ (wvec Bank.reset (.v 5) false 7).lv = 7 ∧ (wvec Bank.reset (.o 2) true 7).o[2] = 7 ∧
    (wvec Bank.reset (.o 2) true 7).lv = 0 ∧ (retag Bank.reset .lv true 3).lvtag = 3 := by decide +kernel

/-- p2 is all false; p3 has every bit but bit 0 true, which is no mask for an ADD (R232). -/
theorem witness_FalseGuardsRetireWithoutEffect :
    ((Instr.add off).fields? = some off ∧ Issues off (quiet []) ∧ guardMask (quiet []).bank off = 0#128) ∧
    (let s := with0 (core0 { quietBank [] with p := (quietBank []).p.set 3 (BitVec.allOnes 128 <<< 1) })
     let f : Fields := { d3 with guard := ⟨false, 3⟩ }
     Issues f s ∧ (Instr.add f).elementwise = false ∧ (guardMask s.bank f).getLsbD 0 = false ∧ guardMask s.bank f ≠ 0#128) := by
  refine ⟨⟨rfl, ⟨by decide, by decide⟩, by decide⟩, ⟨by decide, by decide⟩, by decide, by decide, by decide⟩

/-- The small machine with a window in which s2 is pending. -/
def looking : State :=
  let b := quietBank []
  with0 (core0 { b with task := { b.task with windows := [{ regs := [.s 2], left := 3, pc := 0x1000, op := 0x180 }] } })

theorem witness_LookaheadViolationsFault :
    violation looking looking.bank.task d3 = some { cause := 5, s5 := 0, s6 := 0x1000, s7 := 0x802 } ∧
    looking.bank.task.form = none ∧ looking.bank.task.noCheck = false := by
  decide

/-- A load of s2 that has not been performed. -/
def pendingLoad (st : OpSt) (dst : List Reg) : Op :=
  { id := 0, ins := .ld { f0 with typ := .n64, dst := .s 2, opa := .s 1 }, bank := false, task := 1, ch := 0, pc := 0xFF0000000FF4, at_ := 0, st := st, dst := dst
    addr := 0xFF0000000100, parts := [{ va := 0xFF0000000100, key := localKey 0 0x100, len := 8, off := 0, done := false }], buf := [], b := 0, c := 0
    res := [], ev := 0, late := false, collected := false, mmio := false }

/-- The small machine with one outstanding operation, the first in program order. -/
def withOp (o : Op) : State := with0 { core0 (quietBank [(1, 0xFF0000000100)]) with ops := [o] }

/-- An ADD that names s2; a CPYC that names it too, with guard p0; one whose guard is pending. -/
theorem witness_PendingRegistersStallIssue :
    (let s := withOp (pendingLoad .pending [.s 2])
     violation s s.bank.task d3 = none ∧ s.here.waits (fieldRegs d3) = true ∧ s.here.waits [] = false ∧
     guard0 s.bank { f0 with dst := .s 2 } = true) ∧
    (let s := withOp (pendingLoad .pending [.p 1])
     let f : Fields := { f0 with dst := .s 2, guard := ⟨false, 1⟩ }
     violation s s.bank.task f = none ∧ s.here.waits [.p f.guard.p] = true) ∧
    guard0 (quiet []).bank { f0 with guard := ⟨false, 2⟩ } = false := by decide

theorem witness_RetiringAndFaultingLeaveRegisters : (1 : Nat) ≠ (quiet []).cur ∧ Untraced (quiet []) (quiet []).cur := by
  refine ⟨by decide, by unfold Untraced; decide⟩

/-- A bank whose L op executes again, and one where nothing does; a branch of −9 from slot 3 of a line, the manual's worked example; and
the first slot of memory, with d = 0. -/
theorem witness_RetiringMovesThePc : (quiet []).bank.again = none ∧
    (let b := quietBank []
     ({ b with task := { b.task with conts := [{ lop := 0xFF0000001000, next := 0x1024, left := 0, at_ := 0 }] } } : Bank).again.isSome) = true ∧
    slotOk 0x100064 = true ∧ ((0x100064 / 64 * 5 + 0x100064 % 64 / 12 : Int) + -9 = 81919) ∧ slotOk 0 = true := by decide

/-- Every instruction of the groups below has a state in which it issues and its guard reads true: all its registers readable, or
the guard inverted. -/
theorem witness_Guarded : Guarded d3 (quiet [(1, 5), (2, 7)]) ∧ Guarded inverted (quiet []) :=
  ⟨quiet_guarded _ _ (by decide), quiet_guarded _ _ (by decide)⟩

theorem witness_TwoSourceIntegerResults : Guarded d3 (quiet [(1, 5), (2, 64)]) ∧ Guarded { d3 with dst := .s 0 } (quiet []) :=
  ⟨quiet_guarded _ _ (by decide), quiet_guarded _ _ (by decide)⟩

theorem witness_MoveSelectAndBitFieldResults :
    Guarded { d3 with opc := .p 1 } (quiet []) ∧ Guarded { d3 with opc := .s 3, mod := 1 } (quiet []) ∧
    Guarded { d3 with typ := .s8 } (quiet []) ∧ Guarded { d3 with typ := .n32, mod := 1 } (quiet []) :=
  ⟨quiet_guarded _ _ (by decide), quiet_guarded _ _ (by decide), quiet_guarded _ _ (by decide), quiet_guarded _ _ (by decide)⟩

theorem witness_DivisionResults : Guarded { d3 with sat := true } (quiet [(1, 0x8000000000000000), (2, BitVec.allOnes 64)]) :=
  quiet_guarded _ _ (by decide)

theorem witness_ScalarFpResults : Guarded { d3 with typ := .f32, opc := .s 3 } (quiet [(1, 0x3F800000)]) := quiet_guarded _ _ (by decide)

theorem witness_ComparesWritePredicates : Guarded { d3 with dst := .p 3, mod := 5 } (quiet []) := quiet_guarded _ _ (by decide)

theorem witness_PredicateInstructionResults :
    Guarded { f0 with dst := .p 4, opa := .p 1, opb := .p 2, opc := .p 3, imm := 0xFF } (quiet []) ∧
    (Instr.plog { f0 with dst := .p 4, opa := .p 1, opb := .p 2, opc := .p 3, imm := 0xFF }).wf = true ∧ (quiet []).here.waits allPreds = false :=
  ⟨quiet_guarded _ _ (by decide), by decide, by decide⟩

/-- An invalid operation with its trap enabled, and one with it masked; the largest f16, an exact sum and one that overflows; a signalling
NaN; an f16 that is rounded to an integer out of s8's range. -/
theorem witness_FpEventsAccrueAndTrap :
    (0x10#5 : Events) &&& ({ quietBank [] with fenable := 0x1F }).fenable ≠ 0#5 ∧ (0x10#5 : Events) &&& (quietBank []).fenable = 0#5 ∧
    Typ.f16.isFp = true ∧ Typ.s8.isInt = true ∧ (0xFBFF : Nat) < 2 * 2 ^ 15 ∧ unitsOf (fmtOf .f16) 0x7BFF = 2047 * 2 ^ 29 ∧ oneExp (fmtOf .f16) = 24 ∧
    RoundsRat (fmtOf .f16) .rne false (unitsOf (fmtOf .f16) 0x3C00 * 2) 1 (0x4000, 0) ∧
    RoundsRat (fmtOf .f16) .rne false (unitsOf (fmtOf .f16) 0x7BFF * 2) 1 (0x7C00, 5) ∧
    Arithmetic (fmtOf .f16) [0x3C00, 0x7C01] none none (fun _ => False) (0x7E01, 16) ∧
    intFit .s8 true (roundedInt .rne true (unitsOf (fmtOf .f16) 0x7BFF) (2 ^ 24)) = 0x80 := by
  refine ⟨by decide, by decide, by decide, by decide, by decide, by decide, by decide, ?_, ?_, rfl, by decide⟩
  · exact ⟨0x4000, rfl, by decide, fun _ => ⟨0x4000, by decide, by decide, by decide, by decide⟩, by decide⟩
  · exact ⟨0x7C00, rfl, by decide, fun h => absurd h (by decide), by decide⟩

/-- LOOP at its last pass and before it; a drain with empty engines, and one with a command queued. -/
theorem witness_ControlInstructionsTransfer :
    let s := quiet [(1, 2), (2, 1)]
    Guarded { d3 with stop := true } s ∧ 1 < (rd s d3 d3.opa).toNat ∧ (rd s d3 (.s 2)).toNat ≤ 1 ∧ ∀ e, (s.here.eng e).cmds = [] := by
  refine ⟨quiet_guarded _ _ (by decide), by decide, by decide, ?_⟩
  intro e; cases e <;> rfl

theorem witness_ControlInstructionsTransfer_drain :
    let k : Cmd := { id := 0, ins := .wzero f0, bank := false, task := 1, pc := 0, at_ := 0, addr := 0, a := 0, b := 0, mask := 0, cp := 0, ch := 0
                     ta := 0, tb := 0, tc := 0, td := 0 }
    let s := with0 { core0 (quietBank []) with weft := { EngQ.reset with waiting := [k] } }
    Guarded { f0 with mod := 1 } s ∧ ∃ e, (s.here.eng e).cmds ≠ [] := by
  exact ⟨⟨⟨by decide, by decide⟩, by decide⟩, .weft, by decide⟩

/-- BRK with and without an armed breakpoint. -/
theorem witness_TrapAndBrkFreeze : Guarded { f0 with imm := 7 } (quiet []) ∧ (quiet []).here.loupe.armed = false ∧
    let s := with0 { core0 (quietBank []) with loupe := { Loupe.reset with armed := true } }
    Guarded { f0 with imm := 7 } s ∧ s.here.loupe.armed = true :=
  ⟨quiet_guarded _ _ (by decide), by decide, ⟨⟨by decide, by decide⟩, by decide⟩, by decide⟩

theorem witness_PreciseFaultsFreezeTheCore : (illegalInfo 0).cause < 256 ∧ (illegalInfo 0).cause ≠ 6 := by decide

/-- sys.coreid and the registers that the statement names one by one; a core that supervises itself, and one that the loupe delegates. -/
theorem witness_SystemRegisterInstructions_rights :
    let f : Fields := { f0 with dst := .s 9, imm := 0x40 }
    let s : State := { quiet [] with ctxs := [{ ctx1 with supv := [0] }] }
    let t := with0 { core0 (quietBank []) with loupe := { Loupe.reset with deleg := 0x1001 } }
    Guarded f (quiet []) ∧ supvOf (quiet []) 1 0 ≠ 0 ∧ Guarded f s ∧ supvOf s s.here.cx.ctx s.here.cx.lc = s.here.cx.lc ∧
    Guarded { f with imm := 0x41 } t ∧ t.here.loupe.deleg.toNat = 2 ^ 12 + t.here.cx.ctx ∧ (quiet []).here.loupe.deleg.toNat ≠ 2 ^ 12 + 1 :=
  ⟨quiet_guarded _ _ (by decide), by decide, ⟨⟨by decide, by decide⟩, by decide⟩, by decide, ⟨⟨by decide, by decide⟩, by decide⟩, by decide, by decide⟩

theorem witness_SystemRegisterInstructions :
    Guarded { f0 with dst := .s 9, imm := 0x20 } (quiet []) ∧ isOk (readCsr (quiet []) 0x20) = true ∧ isOk (readCsr (quiet []) 0x41) = false ∧
    Guarded { f0 with opa := .s 1, imm := 1, mod := 2 } (quiet [(1, 5)]) :=
  ⟨quiet_guarded _ _ (by decide), by decide, by decide, quiet_guarded _ _ (by decide)⟩

/-- A message of 32 bytes on ch5 to logical core 1; a target past the context; a descriptor of 57 bytes; a full buffer. -/
theorem witness_SendAndSpawnSendAMessage :
    let f : Fields := { f0 with dst := .s 4, opa := .s 1, opb := .s 2 }
    let s := quiet [(1, 1), (2, 0x70205)]
    Guarded f s ∧ sendDescOk (rd s f f.opb) = true ∧ s.here.waits (sRange 4 4) = false ∧ MaySend s ∧ (rd s f f.opa).toNat < (ncWord s).toNat ∧
    ((quiet [(1, 2)]).bank.rs 1).toNat ≥ (ncWord (quiet [])).toNat ∧ sendDescOk 0x395 = false ∧
    (let t := with0 { core0 (quietBank [(1, 1), (2, 0x205)]) with
       sending := List.replicate 8 { id := 0, out := .heddle { ctx := 1, lc := 0, handle := 0, ask := .pfree } } }
     Guarded f t ∧ ¬ MaySend t) ∧
    (let s := mapped [(1, 0), (2, 0x205)]
     (match targetOf s s.here 0 with | .ok (some _) => true | _ => false) = true) ∧
    -- SPAWN: a register of MMIO, the peer window of a core outside the grant, and one whose page is not mapped
    (let s := quiet [(1, 0xFFF000000000), (2, 0x205)]
     Guarded f s ∧ mmioBase ≤ (rd s f f.opa).toNat ∧ (rd s f f.opa).toNat < 2 ^ 48 ∧ sendDescOk (rd s f f.opb) = true) ∧
    ((quiet []).ctx? 1 = some ctx1 ∧ (2 : Nat) ∉ ctx1.grant) ∧ isOk (targetOf (quiet []) (quiet []).here 0) = false := by
  refine ⟨quiet_guarded _ _ (by decide), by decide, by decide, Or.inr (by decide), by decide, by decide, by decide,
    ⟨⟨⟨by decide, by decide⟩, by decide⟩, ?_⟩, by decide, ⟨quiet_guarded _ _ (by decide), by decide, by decide, by decide⟩, by decide, by decide⟩
  unfold MaySend; decide

/-- Channels 0 and 15; an armed channel, a masked one; priority 7 and 8; channel 16. -/
theorem witness_ChannelInstructionsWriteTheEntry :
    let f : Fields := { f0 with dst := .s 4, opa := .s 1, opb := .s 2, mod := 3 }
    let s := quiet [(1, 15), (2, 7)]
    Guarded f s ∧ (rd s f f.opa).toNat = 15 ∧ (rd s f f.opb).toNat < 8 ∧ (rd s f f.opb).toNat / 2 ^ 9 = 0 ∧ (rd s f f.opb).getLsbD 7 = false ∧
    Guarded f (quiet [(1, 16), (2, 8)]) ∧ (Instr.chctl f).wf = true ∧
    -- descriptors of BIND that are illegal
    (0x80#64).getLsbD 7 = true ∧ (0x200#64).toNat / 2 ^ 9 ≠ 0 :=
  ⟨quiet_guarded _ _ (by decide), by decide, by decide, by decide, by decide, quiet_guarded _ _ (by decide), by decide, by decide, by decide⟩

/-- MWIN of 64 in bank 0; in bank 1; a kick register of a queue that the context may kick; the home of a mapped address. -/
theorem witness_WindowQueueAndHomeInstructions :
    let f : Fields := { f0 with imm := 64 }
    Guarded f (quiet []) ∧ (Instr.mwin f).wf = true ∧ (quiet []).here.rb = false ∧ (quiet []).here.cx.mwin = 0 ∧
    (let c := core0 Bank.reset
     let s := with0 { c with cx := { c.cx with b1 := quietBank [] } }
     Guarded f s ∧ s.here.rb = true) ∧
    kickQueue (quiet []) 1 (0xFFF000000000 + 2 * 0x1000) = some 2 ∧ isOk (targetOf (mapped []) (mapped []).here 0) = true ∧
    -- a descriptor of 53 bytes, a queue that is not the context's, addresses that are not mapped and not assigned
    52 < (0x3500#64).toNat / 256 % 64 ∧ kickQueue (quiet []) 1 (0xFFF000000000 + 3 * 0x1000) = none ∧
    translate (quiet []) (quiet []).here 0 = none ∧ isOk (targetOf (quiet []) (quiet []).here 0) = false ∧ rangeOf 0xFFE000000000 = .unassigned := by
  refine ⟨quiet_guarded _ _ (by decide), by decide, by decide, by decide, ⟨⟨⟨by decide, by decide⟩, by decide⟩, by decide⟩, by decide, by decide,
    by decide, by decide, by decide, by decide, by decide⟩

/-- The same fields with s1 as the only base, and no type. -/
def m1 : Fields := { f0 with dst := .s 3, opa := .s 1 }

/-- The fixture may start another access. -/
theorem quiet_ready (rs : List (Fin 64 × W64)) : MemoryReady (quiet rs) := by
  refine ⟨rfl, rfl, ?_, rfl⟩
  show (0 : Nat) < 32
  decide

/-- Own local memory; an address of no memory; a window whose TLB entry is missing; a register of its own debug window. -/
theorem witness_LoadsAndStoresBecomeOutstanding :
    let s := quiet [(1, 0xFF0000000100)]
    let f : Fields := { m1 with typ := .q, dst := .s 62 }
    Guarded f s ∧ MemoryReady s ∧ s.here.waits (pairRegs f.dst true) = false ∧ rangeOf 0xFF0000000100 ≠ .mmio ∧
    isOk (access s s.here .load 0xFF0000000100 16 0) = true ∧ isOk (access s s.here .store 0xFF0000000100 16 0) = true ∧
    isOk (access s s.here .load 0xFF000001FFF8 16 0) = false ∧ isOk (access s s.here .store 0xFF000001FFF8 16 0) = false ∧
    tlbHit s.here 1 0x10000 = none ∧ rangeOf 0xFFF000002000 = .mmio ∧ mmioCheck s 0 false 4 0xFFF000002008 = none ∧
    mmioCheck s 0 true 4 0xFFF000002000 = none ∧
    -- an MMIO access of 2 bytes, and registers that the core may not read or write
    ¬ (Typ.n16.size = 4 ∨ Typ.n16.size = 8) ∧ (mmioCheck s 0 false 8 0xFFF002000000).isSome = true ∧
    (mmioCheck s 0 true 8 0xFFF002000000).isSome = true := by
  refine ⟨quiet_guarded _ _ (by decide), quiet_ready _, ?_, ?_, ?_, ?_, ?_, ?_, ?_, ?_, ?_, ?_, ?_, ?_, ?_⟩ <;> decide

/-- The first word of local memory and the last; a watch of 128 bytes. -/
theorem witness_SynchronisingInstructionsIssue :
    let s := quiet [(1, 0xFF0000000000), (2, 0x45)]
    Guarded { m1 with opb := .s 2 } s ∧ MemoryReady s ∧ isOk (syncAccess s s.here .load (baseAddr s m1)) = true ∧
    isOk (syncAccess s s.here .store 0xFF000001EFF8) = true ∧ watchDescOk 0x45 = true ∧ isOk (access s s.here .watch 0xFF0000000000 128 0) = true ∧
    -- an address of translated memory and a misaligned one; the inbox; a descriptor of size code 5, a misaligned block
    (rangeOf 0x1000 = .translated ∧ 0xFF0000000004 % 8 ≠ 0) ∧ (rangeOf 0xFF000001F000 = .own ∧ isOk (access s s.here .load 0xFF000001F000 8 0) = false ∧
      isOk (access s s.here .store 0xFF000001F000 8 0) = false ∧ isOk (access s s.here .watch 0xFF000001F000 8 0) = false) ∧
    4 < (0x55#64).toNat / 16 % 8 ∧ 0xFF0000000040 % 128 ≠ 0 := by
  refine ⟨quiet_guarded _ _ (by decide), quiet_ready _, ?_, ?_, ?_, ?_, ?_, ?_, ?_, ?_⟩ <;> decide

/-- An aligned word, a 16-byte pair, a misaligned word; AMOM's notification to the context's last core. -/
theorem witness_AtomicsBecomeOutstanding :
    let s := quiet [(1, 0xFF0000000100)]
    let f : Fields := { m1 with typ := .q, dst := .s 2, opb := .s 4, opc := .s 62 }
    Guarded f s ∧ MemoryReady s ∧ isOk (atomicAccess s s.here (baseAddr s m1) 8) = true ∧
    s.here.waits (pairRegs f.dst true ++ pairRegs f.opb true ++ pairRegs f.opc true) = false ∧
    isOk (atomicAccess s s.here (baseAddr3 s f) 16) = true ∧
    (let m : BitVec 32 := 0x0001000E
     m.toNat / 16 % 16 = 0 ∧ m.toNat % 16 ≠ 15 ∧ m.toNat / 65536 < (ncWord s).toNat) ∧
    baseAddr (quiet [(1, 0xFF0000000104)]) { m1 with typ := .s64 } % 8 ≠ 0 ∧ baseAddr3 (quiet [(1, 0xFF0000000108)]) f % 16 ≠ 0 ∧
    (0x00FF0001#32).toNat / 65536 ≤ 0xFFFD ∧ (ncWord s).toNat ≤ (0x00FF0001#32).toNat / 65536 := by
  refine ⟨quiet_guarded _ _ (by decide), quiet_ready _, ?_, ?_, ?_, ?_, ?_, ?_, ?_, ?_⟩ <;> decide

/-- A context whose pages are mapped, with one region of every unit below 2 MiB, held by lc `h`. -/
def held (h : Nat) (mode : RMode) (rs : List (Fin 64 × W64)) : State :=
  { mapped rs with regions := [{ ctx := 1, base := 0, units := 32, mode := mode, holder := h }] }

/-- A mapped and filled frame with data that is not in its block. -/
def frame0 : Frame := { n := 255, va := 0x1000, pa := 0x201000, readOnly := false, filled := true, dirty := true }

/-- DISCARD of two lines and of none; STMAP of frame 255; STSYNC of a frame that nothing stores to. -/
theorem witness_FencesHintsAndFrames :
    let s := held 0 .held [(1, 0x1000), (2, 0x100)]
    Guarded { m1 with opb := .s 2 } s ∧ MemoryReady s ∧
    (match checkParts s s.here .store 128 (linesIn 0x1000 0x100) with | .ok (_ :: _) => true | _ => false) = true ∧ linesIn 0x1001 0x7E = [] ∧
    translate s s.here 0x1000 = some (0x201000, true) ∧ regionCheck s s.here 0x1000 .stmap (akWord .load 256) = none ∧
    frameBusy s s.here 255 = false ∧
    frameStores s.here 255 = false ∧ storeQueueFull s.here = false ∧ (Instr.pref { m1 with dst := .s 0, mod := 1 }).wf = true ∧
    (with0 { core0 (quietBank []) with frames := [frame0] }).here.frames.map Frame.n = [255] := by
  refine ⟨⟨⟨by decide, by decide⟩, by decide⟩, ⟨by decide, by decide, by decide⟩, ?_, ?_, ?_, ?_, ?_, ?_, ?_, ?_, ?_⟩ <;> decide

/-- A region that the core holds, one that is sealed, one that another core holds. -/
theorem witness_CapabilityInstructionsAskTheKeeper :
    let s := held 0 .held [(1, 0x1000), (2, 1)]
    let r : Region := { ctx := 1, base := 0, units := 32, mode := .held, holder := 0 }
    Guarded { m1 with opb := .s 2 } s ∧ s.here.fenced = false ∧ capRegion s s.here 0x1000 = .ok r ∧ giveReason s s.here (capView s.here r) 1 = none ∧
    sealReason s s.here (capView s.here r) = none ∧ giveReason s s.here (capView s.here r) 2 = some 7 ∧
    (let r : Region := { r with mode := .sealed }
     let t := { held 0 .sealed [(1, 0x1000)] with ctxs := [{ ctx1 with authority := [0] }] }
     capRegion t t.here 0x1000 = .ok r ∧ (capView t.here r).mode = .sealed ∧ rmodeReason t t.here (capView t.here r) = none) ∧
    giveReason (held 1 .held []) (held 1 .held []).here { r with holder := 1 } 0 = some 4 ∧ s.det s.here.cx.ctx = false ∧
    netCount s s.here < s.here.netWindow ∧
    s.here.capBefore { newOp s (.claim m1) with addr := r.base } = false := by
  refine ⟨⟨⟨by decide, by decide⟩, by decide⟩, by decide, by rfl, by decide, by decide, by decide, ⟨by rfl, by decide, by decide⟩, by decide, by decide,
    by decide, by decide⟩

/-- The small machine whose vector registers and tiles all carry one tag. -/
def tagged (t : Typ) (rs : List (Fin 64 × W64)) : State :=
  let k := BitVec.ofNat 4 t.code
  let c := core0 { quietBank rs with vtag := Vector.replicate 32 k, otag := Vector.replicate 16 k, lvtag := k }
  with0 { c with cx := { c.cx with tiles := Vector.replicate 8 { Tile.reset with tag := k } } }

def v3 (t : Typ) : Fields := { f0 with typ := t, dst := .v 1, opa := .v 2, opb := .v 3, opc := .v 4 }

/-- The small machine with a full vector queue. -/
def fullVec : State :=
  let k : Cmd := { id := 0, ins := .vadd (v3 .f32), bank := false, task := 1, pc := 0, at_ := 0, addr := 0, a := 0, b := 0, mask := 0, cp := 0, ch := 0
                   ta := 0, tb := 0, tc := 0, td := 0 }
  with0 { core0 (quietBank []) with vec := { EngQ.reset with waiting := [k, k] } }

theorem witness_VectorArithmeticQueues :
    Issues (v3 .f32) (tagged .f32 []) ∧ HasRoom (tagged .f32 []) .vec ∧ anyActive 4 (guardMask (tagged .f32 []).bank (v3 .f32)) = true ∧
    Carries (tagged .f32 []) (.v 2) .f32 ∧ Carries (tagged .t5 []) (.v 2) .t5 ∧ ¬ HasRoom fullVec .vec ∧ Issues (v3 .f32) fullVec ∧
    tagOf (tagged .f32 []).bank (.v 2) = some 11 := by
  refine ⟨⟨by decide, by decide⟩, by unfold HasRoom; decide, by decide, ?_, ?_, by unfold HasRoom; decide, ⟨by decide, by decide⟩, by decide⟩ <;>
    · intro x h; have h := Option.some.inj h; subst h; decide

theorem witness_VectorDataCommandsQueue :
    Issues { v3 .untyped with mod := 1, opa := .a 2 } (tagged .f32 []) ∧ tileTag (tagged .f32 []).here 2 = 11 ∧
    (∀ k ∈ (tagged .f32 []).here.gear.cmds, tileNo (.a 2) ∉ k.gmmTiles) ∧ tagOf (tagged .f32 []).bank (.v 2) = some 11 ∧
    Typ.ofCode 11 = some .f32 ∧ guard0 (tagged .f32 []).bank (v3 .f32) = true ∧ anyActive 1 (guardMask (tagged .f32 []).bank (v3 .s8)) = true ∧
    Issues { v3 .s8 with opa := .zv, opb := .s 1 } (quiet []) ∧ HasRoom (quiet []) .vec ∧ tagOf (quiet []).bank .zv = none ∧
    anyActive 1 (guardMask (quiet []).bank { v3 .s8 with opa := .zv, opb := .s 1 }) = true ∧ tagOf (tagged .s32 []).bank (.v 2) = some 3 := by
  refine ⟨⟨by decide, by decide⟩, by decide, ?_, by decide, by decide, by decide, by decide, ⟨by decide, by decide⟩, by unfold HasRoom; decide,
    by decide, by decide, by decide⟩
  intro k h; cases h

theorem witness_VectorMemoryCommandsQueue :
    let f : Fields := { v3 .f32 with opa := .s 1, opb := .s 2 }
    Issues f (tagged .f32 []) ∧ HasRoom (tagged .f32 []) .vec ∧
    anyActive 4 (guardMask (tagged .f32 []).bank f) = true ∧ Carries (tagged .f32 []) f.dst .f32 := by
  refine ⟨⟨by decide, by decide⟩, by unfold HasRoom; decide, by decide, ?_⟩
  intro x h; have h := Option.some.inj h; subst h; decide

/-- A command of the running task, and the small machine in which an engine holds these commands. -/
def command (i : Instr) : Cmd :=
  { id := 0, ins := i, bank := false, task := 1, pc := 0, at_ := 0, addr := 0, a := 0, b := 0, mask := BitVec.allOnes 128, cp := 0, ch := 0
    ta := 4, tb := 4, tc := 0, td := 0 }
def engine (e : Eng) (q : EngQ) : State := with0 ((core0 { quietBank [] with vown := 1 }).setEng e q)

/-- The parts that checks let through, or none. -/
def partsOk {ε : Type} (r : Except ε (List Part)) : List Part := r.toOption.getD []

/-- A vector store of s32 to local memory, with and without the pool; one to mapped memory, which enters it; elements 0 and 1 of a STVX; a
write of a granule that one part, or four elements, fill. -/
theorem witness_VectorMemoryCommandsQueue_stores :
    (let f : Fields := { v3 .s32 with mod := 1 }
     let k : Cmd := { command (.stv f) with addr := 0xFF0000000104 }
     let s := engine .vec { waiting := [k], run := none }
     (s.core 0).vec.run = none ∧ (s.core 0).vec.waiting = [k] ∧ mayStartCmd (s.core 0) k = true ∧ ((s.core 0).bankOf k.bank).vown = k.task ∧
     (partsOk (checkParts s ((s.core 0).asOf k.id) .engWrite 4 (vecParts ((s.core 0).bankOf k.bank) k f))).length = 32 ∧
     active k.mask 4 31 = true) ∧
    (let f : Fields := { v3 .s32 with mod := 1 }
     let k : Cmd := { command (.stv f) with addr := 0x1000 }
     let s : State := { engine .vec { waiting := [k], run := none } with mem := fetchable.mem, regions := [{ ctx := 1, base := 0, units := 32, mode := .opn, holder := 0 }] }
     ((partsOk (checkParts s ((s.core 0).asOf k.id) .engWrite 4 (vecParts ((s.core 0).bankOf k.bank) k f))).filter fun q => !q.isLocal).length = 32 ∧
     (s.core 0).op? k.id = none) ∧
    (let q (i : Nat) : Part := { va := 0xFF0000000100 + 4 * i, key := localKey 0 (0x100 + 4 * i), len := 4, off := 4 * i, done := false }
     let x : Exec := { mkExec (command (.stv (v3 .s32))) with wr := (List.range 32).map q, out := List.replicate 128 { b := 7, p := false } }
     let s := engine .vec { waiting := [], run := some x }
     x.wr[1]? = some (q 1) ∧ writeParts s (s.core 0) .vec x 1 (q 1) = some [0, 1, 2, 3] ∧ toSend s (s.core 0) x.wr [0, 1, 2, 3] = false ∧
     s.det 1 = false ∧ s.memOk = true ∧ hostGone s (q 3).key = false ∧ overlap (q 0) (q 1) = false) := by
  refine ⟨?_, ?_, ?_⟩ <;> decide +kernel

theorem witness_VectorCountsWriteRegisters :
    Guarded { f0 with typ := .t5, dst := .s 3, mod := 3, opa := .p 1 } (quiet []) ∧ (Instr.vlen { f0 with typ := .t5, dst := .s 3 }).wf = true :=
  ⟨quiet_guarded _ _ (by decide), by decide⟩

/-- A vector command of task 1 whose element work is over. -/
def runningVec (i : Instr) : Exec :=
  mkExec (command i)

/-- The small machine in which it runs, on registers that serve its task. -/
def ending (i : Instr) : State :=
  with0 { core0 { quietBank [] with vown := 1, v := (Vector.replicate 32 0).set 2 7 } with vec := { waiting := [], run := some (runningVec i) } }

/-- Sums of integers, of FP numbers and of residues; a load that has read 128 bytes. -/
theorem witness_VectorElementResults :
    (∀ t ∈ [Typ.s32, .f32, .tm24], AtVectorEnd (ending (.vadd (v3 t))) 0 (runningVec (.vadd (v3 t))) (v3 t)) ∧
    Typ.s32.isInt = true ∧ Typ.f32.isFp = true ∧
    (let x : Exec := { runningVec (.ldv (v3 .s8)) with got := List.replicate 128 { b := 1, p := false } }
     let s := with0 { (ending (.ldv (v3 .s8))).here with vec := { waiting := [], run := some x } }
     AtVectorEnd s 0 x (v3 .s8) ∧ x.got.length = 128) := by
  unfold AtVectorEnd; decide +kernel

/-- A VSEL, a VMOV of a register and of a row, a VCMP of integers into p4; a container that is not canonical. -/
theorem witness_VectorSelectionResults :
    AtVectorEnd (ending (.vsel (v3 .untyped))) 0 (runningVec (.vsel (v3 .untyped))) (v3 .untyped) ∧ (v3 .untyped).mod = 0 ∧
    (let f : Fields := { v3 .untyped with mod := 1, opa := .a 2 }
     AtVectorEnd (ending (.vmov f)) 0 (runningVec (.vmov f)) f ∧ f.mod ≠ 0) ∧
    (let f : Fields := { v3 .s32 with dst := .p 4, mod := 5 }
     AtVectorEnd (ending (.vcmp f)) 0 (runningVec (.vcmp f)) f ∧ f.typ.isInt = true ∧ f.mod.val < 6) ∧
    movedElem .tm24 0xAAFFFFFF = 0x0200FF := by
  unfold AtVectorEnd; decide

/-- A sum of s16, a conversion of f32 (tag 11), a PACK5T of the last part; a scan of f16. -/
theorem witness_VectorReductionAndConversionResults :
    (let f : Fields := { v3 .s16 with dst := .s 3 }
     AtVectorEnd (ending (.vred f)) 0 (runningVec (.vred f)) f ∧ f.typ.isInt = true ∧ f.mod = 0 ∧ f.sat = false) ∧
    (let f : Fields := { v3 .f16 with mod := 6 }
     AtVectorEnd (ending (.vscan f)) 0 (runningVec (.vscan f)) f ∧ f.typ.isFp = true ∧ f.mod.val % 4 ≤ 2) ∧
    (let s := with0 { (ending (.vcvt (v3 .s8))).here with cx := (tagged .f32 []).here.cx, vec := { waiting := [], run := some (runningVec (.vcvt (v3 .s8))) } }
     let s := with0 { s.here with cx := { s.here.cx with b0 := { s.here.cx.b0 with vown := 1 } } }
     AtVectorEnd s 0 (runningVec (.vcvt (v3 .s8))) (v3 .s8) ∧ (tagOf ((s.core 0).bankOf false) (v3 .s8).opa).isSome = true) ∧
    (let f : Fields := { v3 .untyped with mod := 4 }
     AtVectorEnd (ending (.pack5t f)) 0 (runningVec (.pack5t f)) f ∧ f.mod.val ≤ 4) ∧ (200 : Nat) < 2 ^ (8 * Typ.s8.size) := by
  unfold AtVectorEnd; decide

/-- A descriptor and a list in local memory; a descriptor that is not aligned; a list that is not. -/
theorem witness_ShuttleCommandsQueue :
    let f : Fields := { m1 with opb := .s 2, typ := .q }
    Guarded f (quiet [(1, 0xFF000001EFE0), (2, 0xFF0000000010)]) ∧ HasRoom (quiet []) .shu ∧
    (0xFF000001EFE0 % 32 = 0 ∧ ownRange 0xFF000001EFE0 32 = true) ∧ (0xFF0000000010 % 16 = 0 ∧ ownRange 0xFF0000000010 16 = true) ∧
    ¬ (0xFF0000000010 % 32 = 0 ∧ ownRange 0xFF0000000010 32 = true) ∧ ¬ (0xFF0000000012 % 4 = 0 ∧ ownRange 0xFF0000000012 4 = true) ∧
    (quiet []).here.waits (pairRegs (.s 2) true) = false ∧ (0xFF0000000018 % 16 ≠ 0 ∧ ownRange 0xFF000001F000 16 = false) ∧
    -- commands that CPYC cancels: one that waits, one that waits on its flag, one that ends
    (let k : Cmd := { (runningVec (.cpyl { m1 with mod := 1 })).cmd with id := 5 }
     k.bank = (quiet []).here.rb ∧ k.tok = .s 3 ∧ k.task = (quiet []).bank.task.serial ∧
     ∀ ph ∈ [Phase.running, .waitFlag, .ending], ∃ y : Exec, y.cmd = k ∧ y.phase = ph) := by
  refine ⟨quiet_guarded _ _ (by decide), by unfold HasRoom; decide, ?_, ?_, ?_, ?_, ?_, ?_, by decide, by decide, by decide, ?_⟩
  case refine_7 => exact fun ph _ => ⟨{ mkExec { (runningVec (.cpyl { m1 with mod := 1 })).cmd with id := 5 } with phase := ph }, rfl, rfl⟩
  all_goals decide

/-- A copy of two rows of 16 bytes, from 0x200 and 0x300 to 0x400 and 0x410, by its descriptor at 0x40 of local memory; as it starts, and
with row 0 open, not read and read. -/
def rows2 (q : EngQ) : State :=
  let w (a n v : Nat) (m : List (Nat × Byte)) := writeWord m (localKey 0 a) n v
  { engine .shu q with mem := w 0x40 8 (0xFF0000000200 + 15 * 2 ^ 48) (w 0x48 8 (0xFF0000000400 + 2 ^ 48) (w 0x50 8 (0x100 + 0x10 * 2 ^ 32)
      (w 0x80 8 0xFFFFFFFF00000001 (w 0x300 1 9 [])))) }
def copy (i : Instr) : Cmd := { command i with addr := 0xFF0000000040, b := 0xFF0000000080 }
def copying (i : Instr) (row : Nat) (rd wr : Bool) : Exec :=
  { mkExec (copy i) with
    desc := [0x000FFF0000000200, 0x0001FF0000000400, 0x0000001000000100, 0], rows := 2, planes := 1, row := row, moved := 16 * row
    rd := if row = 0 then [] else [{ va := 0xFF0000000200, key := localKey 0 0x200, len := 16, off := 0, done := rd }]
    wr := if row = 0 then [] else [{ va := 0xFF0000000400, key := localKey 0 0x400, len := 16, off := 0, done := wr }]
    got := if row = 0 then [] else List.replicate 16 { b := 5, p := false } }

theorem witness_ShuttleCommandsQueue_copies :
    (let f : Fields := { f0 with dst := .s 3 }
     ∀ i ∈ [Instr.cpy f, .cpyg f, .cpyx f], let s := rows2 { waiting := [copy i], run := none }
     (s.core 0).shu.run = none ∧ (s.core 0).shu.waiting = [copy i] ∧ mayStartCmd (s.core 0) (copy i) = true ∧
     (let u := s.setCore ((s.core 0).setEng .shu { waiting := [], run := none })
      ((engReadAll u (u.core 0) 0 (partsOk (access u ((u.core 0).asOf 0) .engRead 0xFF0000000040 32 0))).map fun bs =>
        descOk i (wordsOfBytes (consume bs)) 0xFF0000000080) = some true)) ∧
    (let f : Fields := { f0 with dst := .s 3 }
     ∀ i ∈ [Instr.cpy f, .cpyg f, .cpyx f], ∀ row < 2, let x := copying i row true true
     let s := rows2 { waiting := [], run := some x }
     x.phase = .running ∧ x.fault = none ∧ x.token = none ∧ x.row < x.rows * x.planes ∧
     checkedParts s ((s.core 0).asOf 0) .engRead 0xFF0000000300 16 (16 * row) ≠ ([], none) ∧
     (checkedParts s ((s.core 0).asOf 0) .engWrite 0xFF0000000410 16 (16 * row)).2 = none ∧
     ((readIndex s (s.core 0) x).map fun y => y.1.toOption) = some (some (if row = 0 then 1 else 0xFFFFFFFF))) ∧
    (let i := Instr.cpy { f0 with dst := .s 3 }
     (let x := copying i 1 false false
      let s := rows2 { waiting := [], run := some x }
      (x.rd[0]?).map (fun q => !q.done && shuMayRead (s.core 0) x q && !hostGone s q.key && (engRead s (s.core 0) 0 q).isSome) = some true ∧
      toSend s (s.core 0) x.rd [0] = false) ∧
     (let x := copying i 1 true false
      let s := rows2 { waiting := [], run := some x }
      (x.wr[0]?).map (fun q => !q.done && writeParts s (s.core 0) .shu x 0 q == some [0] && decide (q.off + q.len ≤ x.got.length)) = some true ∧
      toSend s (s.core 0) x.wr [0] = false ∧ s.det 1 = false ∧ s.memOk = true) ∧
     -- a far part of a non-temporal copy
     (let q : Part := { va := 0x1000, key := 0x201000, len := 16, off := 0, done := false }
      let x : Exec := { copying i 1 true false with desc := [0x000FFF0000000200, 0x2001FF0000000400, 0x0000001000000100, 0], wr := [q] }
      let s := rows2 { waiting := [], run := some x }
      writeParts s (s.core 0) .shu x 0 q = some [0] ∧ ((x.desc.getD 1 0).getLsbD 61 && !q.isLocal) = true ∧ (s.core 0).op? 0 = none)) := by
  refine ⟨?_, ?_, ?_⟩ <;> decide +kernel

theorem witness_ArrayCommandsQueue :
    let s := tagged .f32 [(1, 0xFF0000000000), (2, 128)]
    Guarded { m1 with opb := .s 2 } s ∧ HasRoom s .weft ∧ HasRoom s .gear ∧
    ownRange 0xFF0000000000 8192 = true ∧ ¬ (ownRange 0xFF0000000040 8192 = true ∧ 0xFF0000000040 % 128 = 0) ∧
    gearOperand (.gbld { m1 with typ := .f32 }) 4 0xFF0000000000 128 = none ∧
    (gearOperand (.gbld { m1 with typ := .f32 }) 4 0xFF0000000002 128).isSome = true ∧
    gearOperand (.gmm { m1 with typ := .f32, dst := .a 7 }) 4 0xFF0000000000 128 = none ∧ tileTag s.here 7 = 11 ∧
    tileTag (tagged .f64 []).here 6 = 12 ∧ tileTag (tagged .f64 []).here 7 = 12 ∧ s.here.gear.cmds = [] ∧ s.here.draining = false ∧
    (tileTag s.here 2).toNat ≠ Typ.code .f64 ∧ 1024 ≤ ((quiet [(2, 1024)]).bank.rs 2).toNat ∧
    -- a GMM of tile 1 is queued
    (let k : Cmd := (runningVec (.gmm { m1 with typ := .f32, dst := .a 1 })).cmd
     let t := with0 { s.here with gear := { waiting := [k], run := none } }
     Guarded { m1 with opb := .s 2 } t ∧ t.here.gear.cmds = [k] ∧ tileNo (.a 1) ∈ k.gmmTiles) := by
  refine ⟨⟨⟨by decide, by decide⟩, by decide⟩, by unfold HasRoom; decide, by unfold HasRoom; decide, ?_, ?_, ?_, ?_, ?_, ?_, ?_, ?_, ?_, ?_, ?_, ?_,
    ⟨⟨by decide, by decide⟩, by decide⟩, ?_, ?_⟩ <;> decide

/-- An offer of 32 bytes on port 63; one of 33; a plain descriptor; an image. -/
theorem witness_HeddleInstructionsSendRequests :
    let f : Fields := { f0 with dst := .s 4, opa := .s 1, opb := .s 2 }
    let s := quiet [(1, 0xFF0000002000), (2, 0x203F)]
    Guarded f s ∧ MaySend s ∧ s.here.waits (sRange (regNo f.dst) 4) = false ∧
    ((0x203F : W64).toNat / 2 ^ 20 % 2 ^ 28 = 0 ∧ (0x203F : W64).toNat / 2 ^ 14 % 4 = 0 ∧ (0x203F : W64).toNat / 256 % 64 = 32) ∧ (0x213F : W64).toNat / 256 % 64 = 33 ∧
    (0x3F : W64).toNat / 256 % 64 = 0 ∧ MemoryReady s ∧ isOk (access s s.here .load 0xFF0000002000 8192 0) = true ∧
    -- port 64; a channel 15 and a bit of PBIND and PSTAT that must be 0; an image that runs past local memory
    64 ≤ (0x40 : W64).toNat ∧ (0xF05 : W64).toNat / 2 ^ 8 % 16 = 15 ∧ (0x45 : W64).toNat / 2 ^ 6 % 2 ≠ 0 ∧ 0xFF000001E000 % 64 = 0 ∧
    isOk (access s s.here .load 0xFF000001E000 8192 0) = false := by
  refine ⟨⟨⟨by decide, by decide⟩, by decide⟩, Or.inr (by decide), ?_, ?_, ?_, ?_, ⟨by decide, by decide, by decide, by decide⟩, ?_, ?_, ?_, ?_, ?_, ?_⟩ <;>
    decide +kernel

/-- Groups 1, 4095 and 4096; a descriptor in local memory, and one that is not aligned. -/
theorem witness_CollectiveInstructionsSendRequests :
    let f : Fields := { f0 with opa := .s 1, opb := .s 2, imm := 14 }
    let s := quiet [(1, 4095), (2, 0xFF0000000020)]
    Guarded f s ∧ MaySend s ∧ (rd s f f.opa).toNat ≤ 4095 ∧ s.here.fenced = false ∧ (rd s f f.opb).toNat % 32 = 0 ∧
    ownRange 0xFF0000000020 32 = true ∧
    (match access s s.here .load 0xFF0000000020 32 0 with | .ok ps => (readAtIssue s ps).isSome && !netFull s s.here ps | _ => false) = true ∧
    Guarded f (quiet [(1, 4096)]) ∧ 4095 < (rd (quiet [(1, 4096)]) f f.opa).toNat ∧ 0xFF0000000024 % 32 ≠ 0 := by
  refine ⟨quiet_guarded _ _ (by decide), Or.inr (by decide), by decide, by decide, by decide, by decide, by decide, quiet_guarded _ _ (by decide),
    by decide, by decide⟩

/-- Original code; code below 2^47 that is mapped and not mapped; counters 6 and 7; a uniform block to look up. -/
theorem witness_SpecialiserInstructionResults :
    let f : Fields := { f0 with dst := .s 4, opa := .s 1, opb := .s 2 }
    let s := held 0 .held [(1, 0x1000), (2, 0x2000)]
    Guarded f s ∧ (originOf s s.here s.bank.pc).residual = false ∧ (translate s s.here 0x1000).isSome = true ∧ s.here.released s.here.nextId = true ∧
    translate s s.here 0x400000 = none ∧ dieOf s.here.phys < 8 ∧ MemoryReady s ∧ isOk (access s s.here .load 0x2000 256 0) = true := by
  refine ⟨⟨⟨by decide, by decide⟩, by decide⟩, by decide, by decide, by decide, by decide, by decide, ⟨by decide, by decide, by decide⟩, by decide⟩

/-! Events. -/

/-- The small machine after a precise fault of another kind than a format fault: frozen, with its packet to send. -/
def frozen : State := raise (quiet []) { cause := 7, s5 := 1, s6 := 2, s7 := 3 }

/-- A fault that an engine has reported. -/
def report : Deferred :=
  { id := 0, behind := false, info := { cause := 9, s5 := 1, s6 := 2, s7 := 3 }, bank := false, task := 1, ch := 0, pc := 0, retired := 0, eng := none }

theorem witness_FaultAndDebugEvents :
    let s := frozen
    let z := (s.core 0).cx.frz
    z.toSend.isSome = true ∧ s.det 1 = false ∧ s.dead 1 = false ∧ packetTarget s (s.core 0).cx = some 1 ∧ s.physOf 1 0 = some 0 ∧
    debugRight s .firmware true 0 0xF008 = true ∧ windowCtx s 0 .firmware = 1 ∧ z.frozen = true ∧ z.accepted = none ∧ z.kind = .other ∧ z.eng = none ∧
    ((s.core 0).bankOf z.bank).task.live = true ∧ ((s.core 0).bankOf z.bank).task.serial = z.task ∧ ((s.core 0).bankOf z.bank).pc = z.imagePc ∧
    stopAt s (s.core 0) z.imagePc = false ∧
    (let c := core0 (quietBank [])
     let t := with0 { c with cx := { c.cx with frz := { c.cx.frz with queue := [report] } } }
     (t.core 0).cx.frz.frozen = false ∧ t.alive 1 = true ∧ (t.core 0).cx.frz.queue = [report]) ∧
    debugRight (quiet []) .firmware true 0 0xF800 = true ∧ debugRight (quiet []) .firmware true 0 0xF850 = true ∧
    debugRight (quiet []) .firmware true 0 0xF870 = true ∧ (quiet []).here.loupe.stopped = false ∧
    (with0 { core0 (quietBank []) with loupe := { Loupe.reset with stopped := true } }).here.loupe.stopped = true := by
  refine ⟨?_, ?_, ?_, ?_, ?_, ?_, ?_, ?_, ?_, ?_, ?_, ?_, ?_, ?_, ?_, ⟨?_, ?_, ?_⟩, ?_, ?_, ?_, ?_, ?_⟩ <;> decide

/-- Every kind of freeze at an image PC as it was, one whose image has another PC, a core that the loupe has stopped, and freed. -/
theorem witness_FaultAndDebugEvents_kinds :
    (∀ k ∈ [FreezeKind.lookahead, .fpEvent, .trapBrk, .deferred, .other], ∀ last ∈ [true, false],
      let c := frozen.core 0
      let s := frozen.setCore { c with cx := { c.cx with frz := { c.cx.frz with kind := k, stopAfter := last } } }
      let z := (s.core 0).cx.frz
      z.frozen = true ∧ z.accepted = none ∧ z.eng = none ∧ z.kind = k ∧ z.stopAfter = last ∧ ((s.core 0).bankOf z.bank).pc = z.imagePc ∧
      ((s.core 0).bankOf z.bank).task.live = true ∧ ((s.core 0).bankOf z.bank).task.serial = z.task ∧ (s.core 0).loupe.stopped = false) ∧
    (let c := frozen.core 0
     let s := frozen.setCore { c with cx := { c.cx with frz := { c.cx.frz with imagePc := 0 } } }
     ((s.core 0).bankOf (s.core 0).cx.frz.bank).pc ≠ (s.core 0).cx.frz.imagePc) ∧
    (∀ freed ∈ [true, false], let c := frozen.core 0
     let s := frozen.setCore { c with loupe := { c.loupe with stopped := true, freed := freed } }
     (s.core 0).loupe.stopped = true ∧ (s.core 0).loupe.freed = freed ∧ debugRight s .firmware true 0 0xF008 = true ∧ (s.core 0).cx.frz.accepted = none) ∧
    (let c := frozen.core 0
     let s := frozen.setCore { c with cx := { c.cx with frz := { c.cx.frz with refused := true, again := 0 } } }
     (s.core 0).cx.frz.refused = true ∧ (s.core 0).cx.frz.again ≤ s.cc) := by
  refine ⟨?_, ?_, ?_, ?_⟩ <;> decide

/-- A message of lc1 on a channel to lc0. -/
def note (ch : BitVec 4) : Flight :=
  { ctx := 1, dst := 0, src := .core 1, held := { launch := none, msg := mkMsg 0 8 ch 0 1 (payload 5 6 7) } }

/-- The small machine, idle, with these slots and with ch3 armed at a priority. -/
def idle (prio : Nat) (slots : List Slot) : State :=
  let c := core0 Bank.reset
  with0 { c with cx := { c.cx with chans := c.cx.chans.set 3 (chanEntry 1 prio 0x40), slots := slots } }

theorem witness_MessageAndTaskEvents :
    (let s : State := { idle 5 [] with flights := [note 3] }
     s.flights[0]? = some (note 3) ∧ mayArrive s 0 (note 3) = true ∧ s.physOf 1 0 = some 0 ∧ imageOf (s.core 0) 1 = some (s.core 0).cx ∧
     freeSlot (s.core 0).cx false = some 0) ∧
    (let x := (core0 Bank.reset).cx
     let full : CtxCore := { x with slots := (List.range 64).map fun n => { n := n, held := (note 3).held }, overflow := List.replicate 1024 (note 3).held }
     placeMsg 0 full (note 3).held = none ∧ (core0 Bank.reset).overflowed 1 = 0) ∧ (note 3).held.msg.kind ∉ [2#4, 9#4, 10#4] ∧
     (note 3).held.msg.sender.toNat < 0xFFFE ∧
    (let s : State := { idle 5 [] with kept := [note 3] }
     s.kept[0]? = some (note 3) ∧ (note 3).again ≤ s.cc ∧ s.remote 1 0 = false ∧ s.det 1 = false ∧
     (deliver { s with kept := [] } (note 3)).isSome = true ∧
     s.cc < ({ note 3 with again := 1 } : Flight).again ∧
     (let x := (core0 Bank.reset).cx
      let full : CtxCore := { x with slots := (List.range 64).map fun n => { n := n, held := (note 3).held }, overflow := List.replicate 1024 (note 3).held }
      deliver (with0 { core0 Bank.reset with cx := full }) (note 3) = none)) ∧
    (let e : Sending := { id := 0, out := .msg 1 (note 3).held.msg }
     let s := with0 { core0 (quietBank []) with sending := [e] }
     (s.core 0).sending[0]? = some e ∧ e.out.isRelease = true ∧ (s.core 0).released 0 = true) ∧
    (let s := idle 5 [{ n := 0, held := (note 3).held }]
     mayStart s (s.core 0) = true ∧ (s.core 0).cx.choose true = some (3, 5)) ∧
    (let s := idle 2 [{ n := 0, held := (note 3).held }]
     mayStart s (s.core 0) = true ∧ (s.core 0).cx.choose true = none ∧ (s.core 0).cx.choose false = some (3, 2)) ∧
    (let c := core0 (quietBank [])
     let s := with0 { c with cx := { c.cx with chans := c.cx.chans.set 3 (chanEntry 1 7 0x40), slots := [{ n := 0, held := (note 3).held }] } }
     mayStart s (s.core 0) = true ∧ (s.core 0).cx.choose true = some (3, 7)) ∧
    (let c := core0 (quietBank [])
     (with0 { c with cx := { c.cx with mwin := 1 } }).here.cx.mwin = 1) := by
  refine ⟨⟨by rfl, by decide, by decide, by rfl, by decide⟩, by decide +kernel, ?_, ?_, ?_, ?_, ?_, ?_, ?_, ?_⟩ <;> decide +kernel

/-- The one part of `pendingLoad`. -/
def part8 : Part := { va := 0xFF0000000100, key := localKey 0 0x100, len := 8, off := 0, done := false }

/-- Another operation on the same word. -/
def wordOp (i : Instr) (st : OpSt) (dst : List Reg) : Op :=
  { pendingLoad st dst with ins := i, buf := List.replicate 8 { b := 7, p := false } }

theorem witness_MemoryEvents :
    (let o := pendingLoad .pending [.s 2]
     let s := withOp o
     OnePart s 0 0 o part8 ∧ (s.core 0).mayLoad s o = true ∧
     forward s (s.core 0) false 0 false o.parts part8 = .memory ∧ anyPois (readPart s 0 0 part8) = false) ∧
    (let o : Op := { pendingLoad .done [.s 2] with res := [7] }
     let s := withOp o
     (s.core 0).op? 0 = some o ∧ ((s.core 0).bankOf o.bank).task.serial = o.task) ∧
    (let o := wordOp (.st m1) .pending []
     (withOp o).here.nextStore = some o ∧ o.isRelStore = false ∧ (withOp o).here.relFenced 0 = false ∧ netFull (withOp o) (withOp o).here o.parts = false) ∧
    (let o := wordOp (.st m1) .left []
     o.isStore = true ∧ o.buf.length = part8.len ∧ (withOp o).here.mayApply (withOp o) o part8 = true) ∧
    (let s := withOp (wordOp (.watch m1) .pending [])
     s.here.acquired 0 = true ∧ s.here.opsBefore 0 = [] ∧ (s.watches.filter fun w => w.mine s.here.cx) = []) ∧
    (let q : Part := { part8 with va := 0x1000, key := 0x200000 }
     let o : Op := { wordOp (.st { m1 with typ := .n64, mod := 1 }) .pending [] with parts := [q] }
     let s := withOp o
     OnePart s 0 0 o q ∧ o.isNt = true ∧ s.here.acquired 0 = true ∧ toSend s s.here o.parts [0] = true ∧ netFull s s.here o.parts = false ∧
     (let r := { q with sent := true }
      toSend s s.here [r] [0] = false)) ∧
    (let o := wordOp (.fence f0) .pending []
     (withOp o).here.fenceReady o = true) ∧ (withOp (wordOp (.ntdrain f0) .pending [])).here.ntdrained 0 = true ∧
    (let o := wordOp (.sealCap m1) .pending []
     (withOp o).here.released 0 = true ∧ (withOp o).here.capBefore o = false ∧ o.collected = false) := by
  unfold OnePart
  refine ⟨?_, ?_, ?_, ?_, ?_, ?_, ?_, ?_, ?_⟩ <;> decide

/-- An AMO, a CAS and an AMOM of one word; a SETE that has left; a take of the same word, which is empty. -/
theorem witness_AtomicAndSynchronisingEvents :
    (∀ i ∈ [Instr.amo m1, .cas m1, .amom m1], let o := wordOp i .pending [.s 3]
     OnePart (withOp o) 0 0 o part8 ∧ (withOp o).here.mayApply (withOp o) o part8 = true ∧ (withOp o).here.storesDone 0 = true ∧
     o.collected = false) ∧ (quiet []).watches = [] ∧ (quiet []).dead 1 = false ∧
    (let o := wordOp (.sete m1) .left []
     OnePart (withOp o) 0 0 o part8 ∧ (withOp o).here.mayApply (withOp o) o part8 = true ∧ o.mmio = false) ∧
    (let o : Op := { pendingLoad .pending [.s 3, .p 4] with ins := .ldf { m1 with mod := 1, opb := .p 4 } }
     let s := withOp o
     OnePart s 0 0 o part8 ∧ s.here.mayLoad s o = true ∧ pendingWord s s.here 0 (wordOf 0 o.addr) = false ∧
     forward s s.here false 0 true o.parts part8 = .memory ∧ anyPois (readPart s 0 0 part8) = false) := by
  unfold OnePart
  refine ⟨?_, ?_, ?_, ?_, ?_⟩ <;> decide

/-- Core p of the first train, at a gang GMM in the given phase. -/
def trainCore (ph : Phase) (p : Nat) : Core :=
  let c := { Core.reset p with cx := CtxCore.reset 1 p, gear := { waiting := [], run := some { mkExec (command (.gmm { f0 with typ := .f32, mod := 1, dst := .a 1 })) with phase := ph } } }
  { c with cx := { c.cx with gear := { c.cx.gear with ltag := 11 } } }
def train (ph : Phase) : State := { State.reset with cores := (List.range 8).map (trainCore ph), ctxs := [ctx1], cc := 1048576 }

/-- A CPYL that waits for its flag in local memory. -/
def waitingFlag (tests since : Nat) : Exec :=
  { mkExec { command (.cpyl { f0 with mod := 1, imm := 1, dst := .s 3 }) with b := 0xFF0000000040 } with phase := .waitFlag, tests := tests, since := since }

/-- Core 0 draining row 0 of a store of f32 to its local memory. -/
def draining : State :=
  let c := core0 (quietBank [])
  with0 { c with cx := { c.cx with gear := { c.cx.gear with drain0 := 0x80B0FF0000000000, drain1 := 0x100000000, dhigh := 0 } } }

/-- The weft array or the gear engine executing this, in the small machine. -/
def array (e : Eng) (x : Exec) : State := engine e { waiting := [], run := some x }

/-- A WLOAD that has read its bytes; a WRUN past its last pick; the one read of its pick 0; a WDRAIN, and a write of it. -/
theorem witness_WeftCommandResults :
    (let x := mkExec (command (.wload { m1 with typ := .s8 }))
     ((array .weft x).core 0).weft.run = some x ∧ x.phase = .running ∧ x.partsDone = true) ∧
    (let x := mkExec (command (.wstat { f0 with mod := 1, dst := .s 3 }))
     ((array .weft x).core 0).weft.run = some x ∧ x.partsDone = true ∧ ((array .weft x).here.bankOf x.cmd.bank).task.serial = x.cmd.task) ∧
    64 ≤ ({ mkExec (command (.wrun m1)) with row := 64 } : Exec).row ∧
    (BitVec.ofNat 5 (mkExec (command (.wdrain m1))).moved &&& ((array .weft (mkExec (command (.wdrain m1)))).here.bankOf false).fenable) = 0 ∧
    (let q : Part := { part8 with len := 16 }
     ∀ i ∈ [Instr.wrun m1, .wdrain m1], let x : Exec := { mkExec (command i) with rd := [q], got := List.replicate 16 { b := 0, p := false } }
     let s := array .weft x
     x.rd[0]? = some q ∧ q.done = false ∧ hostGone s q.key = false ∧ toSend s s.here x.rd [0] = false ∧
       (engRead s s.here x.cmd.id q).map (fun bs => (x.takeRead 0 q bs).readsDone) = some true) ∧
    (let q : Part := { part8 with len := 16 }
     let x : Exec := { mkExec (command (.wdrain m1)) with wr := [q], out := List.replicate 16 { b := 7, p := false } }
     let s := array .weft x
     engMayWrite s s.here x.cmd.id q = true ∧ toSend s s.here x.wr [0] = false ∧ s.det 1 = false ∧ s.memOk = true) := by
  refine ⟨?_, ?_, ?_, ?_, ?_, ?_⟩ <;> decide

/-- A GMM whose latch carries its type, and one whose latch does not; a read of an element; a store of one tile. -/
theorem witness_GearCommandResults :
    (let f : Fields := { m1 with typ := .f32, dst := .a 1 }
     let x := mkExec (command (.gmm f))
     let s := array .gear x
     (s.core 0).gear.run = some x ∧ x.phase = .running ∧ x.partsDone = true ∧ x.fault = none ∧ tileNo f.dst < 8 ∧
     s.here.cx.gear.ltag.toNat ≠ Typ.code f.typ ∧ s.here.cx.frz.queue.length < 4 ∧ s.det 1 = false ∧
     (let t := with0 { s.here with cx := { s.here.cx with gear := { s.here.cx.gear with ltag := 11 } } }
      (t.core 0).gear.run = some x ∧ t.here.cx.gear.ltag.toNat = Typ.code f.typ)) ∧
    (let f : Fields := { m1 with typ := .f32, opa := .a 1 }
     let x := mkExec (command (.grd f))
     let s := array .gear x
     f.dst = .s 3 ∧ ((s.core 0).bankOf x.cmd.bank).task.serial = x.cmd.task ∧
     (tileOf s.here.cx (tileNo f.opa)).events &&& ((s.core 0).bankOf false).fenable = 0) ∧
    (let f : Fields := { m1 with typ := .f32, dst := .a 1 }
     let x := mkExec (command (.gst f))
     gstTile x.cmd f x.row < 8 ∧ x.row < 2 ∧ ((array .gear x).here.bankOf x.cmd.bank).fenable = 0) := by
  refine ⟨?_, ?_, ?_⟩ <;> decide

theorem witness_EngineEvents :
    (let k := command (.vadd (v3 .s32))
     let s := engine .vec { waiting := [k], run := none }
     ((s.core 0).eng .vec).waiting = [k] ∧ mayStartCmd (s.core 0) k = true ∧ k.vecMem = none ∧ ((s.core 0).bankOf k.bank).vown = k.task) ∧
    (let x : Exec := { runningVec (.ldv { m1 with typ := .s32, dst := .v 1 }) with rd := [part8] }
     let s := engine .vec { waiting := [], run := some x }
     x.phase = .running ∧ x.rd[0]? = some part8 ∧ mates x.cmd.unitStride x.rd 0 = [0] ∧ (engRead s (s.core 0) x.cmd.id part8).isSome = true ∧
     toSend s (s.core 0) x.rd [0] = false) ∧
    (let q : Part := { part8 with va := 0x1000, key := 0x200000 }
     let s := quiet []
     toSend s s.here [q] [0] = true ∧ netFull s s.here [q] = false) ∧ (runningVec (.vadd (v3 .s32))).partsDone = true ∧
    (let x : Exec := { runningVec (.cpy { f0 with dst := .s 3 }) with phase := .ending, token := some 5 }
     let s := engine .shu { waiting := [], run := some x }
     (∀ o ∈ (s.core 0).ops, o.id ≠ x.cmd.id) ∧ x.fault = none ∧ x.cmd.tok = .s 3 ∧ ((s.core 0).bankOf x.cmd.bank).task.serial = x.cmd.task) ∧
    (let s := engine .shu { waiting := [], run := some (waitingFlag 0 0) }
     (flagTest s 0 (waitingFlag 0 0)).1 = false ∧ 0 < (waitingFlag 0 0).cmd.limit false ∧ s.det 1 = false) ∧
    (let x := waitingFlag 1 0
     x.tests ≠ 0 ∧ x.cmd.fields.mod ≠ 0 ∧ (engine .shu { waiting := [], run := some x }).cc < x.since + 64 * x.tests) ∧
    (let s : State := { engine .shu { waiting := [], run := some (waitingFlag 0 0) } with mem := writeWord [] (localKey 0 0x40) 8 1 }
     (flagTest s 0 (waitingFlag 0 0)).1 = true) ∧
    (let s : State := { engine .shu { waiting := [], run := some (waitingFlag 1 0) } with cc := 1024 }
     (waitingFlag 1 0).since + (waitingFlag 1 0).cmd.limit false ≤ s.cc ∧ (flagTest s 0 (waitingFlag 1 0)).1 = false) ∧
    trainOf 0 = 0 ∧ (∀ q ∈ trainCores 0, gangReady (train .waitTrain) q = true) ∧ gangOver (train .waitTrain) 0 = false ∧
    (∀ q ∈ trainCores 0, ((gangRun ((train .inStep).core q) .inStep).map fun r => r.1.readsDone && (gmmFault ((train .inStep).core q) r.1 r.2).isNone) = some true) ∧
    (∀ q ∈ trainCores 0, ((gangRun ((markReady { train .waitTrain with cc := 0 } q).core q) .waitTrain).map fun r => r.1.tests != 0 && r.1.since + 1048576 ≤ (train .waitTrain).cc) = some true) ∧
    (let c := draining.core 0
     c.draining = true ∧ pendingRows c.cx.gear = [0] ∧
     (match rowParts draining c 0 with | .ok (p :: _) => engMayWrite draining c c.cx.gear.did p && !remotePart draining c p | _ => false) = true) := by
  refine ⟨?_, ?_, ?_, ?_, ?_, ?_, ?_, ?_, ?_, ?_, ?_, ?_, ?_, ?_, ?_⟩ <;> decide

theorem witness_UnitEvents :
    (let g : Region := { ctx := 1, base := 0, units := 32, mode := .held, holder := 0 }
     let r : KReq := { ctx := 1, base := 0, lc := 0, phys := 0, op := 0, ask := .give 1 }
     let s : State := { held 0 .held [] with keepers := [r] }
     s.keepers[0]? = some r ∧ s.regions.find? (fun h => h.ctx == 1 && h.base == 0) = some g ∧ acknowledged s r g = true) ∧
    (let g : Region := { ctx := 1, base := 0, units := 32, mode := .sealed, holder := 0 }
     let r : KReq := { ctx := 1, base := 0, lc := 1, phys := 1, op := 0, ask := .claim }
     acknowledged { held 0 .sealed [] with keepers := [r] } r g = true) ∧
    (let s := mapped []
     tlbHit (s.core 0) 1 0x1000 = none ∧ (s.ctx? 1).isSome = true ∧ walk s 0x10000 0x1000 = some (0, 0x200000, 0x200000, true)) ∧
    (let g : Frame := { n := 255, va := 0x1000, pa := 0x201000, readOnly := false, filled := true, dirty := true }
     (with0 { core0 (quietBank []) with frames := [g] }).here.frames.find? (fun h => h.n == 255) = some g) ∧
    (let w : Walk := { id := 1, ctx := 1, det := false, pc := 0, block := [], versions := [], outcome := none }
     let s : State := { quiet [] with spec := (quiet []).spec.set 7 { SpecDie.reset with walks := [w] } }
     (s.spec[7]).walks[0]? = some w ∧ w.outcome = none) ∧
    (let c := { core0 (quietBank []) with saved := [CtxCore.reset 2 0] }
     let s : State := { with0 c with ctxs := [ctx1, { ctx1 with id := 2 }] }
     (s.core 0).cx.ctx ≠ 2 ∧ s.alive 2 = true ∧ gangCtx s 1 0 = false ∧ gangCtx s 2 0 = false ∧ maySwitch s (s.core 0) = true ∧
     (s.core 0).cx.ctx ≠ noCtx ∧ ((s.core 0).saved.map CtxCore.ctx) = [2] ∧ (CtxCore.reset 2 0).frz.accepted = none) ∧
    (mapped []).walkCache = [] ∧
    (let x : Ctx := { ctx1 with det := true, grant := [0] }
     boundaryReady { with0 (core0 (quietBank [])) with ctxs := [x] } x = false) := by
  refine ⟨⟨by decide, by decide, by decide⟩, by decide, ⟨by decide, by decide, by decide⟩, by decide, ⟨by decide, by decide⟩, ?_, by decide, ?_⟩
  · decide
  · have h : stuck { with0 (core0 (quietBank [])) with ctxs := [{ ctx1 with det := true, grant := [0] }] } 0 = false := by decide +kernel
    simp only [boundaryReady, List.all_cons, h, Bool.and_false, Bool.false_and]

/-- An idle deterministic context of one core. -/
def idleDet : State := { with0 (core0 Bank.reset) with ctxs := [{ ctx1 with det := true, grant := [0] }] }

theorem witness_UnitEvents_boundary : boundaryReady idleDet { ctx1 with det := true, grant := [0] } = true := by
  have h : quietSteps idleDet (coreEvents idleDet 0) = true := by
    refine quietSteps_of fun e h => ?_
    have h : e ∈ [Instr.deferredFaultReport 0, .maskedWindowClose 0, .preemption 0, .taskActivation 0, .storeLeave 0]
        ++ engs.flatMap fun g => [.engineCommandFinish 0 g, .engineCommandStart 0 g] := h
    simp only [engs, List.flatMap_cons, List.flatMap_nil, List.cons_append, List.nil_append, List.append_nil, List.mem_cons, List.not_mem_nil, or_false] at h
    obtain rfl | rfl | rfl | rfl | rfl | rfl | rfl | rfl | rfl | rfl | rfl | rfl | rfl := h <;> rfl
  simp only [boundaryReady, List.all_cons, List.all_nil, Bool.and_true, h]
  decide +kernel

/-- A connector of one input port, one output port and a plain link between them, in slot 0 of unit 0, with lc0 and lc1 at its ends. -/
def linked (fifo : List Offer) : Conn :=
  let port (l : Nat) (q : List Offer) : Port := { holder := some l, ch := 2, fifo := q, taken := [] }
  { slot := 0, ctx := 1, lifts := 0, ports := [port 0 fifo, port 1 fifo], bufs := [[]]
    image := { outs := [true, false], links := [{ kind := 0, n := 0, fop := 0, fp := false, c := 0, src := 0, dst := 1 }], nodes := 0
               rules := [{ ports := 3, entries := 1, exits := 1 }] } }
def offer0 : Offer := { age := 0, lc := 0, tag := 0, data := { bytes := [7], len := 1, typ := 0 } }
def connected (fifo : List Offer) : State :=
  { quiet [] with hunits := [{ n := 0, gens := [(0, 0)], conns := [linked fifo], nextAge := 1 }] }

/-- A request of lc `l` on group 1, and the state with one member, lc0, and this in the group. -/
def ask (l : Nat) (op : COp) : CReq := { ctx := 1, lc := l, group := 1, op := op, typ := .untyped, fn := 0, ch := 2, tag := 0, desc := none }
def grouped (waiting : List CReq) (insts : List Inst) : State :=
  { quiet [] with cc := 16777216, groups := [{ ctx := 1, g := 1, members := [(0, 0, 0)], opened := 0, insts := insts, timedOut := [], waiting := waiting }] }
def inst (reqs : List CReq) : Inst := { n := 0, members := [0], reqs := reqs, since := 0, moved := none, bad := none }

theorem witness_ConnectorAndCollectiveEvents :
    (let r : HReq := { ctx := 1, lc := 0, handle := 0, ask := .put 0 [] }
     let s : State := { connected [] with hreqs := [r] }
     s.hreqs[0]? = some r ∧ ((connOf s 1 0).map fun y => (y.2.port? 0).map fun p => p.holder == some 0 && p.fifo.isEmpty) = some (some true)) ∧
    (let s := connected [offer0]
     (getBy Conn.slot (s.hunit 0).conns 0).map (fun z => (chooseRule z).isSome) = some true ∧ s.det 1 = false) ∧
    (let o : Op := { pendingLoad .pending [.s 2] with ins := .pload m1, parts := [{ part8 with done := true }] }
     (withOp o).here.op? 0 = some o ∧ o.allDone = true ∧ imageOfBytes (o.buf.map PByte.b) = none) ∧
    (let s : State := { grouped [] [] with creqs := [ask 1 .join] }
     s.creqs[0]? = some (ask 1 .join) ∧ (ask 1 .join).op.membership = true) ∧
    (membershipStep (grouped [ask 1 .join] []) 1 1).isSome = true ∧ ((grouped [ask 1 .join] []).group 1 1).member? 1 = none ∧
    (let i := inst [ask 0 .cbar]
     (freeInst (grouped [] [i]) 1 1 0).map Prod.snd = some i ∧ i.complete = true ∧ i.moved = none ∧ (grouped [] [i]).pkg.hold = false) ∧
    (let i := inst [{ ask 0 .cgath with desc := some (16, 0xFF0000000000, 0xFF0000000100) }]
     i.complete = true ∧ i.agrees = true ∧ i.head.op = .cgath ∧
     ((freeInst (grouped [] [i]) 1 1 0).map fun y => ((instMoves (grouped [] [i]) y.1 i i.head).parts.filter fun m => !i.wrote.contains (m.1, m.2.1.va)).length) = some 1) ∧
    (let i := inst []
     (freeInst (grouped [] [i]) 1 1 0).map Prod.snd = some i ∧ i.complete = false ∧ i.since + Config.instanceLimit ≤ (grouped [] [i]).cc) := by
  refine ⟨⟨by decide, by decide⟩, ⟨by decide, by decide⟩, by decide, ⟨by decide, by decide⟩, by decide, by decide, by decide, by decide, by decide⟩

/-- The least body that each type of packet allows. -/
def bodyOf (typ : Nat) : List Byte :=
  match typ with
  | 2 => toBytes 8 (2 ^ 56)
  | 3 => toBytes 12 (2 ^ 64)
  | 5 => [1]
  | _ => []

/-- Queue 2 of context 1 with a ring of 64 slots and one packet held for dispatch, and the one packet of an INDIRECT's buffer. -/
def holds (typ state : Nat) (body : List Byte) : State :=
  { quiet [] with
    pkg := { State.reset.pkg with front := true }
    queues := [{ Queue.reset 2 with
                 cfg := 0x00C0000000010000, ctx := 1, state := state, tail := 1
                 ahead := { path := [0], bytes := packetOf (BitVec.ofNat 8 typ) 0 body } ::
                   if typ = 3 then [{ path := [1, 0], bytes := packetOf 0 0 [] }] else [] }] }
def queued (typ state : Nat) : State := holds typ state (bodyOf typ)

/-- The same, where the context's pages below 2 MiB are mapped and open. -/
def front (typ : Nat) (body : List Byte) : State :=
  { holds typ 1 body with mem := fetchable.mem, regions := [{ ctx := 1, base := 0, units := 32, mode := .opn, holder := 0 }] }

/-- A QSEND that has no slot yet. -/
def qsend0 : QSend := { ctx := 1, lc := 0, queue := 2, typ := 0, len := 0, body := [], slot := none, wrote := [] }

theorem witness_FrontEndEvents_qsend :
    (let s : State := { queued 0 1 with qsends := [qsend0], mem := fetchable.mem, regions := [{ ctx := 1, base := 0, units := 32, mode := .opn, holder := 0 }] }
     s.qsends[0]? = some qsend0 ∧ (∀ d ∈ s.qsends, d.queue = 2 → d.slot = none) ∧ (qsendSlot (s.queue 2) qsend0).map Prod.fst = some 1 ∧
     ((feAccess s 1 .store ((s.queue 2).ringAddr + 64) 64).toOption.map fun ps => ps.map Part.off) = some [0, 16, 32, 48]) ∧
    ((queued 0 0).queue qsend0.queue).state = 0 ∧
    (let s : State := { queued 0 1 with qsends := [{ qsend0 with slot := some (1, 1) }] }
     ∃ e ∈ s.qsends, e.queue = 2 ∧ e.slot.isSome = true) ∧
    -- a write of the host that is under way
    (let o : HostOp := { write := true, mmio := false, parts := [], buf := [] }
     ∃ d ∈ ({ queued 0 1 with pkg := { State.reset.pkg with front := true, hostOps := [o] } } : State).pkg.hostOps, d.write = true) ∧
    (let s := holds 11 1 []
     (judgeHeld s (s.queue 2)).isSome = true ∧ (s.queue 2).running s = true) := by
  refine ⟨⟨?_, ?_, ?_, ?_⟩, ?_, ⟨_, List.mem_cons_self .., rfl, rfl⟩, ⟨_, List.mem_cons_self .., rfl⟩, ?_⟩ <;> decide +kernel

theorem witness_FrontEndEvents :
    (∀ typ < 11, (mayDispatch (queued typ 1) 2).map (fun d => pfield d 0 1) = some typ) ∧ ((queued 0 1).queue 2).slots = 64 ∧
    (let s : State := { queued 0 1 with queues := [{ (queued 0 1).queue 2 with ahead := [] }] }
     (s.queue 2).running s = true ∧ (s.queue 2).wants = some ([0], 0x10000, true) ∧ (s.queue 2).path = [0] ∧ (s.queue 2).retrying = false ∧
     ({ s.queue 2 with tries := 1 } : Queue).retrying = true) ∧
    (let l : Launch := { id := 1, queue := 2, pkt := 1, ctx := 1, dst := 0, pc := 0, block := [], msg := (note 3).held.msg, bounced := true, ended := true, phys := 0, upTo := 0 }
     let s : State := { queued 0 1 with launches := [l] }
     dueLaunch s 2 = some l ∧ dueLaunch { s with launches := [{ l with again := 1 }] } 2 = none ∧ s.det 1 = false ∧ s.dead 1 = false ∧
     taskQuiet s l = true) ∧
    ((queued 0 2).queue 2).state = 2 ∧ ((queued 0 0).queue 2).state = 0 ∧ qcfgOk 0x0140000000001000 = true ∧ qcfgOk 0x00B0000000001000 = false := by
  refine ⟨by decide +kernel, by decide, ⟨by decide, by decide, by decide, by decide, by decide⟩, ⟨by decide, by decide, by decide, by decide, by decide⟩, by decide, by decide, by decide, by decide⟩

/-- Each type of packet at the head of its ring. -/
theorem witness_PacketsDoWhatTheirTypesSay : ∀ typ < 11, AtPacket (queued typ 1) 2 (packetOf (BitVec.ofNat 8 typ) 0 (bodyOf typ)) typ := by
  unfold AtPacket; decide +kernel

/-- An entry that a launch of PC 0 with no block hits. -/
def entry0 : SpecEntry :=
  { ctx := 1, det := false, pc := 0, block := List.replicate 256 0, version := 0, refused := false, stale := false, line := 1, lines := 1, regions := [], units := [], hit := 0 }

/-- A target that is mapped, one that is not, one of MMIO; the entry; an INDIRECT two deep; a range of two and of none; a DEAD queue. -/
theorem witness_PacketsDoWhatTheirTypesSay_launch :
    (launchTarget (front 1 []) 1 0).toOption = some (some 0) ∧ isOk (launchTarget (queued 1 1) 1 0) = false ∧
    (launchTarget (queued 1 1) 1 0xFFF000000000).toOption = some none ∧
    (let s : State := { front 1 [] with spec := (quiet []).spec.set 0 { SpecDie.reset with entries := [entry0] } }
     dieOfLc s 1 0 = 0 ∧ specFind s 0 1 0 (List.replicate 256 0) = some entry0) ∧
    rangeCount (packetOf 2 0 (bodyOf 2)) = 0 ∧ 0 < bodyField (packetOf 3 0 (bodyOf 3)) 8 4 ∧
    (let q := (queued 3 1).queue 2
     let s := (queued 3 1).setQueue { q with nest := [q.ring, q.ring], ahead := [{ path := [0, 1, 1], bytes := packetOf 3 0 (bodyOf 3) }] }
     (s.queue 2).nest.length = 2) ∧
    (∀ typ < 3, ((queued typ 4).queue 2).packet (queued typ 4) = some (packetOf (BitVec.ofNat 8 typ) 0 (bodyOf typ))) ∧
    -- launches that reach the dispatcher in the cc in which their queue is DEAD, and later
    (∀ typ ∈ [1, 2], let q := { (queued typ 4).queue 2 with late := some (0, true) }
     let s := (queued typ 4).setQueue q
     (s.queue 2).late = some (s.cc, true) ∧ lookDone (s.queue 2) = true ∧ (s.queue 2).state = 4 ∧ (queued typ 4).cc = 0) ∧ ((queued 1 4).queue 2).late = none := by
  refine ⟨?_, ?_, ?_, ⟨?_, ?_⟩, ?_, ?_, ?_, ?_, ?_, ?_⟩ <;> decide +kernel

/-- A condition that holds, one that does not, an address that is not mapped; a body in its ring; a store and an add to an open word. -/
theorem witness_PacketsDoWhatTheirTypesSay_data :
    (let test (s : State) (d : List Byte) : Option Bool := match condHolds s 1 d with | .ok (_, b) => some b | .error _ => none
     test (front 4 []) (packetOf 4 0 []) = some true ∧ test (front 6 []) (packetOf 6 0 (toBytes 16 (2 ^ 64))) = some false ∧
     test (queued 6 1) (packetOf 6 0 []) = none) ∧
    ((queued 4 1).queue 2).path = [0] ∧ ((queued 4 1).queue 2).ahead.map Fetched.path = [[0]] ∧
    loopBad ((queued 5 1).queue 2) 1 = false ∧ loopBad { (queued 5 1).queue 2 with nest := [((queued 5 1).queue 2).ring] } 1 = true ∧
    (∀ k ∈ [AK.store, AK.atomic], (feAccess (front 7 []) 1 k 0 8).toOption.map (·.map fun p => (p.off, p.len, hostGone (front 7 []) p.key)) = some [(0, 8, false)]) ∧
    isOk (feAccess (queued 7 1) 1 .store 0 8) = false := by
  refine ⟨⟨?_, ?_, ?_⟩, ?_, ?_, ?_, ?_, ?_, ?_⟩ <;> decide +kernel

/-- A CONNECT that names no core, one that names lc0, and its image of zeros once all of it has been read: no image. -/
theorem witness_PacketsDoWhatTheirTypesSay_connect :
    (quiet []).physOf 1 2 = none ∧ (front 10 []).physOf 1 0 = some 0 ∧
    (let s := (front 10 []).setQueue { (front 10 []).queue 2 with part := some ([0, 0], (List.range 512).map fun i => (16 * i, List.replicate 16 0)) }
     match access s (coreAs (s.core 0) 1) .load 0 8192 0 with
     | .error _ => false
     | .ok ps => match readOn s 2 [0, 0] (ps.map fun r => { r with key := keyAs s 1 r.key }) with
       | .done _ bs => (imageOfBytes bs).isNone
       | _ => false) = true := by
  refine ⟨by decide, by decide, by decide +kernel⟩

/-- Some identifier is free after reset, whichever the driver takes. -/
theorem witness_DriverAndHostEvents_id : (freeCtxId State.reset).isSome = true := by
  unfold freeCtxId
  rw [List.find?_isSome]
  exact ⟨_, List.mem_map.mpr ⟨0, by simp, rfl⟩, rfl⟩

/-- A record at 64 that grants core 0 alone, with its list at 1,024: nothing else in it is set. -/
def record0 : State := { State.reset with mem := writeWord [] 80 8 (2 ^ 48 + 1024) }

theorem witness_DriverAndHostEvents_create : ∃ x regs, recordCtx record0 64 5 = some (x, regs) ∧ (∀ p ∈ x.grant, grantsOf record0 p < 5) ∧
    keepersFit record0 x.root regs = true := by
  refine ⟨_, _, rfl, ?_, ?_⟩
  · intro p h; cases h with
    | head => decide
    | tail _ h => cases h
  · show keepersFit record0 0 [coreTableRegion 5 1] = true
    unfold keepersFit
    cases h : keeperOf record0 0 (coreTableRegion 5 1).base <;> simp [h, show record0.regions = [] from rfl]

/-- A package whose front end runs, and one whose front end does not. -/
theorem witness_DriverAndHostEvents_front : (quiet []).pkg.front = false ∧ (queued 0 1).pkg.front = true ∧
    (freeCtxId { State.reset with pkg := { State.reset.pkg with front := true } }).isSome = (freeCtxId State.reset).isSome := by
  refine ⟨by decide, by decide, by rfl⟩

theorem witness_DriverAndHostEvents :
    recordCtx State.reset 64 5 = none ∧ (quiet []).ctx? 1 = some ctx1 ∧ ctx1.dead = none ∧ ctx1.dying = none ∧ ctx1.dumpFirst = false ∧
    (∀ c ∈ (quiet []).cores, shootQuiet { ctx := 1, page := 0, count := 1 } c = true) ∧ (mmioShape 0xFFF010000010 8 = true ∧ mmioRight State.reset .driver true 0xFFF010000010 = true) ∧
    State.reset.pkg.ucieUp = false ∧ hostShape State.reset 0x80 128 = true ∧ hostShape State.reset 0x81 2 = false ∧ State.reset.redo = [] ∧
    State.reset.poison = [] ∧
    imagePlace State.reset 0x80 = none ∧
    (0x80 : Nat) / 16 = (0x80 + 8 - 1) / 16 ∧ hostShape State.reset 0x80 8 = true ∧ (0x80 : Nat) / 16 ≠ (0x80 + 128 - 1) / 16 ∧
    (let q : Part := { va := 0x90, key := 0x90, len := 16, off := 16, done := false }
     let o : HostOp := { write := true, mmio := false, parts := [{ q with va := 0x80, key := 0x80, off := 0, done := true }, q], buf := List.replicate 32 { b := 1, p := false } }
     let s : State := { State.reset with pkg := { State.reset.pkg with hostOps := [o], ucieUp := true } }
     s.pkg.hostOps = [o] ∧ o.parts[1]? = some q ∧ q.done = false ∧ s.pkg.hold = false ∧ s.memOk = true ∧ imagePlace s q.va = none) := by
  refine ⟨by rfl, by rfl, by rfl, by rfl, by rfl, by decide, by decide, by rfl, by decide, by decide, by rfl, by rfl, by rfl, by decide, by decide,
    by decide, by decide⟩

theorem witness_PackageEvents : (0 : Nat) < 8 ∧ State.reset.pkg.hold = false ∧ (quiet []).ctxs = [ctx1] ∧
    nextIs (exec .tamperSensor (quiet [])) (fun t => (t.pkg.hold && (t.ctx? 1).isNone)) = true ∧
    State.reset.pkg.bootrec = 0 ∧ 4096 ≤ ({ State.reset with cc := 65536 } : State).cc ∧ State.reset.pkg.routing = [] ∧
    (State.reset.pkg.escapements + 1) * 65536 ≤ ({ State.reset with cc := 65536 } : State).cc ∧
    -- steps 5 and 8 are optional and have failed before; step 10 has not been taken
    (optionalStep 5 = true ∧ optionalStep 8 = true ∧ recFb 0x4444444444 5 = true ∧ recFb 0x4444444444 8 = true ∧ 10 ∉ ([] : List Nat) ∧
      recState 0 10 = 0 ∧ recFb 0 10 = false) := by
  refine ⟨by decide, by decide, by rfl, by decide, by decide, by decide, by decide, by decide, by decide⟩

/-! One step each. Results are worked out by hand from the rules. -/

/-- What a scalar register holds after the instruction has retired. -/
def after (i : Instr) (rs : List (Fin 64 × W64)) (n : Fin 64) : Option W64 :=
  match exec i (quiet rs) with
  | .next t => if t.here.cx.instret = 1 then some (t.bank.rs n) else none
  | _ => none
/-- The result that a long-latency instruction will write. -/
def later (i : Instr) (rs : List (Fin 64 × W64)) : Option (List W128) :=
  match exec i (quiet rs) with
  | .next t => t.here.ops.head?.map Op.res
  | _ => none
/-- What a predicate holds afterwards. -/
def afterP (i : Instr) (rs : List (Fin 64 × W64)) (n : Fin 16) : Option PBits :=
  match exec i (quiet rs) with
  | .next t => some (t.bank.rp n)
  | _ => none

-- integers (R126-R128)
theorem test_add_wraps : after (.add d3) [(1, 0x7FFFFFFFFFFFFFFF), (2, 1)] 3 = some 0x8000000000000000 := by decide
theorem test_add_sat : after (.add { d3 with sat := true }) [(1, 0x7FFFFFFFFFFFFFFF), (2, 1)] 3 = some 0x7FFFFFFFFFFFFFFF := by decide
theorem test_add_to_zero_register : after (.add { d3 with dst := .s 0 }) [(1, 5), (2, 1)] 0 = some 0 := by decide
theorem test_sub : after (.sub { d3 with dst := .s 1 }) [(1, 3), (2, 5)] 1 = some (BitVec.ofInt 64 (-2)) := by decide
theorem test_mul_sat :
    after (.mul { d3 with sat := true }) [(1, BitVec.ofInt 64 (-2 ^ 62)), (2, 4)] 3 = some 0x8000000000000000 := by decide
theorem test_mulh : after (.mulh d3) [(1, BitVec.ofInt 64 (-1)), (2, 1)] 3 = some (BitVec.allOnes 64) := by decide
theorem test_mulhn : after (.mulhn d3) [(1, BitVec.allOnes 64), (2, BitVec.allOnes 64)] 3 = some 0xFFFFFFFFFFFFFFFE := by decide
theorem test_div_truncates : later (.div d3) [(1, BitVec.ofInt 64 (-7)), (2, 2)] = some [(BitVec.ofInt 64 (-3)).setWidth 128] := by decide
theorem test_div_by_zero : later (.div d3) [(1, 7)] = some [0xFFFFFFFFFFFFFFFF] := by decide
theorem test_divn : later (.divn d3) [(1, BitVec.allOnes 64), (2, 2)] = some [0x7FFFFFFFFFFFFFFF] := by decide
theorem test_rem : later (.rem d3) [(1, BitVec.ofInt 64 (-7)), (2, 2)] = some [(BitVec.ofInt 64 (-1)).setWidth 128] := by decide
theorem test_remn_by_zero : later (.remn d3) [(1, 7)] = some [7] := by decide
theorem test_andn : after (.andn d3) [(1, 0xFF), (2, 0x0F)] 3 = some 0xF0 := by decide
theorem test_shl_count_is_modulo_64 : after (.shl d3) [(1, 3), (2, 65)] 3 = some 6 := by decide
theorem test_sar : after (.sar d3) [(1, 0x8000000000000000), (2, 63)] 3 = some (BitVec.allOnes 64) := by decide
theorem test_rol : after (.rol d3) [(1, 0x8000000000000001), (2, 4)] 3 = some 0x18 := by decide
theorem test_clz_of_zero : after (.clz { d3 with opb := .s 0 }) [] 3 = some 64 := by decide
theorem test_ctz : after (.ctz { d3 with opb := .s 0 }) [(1, 0x50)] 3 = some 4 := by decide
theorem test_popc : after (.popc { d3 with opb := .s 0 }) [(1, 0xF0F)] 3 = some 8 := by decide
theorem test_min_signed : after (.min d3) [(1, BitVec.allOnes 64), (2, 1)] 3 = some (BitVec.allOnes 64) := by decide
theorem test_minn : after (.minn d3) [(1, BitVec.allOnes 64), (2, 1)] 3 = some 1 := by decide
theorem test_abs_sat : after (.abs { d3 with opb := .s 0, sat := true }) [(1, 0x8000000000000000)] 3 = some 0x7FFFFFFFFFFFFFFF := by decide
theorem test_sel_takes_a : after (.sel { d3 with opc := .p 1 }) [(1, 5), (2, 6)] 3 = some 5 := by decide
theorem test_sel_takes_b : after (.sel { d3 with opc := .p 2 }) [(1, 5), (2, 6)] 3 = some 6 := by decide
theorem test_movi_high :
    after (.movi { d3 with opb := .s 0, mod := 1, imm := 0x12345678 }) [(1, 0x9ABCDEF0)] 3 = some 0x123456789ABCDEF0 := by decide
theorem test_lea : after (.lea { d3 with mod := 3, imm := 0xFFFFFFF8 }) [(1, 0x1000), (2, 2)] 3 = some 0x1008 := by decide
theorem test_sext : after (.sext { d3 with opb := .s 0, typ := .s8 }) [(1, 0x180)] 3 = some 0xFFFFFFFFFFFFFF80 := by decide
theorem test_zext : after (.zext { d3 with opb := .s 0, typ := .n16 }) [(1, 0x12345)] 3 = some 0x2345 := by decide
theorem test_bfx_signed : after (.bfx { d3 with mod := 1 }) [(1, 0x0F0), (2, 0x304)] 3 = some (BitVec.allOnes 64) := by decide
theorem test_bfi : after (.bfi { d3 with opc := .s 4 }) [(1, 0xFFFF), (2, 0xA), (4, 0x304)] 3 = some 0xFFAF := by decide
theorem test_cmp_signed :
    afterP (.cmp { d3 with dst := .p 5, mod := 2 }) [(1, BitVec.allOnes 64), (2, 1)] 5 = some (BitVec.allOnes 128) := by decide
theorem test_cmp_natural :
    afterP (.cmp { d3 with dst := .p 5, mod := 2, typ := .n64 }) [(1, BitVec.allOnes 64), (2, 1)] 5 = some 0 := by decide
-- the table 0x80 is and3 (R129); p1 is true and p2 false
theorem test_plog :
    afterP (.plog { f0 with dst := .p 4, opa := .p 1, opb := .p 1, opc := .p 0, imm := 0x80 }) [] 4 = some (BitVec.allOnes 128) := by decide
theorem test_pmov_packs : after (.pmov { f0 with dst := .s 3, mod := 1 }) [] 3 = some 3 := by decide
theorem test_false_guard : after (.add off) [(1, 5), (2, 7), (3, 9)] 3 = some 9 := by decide
theorem test_latch : after (.add { d3 with dst := .ls, opa := .imm, imm := 7 }) [(2, 1)] 3 = some 0 := by decide

-- floating point (R131-R135)
def fp (t : Typ) : Fields := { d3 with typ := t }
theorem test_fadd : after (.fadd (fp .f32)) [(1, 0x3F800000), (2, 0x40000000)] 3 = some 0x40400000 := by decide
theorem test_fsub_f64 : after (.fsub (fp .f64)) [(1, 0x3FF0000000000000), (2, 0x3FF0000000000000)] 3 = some 0 := by decide
theorem test_fmul_f16 : after (.fmul (fp .f16)) [(1, 0x4000), (2, 0x4200)] 3 = some 0x4600 := by decide
theorem test_ffma :
    after (.ffma { fp .f32 with opc := .s 4 }) [(1, 0x40000000), (2, 0x40400000), (4, 0x3F800000)] 3 = some 0x40E00000 := by decide
theorem test_fdiv_by_zero : later (.fdiv (fp .f32)) [(1, 0x3F800000)] = some [0x7F800000] := by decide
theorem test_fsqrt : later (.fsqrt { fp .f32 with opb := .s 0 }) [(1, 0x40800000)] = some [0x40000000] := by decide
theorem test_fmax : after (.fmax (fp .f32)) [(1, 0xBF800000), (2, 0x40000000)] 3 = some 0x40000000 := by decide
theorem test_fcmp :
    afterP (.fcmp { fp .f32 with dst := .p 5, mod := 2 }) [(1, 0xBF800000), (2, 0x40000000)] 5 = some (BitVec.allOnes 128) := by decide
theorem test_fcvt_rounds_to_even : after (.fcvt { d3 with opb := .s 0, mod := 1 }) [(1, 0x40200000)] 3 = some 2 := by decide

-- control (R136): slot 0 of a line at 0xFF0000001000
def pcAfter (i : Instr) (rs : List (Fin 64 × W64)) : Option W64 :=
  match exec i (quiet rs) with
  | .next t => some (t.here.bankOf false).pc
  | _ => none
theorem test_br : pcAfter (.br { f0 with imm := 0xFFFFFFFF }) [] = some 0xFF0000000FF0 := by decide
theorem test_sequential : pcAfter (.mov d3) [] = some 0xFF000000100C := by decide
theorem test_brx : pcAfter (.brx { f0 with opa := .s 1 }) [(1, 0x40)] = some 0x40 := by decide
theorem test_call : after (.call { f0 with dst := .s 9, imm := 5 }) [] 9 = some 0xFF000000100C := by decide
theorem test_ret : pcAfter (.ret { f0 with opa := .s 1 }) [(1, 0x4C)] = some 0x4C := by decide
theorem test_loop_goes_on : pcAfter (.loop { f0 with dst := .s 1, opa := .s 1, imm := 5 }) [(1, 2)] = some 0xFF0000001040 := by decide
theorem test_loop_ends : after (.loop { f0 with dst := .s 1, opa := .s 1, imm := 5 }) [(1, 1)] 1 = some 0 := by decide
theorem test_end : nextIs (exec (.endTask f0) (quiet [])) (fun t => !(t.here.bankOf false).task.live) = true := by decide
theorem test_trap : nextIs (exec (.trap { f0 with imm := 0x1234 }) (quiet [])) (fun t =>
    t.here.cx.frz.frozen && t.here.cx.frz.cause == 14 && t.here.cx.frz.packet[0] == 0x000112340000000E) = true := by decide
theorem test_illegal :
    nextIs (exec (.bind { f0 with opa := .s 1, opb := .s 2 }) (quiet [(2, 0x80)])) (fun t => t.here.cx.frz.cause == 4) = true := by
  decide

-- messages and channels (R137-R145)
theorem test_send : nextIs (exec (.send { f0 with dst := .s 4, opa := .s 1, opb := .s 2 }) (quiet [(1, 1), (2, 0x70105), (4, 9)])) (fun t =>
    match t.here.sending with
    | [e] => e.out == .msg 1 (mkMsg 0 16 5 7 0 (payload 9 0 0))
    | _ => false) = true := by decide
theorem test_bind : nextIs (exec (.bind { f0 with opa := .s 1, opb := .s 2 }) (quiet [(1, 0x1040), (2, 0x155)])) (fun t =>
    t.here.chan 5 == 0x6800000000001040) = true := by decide
theorem test_mwin : nextIs (exec (.mwin { f0 with imm := 3 }) (quiet [])) (fun t => t.here.cx.mwin == 4) = true := by decide
theorem test_csrr_context : after (.csrr { f0 with dst := .s 9, imm := 0x23 }) [] 9 = some 1 := by decide
theorem test_csrw :
    nextIs (exec (.csrw { f0 with opa := .s 1, imm := 1 }) (quiet [(1, 0xFF)])) (fun t => t.bank.fenable == 0x1F) = true := by decide

-- memory (R41-R47, R191-R205)
theorem test_store_is_queued :
    nextIs (exec (.st { m1 with typ := .n16, dst := .s 2, imm := 2 }) (quiet [(1, 0xFF0000000100), (2, 0x12345)])) (fun t =>
    match t.here.ops with
    | [o] => o.addr == 0xFF0000000102 && o.buf.map PByte.b == [0x45, 0x23] && t.mem == []
    | _ => false) = true := by decide
theorem test_store_applies : nextIs (exec (.storeApply 0 0 0) (withOp (wordOp (.st { m1 with typ := .n64 }) .left []))) (fun t =>
    readWord t.mem (localKey 0 0x100) 8 == 0x0707070707070707 && t.here.ops.isEmpty) = true := by decide
theorem test_watch_arms : nextIs (exec (.storeApply 0 0 0) (withOp { wordOp (.watch m1) .pending [] with b := 0x1205 })) (fun t =>
    t.watches.map (fun w => (w.va, w.size, w.ch, w.tag)) == [(0xFF0000000100, 8, 5, 0x12)] && t.here.ops.isEmpty) = true := by decide
theorem test_load_performs :
    nextIs (exec (.loadPerform 0 0 0) { withOp (pendingLoad .pending [.s 2]) with mem := writeWord [] (localKey 0 0x100) 8 9 })
    (fun t => t.here.ops.map Op.res == [[9]]) = true := by decide
theorem test_load_result : nextIs (exec (.longLatencyResult 0 0) (withOp { pendingLoad .done [.s 2] with res := [9] })) (fun t =>
    t.bank.rs 2 == 9 && t.bank.ls == 0) = true := by decide
theorem test_load_outside_memory :
    nextIs (exec (.ld { m1 with typ := .n64 }) (quiet [(1, 0xFF000001FFF8)])) (fun t => t.here.cx.frz.cause == 8) = true := by
  decide
theorem test_atomic_add :
    nextIs (exec (.atomicApply 0 0) { withOp { wordOp (.amo { m1 with typ := .n32 }) .pending [.s 3] with b := 2, parts := [{ part8 with len := 4 }] }
    with mem := writeWord [] (localKey 0 0x100) 8 0x1FFFFFFFF }) (fun t => readWord t.mem (localKey 0 0x100) 8 == 0x100000001) = true := by decide

-- engines (R231-R241, R267, R286)
theorem test_vadd_finishes : nextIs (exec (.engineCommandFinish 0 .vec) (ending (.vadd { v3 .n64 with opb := .v 2 }))) (fun t =>
    t.bank.v[1] == 14 && t.bank.lv == 14) = true := by decide +kernel
theorem test_vadd_queues : nextIs (exec (.vadd (v3 .f32)) (tagged .f32 [])) (fun t => t.here.vec.waiting.length == 1) = true := by decide
theorem test_vadd_wrong_tag : nextIs (exec (.vadd (v3 .s32)) (tagged .f32 [])) (fun t => t.here.cx.frz.cause == 6) = true := by decide
theorem test_vlen : after (.vlen { f0 with typ := .f32, dst := .s 3 }) [] 3 = some 32 := by decide
theorem test_vwhile : afterP (.vwhile { d3 with typ := .f64, dst := .p 5 }) [(1, 30), (2, 32)] 5 = some 0xFFFF := by decide
theorem test_cpy_queues :
    nextIs (exec (.cpy m1) (quiet [(1, 0xFF0000000100)])) (fun t => t.here.shu.waiting.map Cmd.addr == [0xFF0000000100]) = true := by decide
theorem test_tick : nextIs (exec .tickPeriod { State.reset with cc := 1400 }) (fun t => t.tick == 1) = true := by decide
end

namespace Sys2Proof.Machine
open Sys2Proof

/-! Canonical memory, first layer: the operations that leave memory as it is, one rule each, in the order of the model. -/

/-- A fold leaves memory where each of its steps does. -/
@[simp] theorem foldl_mem {α : Type} {g : State → α → State} (h : ∀ s x, (g s x).mem = s.mem) (l : List α) (s : State) :
    (l.foldl g s).mem = s.mem := by
  induction l generalizing s with
  | nil => rfl
  | cons x t ih => rw [List.foldl_cons, ih, h]

/-- A step that only some states take leaves memory where it and the state in its place do. -/
theorem getD_mem {s d : State} {o : Option State} (h : ∀ t, o = some t → t.mem = s.mem) (hd : d.mem = s.mem) :
    (o.getD d).mem = s.mem := by
  cases o with
  | none => exact hd
  | some t => exact h t rfl

/-! The state by name. -/

@[simp] theorem State.modCore_mem (s p g) : (State.modCore s p g).mem = s.mem := by simp [State.modCore]
@[simp] theorem State.modBank_mem (s g) : (State.modBank s g).mem = s.mem := by simp [State.modBank]

@[simp] theorem State.modCtx_mem (s id g) : (State.modCtx s id g).mem = s.mem := by
  unfold State.modCtx
  split <;> simp

/-! What one part of an access does. -/

@[simp] theorem State.modErr_mem (s d g) : (State.modErr s d g).mem = s.mem := by
  unfold State.modErr
  split <;> simp

@[simp] theorem countPois_mem (s key n) : (countPois s key n).mem = s.mem := by
  unfold countPois
  split <;> simp

@[simp] theorem State.post_mem (s f) : (State.post s f).mem = s.mem := by
  unfold State.post
  (repeat' split) <;> simp

@[simp] theorem fireWatches_mem (s writer key len after) : (fireWatches s writer key len after).mem = s.mem := by simp [fireWatches]

@[simp] theorem keepShadow_mem (s key len) : (keepShadow s key len).mem = s.mem := by
  unfold keepShadow
  refine foldl_mem (fun s i => ?_) _ s
  split <;> rfl

@[simp] theorem setPois_mem (s key) : (setPois s key).mem = s.mem := by simp [setPois]

@[simp] theorem countDrop_mem (s key store) : (countDrop s key store).mem = s.mem := by
  unfold countDrop
  (repeat' split) <;> simp

@[simp] theorem countRuns_mem (s phys id row runs) : (countRuns s phys id row runs).mem = s.mem := by simp [countRuns]
@[simp] theorem setFull_mem (s key len) : (setFull s key len).mem = s.mem := by simp [setFull]

@[simp] theorem keepFull_mem (s ws) : (keepFull s ws).mem = s.mem := by
  unfold keepFull
  refine foldl_mem (fun s w => ?_) ws s
  split <;> rfl

@[simp] theorem setEmpty_mem (s word) : (setEmpty s word).mem = s.mem := by simp [setEmpty]

@[simp] theorem countCancel_mem (s line w) : (countCancel s line w).mem = s.mem := by
  unfold countCancel
  (repeat' split) <;> simp

@[simp] theorem backDone_mem (s line) : (backDone s line).mem = s.mem := by simp [backDone]

@[simp] theorem touchStash_mem (s phys p write) : (touchStash s phys p write).mem = s.mem := by
  unfold touchStash
  split <;> simp

@[simp] theorem recallKey_mem (s key) : (recallKey s key).mem = s.mem := by
  unfold recallKey
  split <;> simp

/-! What every instruction shares. -/

@[simp] theorem traceRec_mem (s phys hi pc kind w1) : (traceRec s phys hi pc kind w1).mem = s.mem := by
  unfold traceRec
  dsimp only
  split <;> simp

@[simp] theorem traceTick_mem (s ps v) : (traceTick s ps v).mem = s.mem := by simp [traceTick]

@[simp] theorem traceIf_mem (s n phys hi pc kind w1) : (traceIf s n phys hi pc kind w1).mem = s.mem := by
  unfold traceIf
  split <;> simp

@[simp] theorem endTask_mem (s phys hi) : (endTask s phys hi).mem = s.mem := by
  unfold endTask
  dsimp only
  split <;> simp

@[simp] theorem freezeCore_mem (s phys hi ch z) : (freezeCore s phys hi ch z).mem = s.mem := by simp [freezeCore]

@[simp] theorem retireOnly_mem (s f target) : (retireOnly s f target).mem = s.mem := by
  unfold retireOnly
  (repeat' split) <;> simp

/-- Every state that an effect answers satisfies p. -/
def Eff.All (p : State → Prop) : Eff → Prop
  | .done t | .jump t _ | .fp t _ | .trap t _ _ | .brk t | .last t => p t
  | .stall | .fault _ => True

section
variable (p : State → Prop)

@[simp] theorem Eff.all_done (t : State) : (Eff.done t).All p ↔ p t := .rfl
@[simp] theorem Eff.all_jump (t : State) (pc : W64) : (Eff.jump t pc).All p ↔ p t := .rfl
@[simp] theorem Eff.all_fp (t : State) (ev : Events) : (Eff.fp t ev).All p ↔ p t := .rfl
@[simp] theorem Eff.all_trap (t : State) (cause code : Nat) : (Eff.trap t cause code).All p ↔ p t := .rfl
@[simp] theorem Eff.all_brk (t : State) : (Eff.brk t).All p ↔ p t := .rfl
@[simp] theorem Eff.all_last (t : State) : (Eff.last t).All p ↔ p t := .rfl
@[simp] theorem Eff.all_stall : Eff.stall.All p := trivial
@[simp] theorem Eff.all_fault (i : FaultInfo) : (Eff.fault i).All p := trivial

end

theorem Eff.All.imp {p q : State → Prop} (h : ∀ t, p t → q t) {e : Eff} (a : e.All p) : e.All q := by
  cases e with
  | stall | fault _ => trivial
  | _ => exact h _ a

@[simp] theorem pushOp_mem (s f o) : (pushOp s f o).mem = s.mem := by simp [pushOp]
@[simp] theorem pushResult_mem (s ins f res ev) : (pushResult s ins f res ev).mem = s.mem := by simp [pushResult]

/-! Messages at a core. -/

@[simp] theorem collect_mem (s a) : (collect s a).mem = s.mem := by simp [collect]

@[simp] theorem sendOut_mem {s m} (h : s.mem = m) (o) : (sendOut s o).All fun t => t.mem = m := by
  unfold sendOut
  dsimp only
  (repeat' split) <;> simp [h]

@[simp] theorem traceSend_mem (s dst ch) : (traceSend s dst ch).mem = s.mem := by simp [traceSend]
@[simp] theorem traceUnit_mem (s) : (traceUnit s).mem = s.mem := by simp [traceUnit]
@[simp] theorem traceChan_mem (s ch) : (traceChan s ch).mem = s.mem := by simp [traceChan]

@[simp] theorem sendTo_mem {s m} (h : s.mem = m) (f kind dst desc) : (sendTo s f kind dst desc).All fun t => t.mem = m := by
  unfold sendTo
  dsimp only
  split <;> simp [h]

/-! The ordering machine's queues. -/

@[simp] theorem Eff.held_all {p s va} {e : Eff} (h : e.All p) : (e.held s va).All p := by
  unfold Eff.held
  split
  · split
    · exact Eff.all_stall p
    · exact h
  · exact h

@[simp] theorem countReply_mem (s phys p) : (countReply s phys p).mem = s.mem := by
  unfold countReply
  dsimp only
  split <;> simp

@[simp] theorem countReplies_mem (s phys ps) : (countReplies s phys ps).mem = s.mem := by simp [countReplies]
@[simp] theorem collectOp_mem (s id) : (collectOp s id).mem = s.mem := by simp [collectOp]

/-! Scalar loads and stores. -/

@[simp] theorem traceAccess_mem (s ea) : (traceAccess s ea).mem = s.mem := by simp [traceAccess]

@[simp] theorem noteLine_mem (s ea len load store) : (noteLine s ea len load store).mem = s.mem := by
  unfold noteLine
  dsimp only
  split <;> simp

@[simp] theorem walkReply_mem (s ea) : (walkReply s ea).mem = s.mem := by simp [walkReply]
@[simp] theorem noteAccess_mem (s ea len load store) : (noteAccess s ea len load store).mem = s.mem := by simp [noteAccess]

@[simp] theorem noteMmio_mem (s ea len load store) : (noteMmio s ea len load store).mem = s.mem := by
  unfold noteMmio
  split <;> simp

/-! Full-empty words and watches. -/

@[simp] theorem armWatch_mem (s x w) : (armWatch s x w).mem = s.mem := by
  unfold armWatch
  dsimp only
  (repeat' split) <;> simp

@[simp] theorem cancelWatch_mem (s x key size) : (cancelWatch s x key size).mem = s.mem := by
  unfold cancelWatch
  split <;> simp

/-! Atomics. -/

@[simp] theorem pushAtomic_mem {s m} (h : s.mem = m) (f o ea size always) :
    (pushAtomic s f o ea size always).All fun t => t.mem = m := by
  unfold pushAtomic
  dsimp only
  (repeat' split) <;> simp [h]

/-! Fences, hints and DISCARD. -/

@[simp] theorem pushLines_mem (s f ea qs) : (pushLines s f ea qs).mem = s.mem := by simp [pushLines]

/-! The capability instructions. -/

@[simp] theorem askKeeper_mem (s o c base k) : (askKeeper s o c base k).mem = s.mem := by simp [askKeeper]

@[simp] theorem pushCap_mem (s f o) : (pushCap s f o).mem = s.mem := by
  unfold pushCap
  split <;> simp

@[simp] theorem addMark_mem (s m) : (addMark s m).mem = s.mem := by simp [addMark]

@[simp] theorem pushAsk_mem (s f o k) : (pushAsk s f o k).mem = s.mem := by
  unfold pushAsk
  dsimp only
  split <;> simp

/-! Arrival of messages and selection of tasks. -/

theorem deliver_mem {s t : State} {f : Flight} (h : deliver s f = some t) : t.mem = s.mem := by
  unfold deliver at h
  dsimp only at h
  split at h
  · cases h
  · split at h
    · cases h
    · obtain ⟨y, -, rfl⟩ := Option.map_eq_some_iff.1 h
      simp

@[simp] theorem modImage_mem (s ctx lc g) : (modImage s ctx lc g).mem = s.mem := by
  unfold modImage
  (repeat' split) <;> simp

@[simp] theorem bounce_mem (s f) : (bounce s f).mem = s.mem := by
  unfold bounce
  dsimp only
  (repeat' split) <;> simp

@[simp] theorem dropCross_mem (s x) : (dropCross s x).mem = s.mem := by
  cases x <;> simp [dropCross]

@[simp] theorem cross_mem (s x) : (cross s x).mem = s.mem := by
  unfold cross
  dsimp only
  split <;> simp

@[simp] theorem arrive_mem (s f) : (arrive s f).mem = s.mem := by
  unfold arrive
  split
  · simp
  · exact getD_mem (fun _ => deliver_mem) (bounce_mem s f)

@[simp] theorem resendKept_mem (s k f) : (resendKept s k f).mem = s.mem := by
  unfold resendKept
  dsimp only
  split
  · split <;> simp
  · exact getD_mem (fun _ h => (deliver_mem h :)) rfl

@[simp] theorem unitResend_mem (s k) : (unitResend s k).mem = s.mem := by
  unfold unitResend
  (repeat' split) <;> simp

@[simp] theorem startTask_mem (s phys hi n p) : (startTask s phys hi n p).mem = s.mem := by
  unfold startTask
  dsimp only
  split <;> simp

/-! Scalar floating point. -/

@[simp] theorem fpDone_mem {s m} (h : s.mem = m) (f r) : (fpDone s f r).All fun t => t.mem = m := by
  simp [fpDone, h]

/-! The issue of vector commands. -/

@[simp] theorem pushCmd_mem {s m} (h : s.mem = m) (f e k) : (pushCmd s f e k).All fun t => t.mem = m := by
  unfold pushCmd
  dsimp only
  split <;> simp [h]

/-! Vector arithmetic. -/

@[simp] theorem wreg_mem (s d x) : (wreg s d x).mem = s.mem := by simp [wreg]

/-! The shuttle instructions at issue. -/

@[simp] theorem shuttleEff_mem {s m} (h : s.mem = m) (i f check prep) :
    (shuttleEff i f check prep s).All fun t => t.mem = m := by
  unfold shuttleEff
  dsimp only
  (repeat' split) <;> simp [h]

/-! Teardown of a context. -/

@[simp] theorem markDead_mem (s ctx cause) : (markDead s ctx cause).mem = s.mem := by
  unfold markDead
  (repeat' split) <;> simp

@[simp] theorem tearDown_mem (s ctx cause) : (tearDown s ctx cause).mem = s.mem := by
  unfold tearDown
  (repeat' split) <;> simp

/-! Fault packets, deferred reports and the supervisor's actions. -/

@[simp] theorem firmwareTeardown_mem (s ctx) : (firmwareTeardown s ctx).mem = s.mem := by simp [firmwareTeardown]

@[simp] theorem sendPacket_mem (s x m) : (sendPacket s x m).mem = s.mem := by
  unfold sendPacket
  split <;> simp

@[simp] theorem packetStep_mem (s phys again) : (packetStep s phys again).mem = s.mem := by
  unfold packetStep
  dsimp only
  (repeat' split) <;> simp

@[simp] theorem reportHead_mem (s phys) : (reportHead s phys).mem = s.mem := by
  unfold reportHead
  dsimp only
  (repeat' split) <;> simp

@[simp] theorem reportQuantum_mem (s phys) : (reportQuantum s phys).mem = s.mem := by simp [reportQuantum]

@[simp] theorem suspendRun_mem (s phys x info) : (suspendRun s phys x info).mem = s.mem := by
  unfold suspendRun
  dsimp only
  split <;> simp

@[simp] theorem weftAction_mem (s phys a) : (weftAction s phys a).mem = s.mem := by
  unfold weftAction
  dsimp only
  (repeat' split) <;> simp

@[simp] theorem gearAction_mem (s phys a) : (gearAction s phys a).mem = s.mem := by simp [gearAction]

@[simp] theorem skipOne_mem (s phys hi) : (skipOne s phys hi).mem = s.mem := by
  unfold skipOne
  dsimp only
  split <;> simp

@[simp] theorem restart_mem (s phys a z) : (restart s phys a z).mem = s.mem := by
  unfold restart
  dsimp only
  (repeat' split) <;> simp

@[simp] theorem applyAction_mem (s phys a) : (applyAction s phys a).mem = s.mem := by
  unfold applyAction
  dsimp only
  (repeat' split) <;> simp

@[simp] theorem takeAction_mem (s phys a) : (takeAction s phys a).mem = s.mem := by
  unfold takeAction
  dsimp only
  split <;> simp

@[simp] theorem faultReply_mem (s x w a) : (faultReply s x w a).mem = s.mem := by
  unfold faultReply
  split <;> simp

@[simp] theorem dbgWrite_mem (s phys seq a w) : (dbgWrite s phys seq a w).mem = s.mem := by
  unfold dbgWrite
  dsimp only
  (repeat' split) <;> simp

@[simp] theorem dbgEvent_mem (s phys seq a w) : (dbgEvent s phys seq a w).mem = s.mem := by
  unfold dbgEvent
  split <;> simp

/-! What the queued engines share. -/

@[simp] theorem endFault_mem (s phys e x info) : (endFault s phys e x info).mem = s.mem := by
  unfold endFault
  dsimp only
  split <;> simp

@[simp] theorem accrue_mem (s phys d ev) : (accrue s phys d ev).1.mem = s.mem := by
  unfold accrue
  dsimp only
  (repeat' split) <;> simp

@[simp] theorem keepReport_mem (phys e x r) : (keepReport phys e x r).mem = r.1.mem := by
  unfold keepReport
  split <;> simp

@[simp] theorem reach_mem (s phys p write last) : (reach s phys p write last).mem = s.mem := by
  unfold reach
  split <;> simp

@[simp] theorem tookParts_mem (s phys ps bs) : (tookParts s phys ps bs).mem = s.mem := by
  unfold tookParts
  refine foldl_mem (fun s k => ?_) _ s
  split <;> simp

/-! Vector and shuttle commands as they run. -/

@[simp] theorem startStore_mem (s phys x f ps) : (startStore s phys x f ps).mem = s.mem := by simp [startStore]

@[simp] theorem ownVecs_mem (s phys k) : (ownVecs s phys k).mem = s.mem := by
  unfold ownVecs
  dsimp only
  (repeat' split) <;> simp

@[simp] theorem startVec_mem (s phys x) : (startVec s phys x).mem = s.mem := by
  unfold startVec
  dsimp only
  (repeat' split) <;> simp

@[simp] theorem finishVec_mem (s phys x) : (finishVec s phys x).mem = s.mem := by
  simp [finishVec]

theorem readIndex_mem {s : State} {c x r t} (h : readIndex s c x = some (r, t)) : t.mem = s.mem := by
  unfold readIndex at h
  dsimp only at h
  split at h
  · cases h; rfl
  · split at h
    · cases h
    · obtain ⟨bs, -, e⟩ := Option.map_eq_some_iff.1 h
      cases e
      simp

theorem openRow_mem {s : State} {phys x y t} (h : openRow s phys x = some (y, t)) : t.mem = s.mem := by
  have index : ∀ r u, (match x.cmd.ins with
      | .cpyg _ | .cpyx _ => readIndex s (s.core phys) x
      | _ => some (.ok 0, s)) = some (r, u) → u.mem = s.mem := by
    intro r u e
    split at e
    · exact readIndex_mem e
    · exact readIndex_mem e
    · cases e; rfl
  unfold openRow at h
  dsimp only at h
  split at h
  · cases h
  · rename_i e
    cases h
    exact index _ _ e
  · rename_i e
    rw [← index _ _ e]
    (repeat' split at h) <;> cases h <;> rfl

@[simp] theorem hostLost_mem (s phys e x k p) : (hostLost s phys e x k p).mem = s.mem := by
  unfold hostLost
  split <;> simp

@[simp] theorem tokenWrite_mem (s phys x) : (tokenWrite s phys x).mem = s.mem := by
  unfold tokenWrite
  dsimp only
  (repeat' split) <;> simp

/-! The heddle units. -/

@[simp] theorem loadImage_mem (s unit ctx bs) : (loadImage s unit ctx bs).1.mem = s.mem := by
  unfold loadImage
  dsimp only
  (repeat' split) <;> simp

@[simp] theorem complete_mem (s ctx unit z) : (complete s ctx unit z).mem = s.mem := by simp [complete]

@[simp] theorem refuse_mem (s ctx unit lc ch tag port len typ status) :
    (refuse s ctx unit lc ch tag port len typ status).mem = s.mem := by simp [refuse]

@[simp] theorem refuseOther_mem (s ctx unit lc port status) : (refuseOther s ctx unit lc port status).mem = s.mem := by simp [refuseOther]
@[simp] theorem putConn_mem (s u c) : (putConn s u c).mem = s.mem := by simp [putConn]
@[simp] theorem dropOffers_mem (s ctx unit k p put) : (dropOffers s ctx unit k p put).mem = s.mem := by simp [dropOffers]

@[simp] theorem offer_mem (s r put b data) : (offer s r put b data).mem = s.mem := by
  unfold offer
  dsimp only
  (repeat' split) <;> simp

@[simp] theorem cancelOffer_mem (s r b) : (cancelOffer s r b).mem = s.mem := by
  unfold cancelOffer
  dsimp only
  (repeat' split) <;> simp

@[simp] theorem popen_mem (s r k) : (popen s r k).mem = s.mem := by
  unfold popen
  (repeat' split) <;> simp

@[simp] theorem pclose_mem (s r k) : (pclose s r k).mem = s.mem := by
  unfold pclose
  (repeat' split) <;> simp

@[simp] theorem pbind_mem (s r b) : (pbind s r b).mem = s.mem := by
  unfold pbind
  dsimp only
  (repeat' split) <;> simp

@[simp] theorem pfree_mem (s r) : (pfree s r).mem = s.mem := by
  unfold pfree
  dsimp only
  split
  · simp
  · refine (foldl_mem (fun s k => ?_) _ s :)
    split <;> simp

@[simp] theorem heddleServe_mem (s r) : (heddleServe s r).mem = s.mem := by
  unfold heddleServe
  split <;> simp

@[simp] theorem lift_mem (s u c r) : (lift s u c r).mem = s.mem := by
  unfold lift
  dsimp only
  rw [putConn_mem]
  refine foldl_mem (fun s k => ?_) _ s
  (repeat' split) <;> simp

theorem decide1_mem {s t : State} {unit slot} (h : decide1 s unit slot = some t) : t.mem = s.mem := by
  obtain ⟨c, -, e⟩ := Option.bind_eq_some_iff.1 h
  obtain ⟨r, -, rfl⟩ := Option.map_eq_some_iff.1 e
  simp

@[simp] theorem liftAll_mem (unit slot n s) : (liftAll unit slot n s).mem = s.mem := by
  induction n generalizing s with
  | zero => rfl
  | succ n ih =>
    unfold liftAll
    split
    · rename_i t e
      rw [ih, decide1_mem e]
    · rfl

/-! The specialiser's cache. -/

@[simp] theorem setVersion_mem (s ctx unit n) : (setVersion s ctx unit n).mem = s.mem := by simp [setVersion]

@[simp] theorem State.modSpec_mem (s die g) : (State.modSpec s die g).mem = s.mem := by
  unfold State.modSpec
  split <;> simp

@[simp] theorem countSpec_mem (s die n) : (countSpec s die n).mem = s.mem := by simp [countSpec]
@[simp] theorem staleWhere_mem (s p) : (staleWhere s p).mem = s.mem := by simp [staleWhere]
@[simp] theorem dropLines_mem (s ctx pa) : (dropLines s ctx pa).mem = s.mem := by simp [dropLines]

/-! The keepers of groups and the movement of their data. -/

@[simp] theorem collSend_mem {s m} (h : s.mem = m) (f op g desc) : (collSend s f op g desc).All fun t => t.mem = m := by
  simp [collSend, h]

@[simp] theorem collDone_mem (s r rank count events status inst addr) :
    (collDone s r rank count events status inst addr).mem = s.mem := by simp [collDone]

@[simp] theorem collRefused_mem (s r status) : (collRefused s r status).mem = s.mem := by simp [collRefused]

@[simp] theorem State.setGroup_mem (s x) : (State.setGroup s x).mem = s.mem := by
  unfold State.setGroup
  split <;> simp

@[simp] theorem serveColl_mem (s x r early) : (serveColl s x r early).mem = s.mem := by
  unfold serveColl
  dsimp only
  (repeat' split) <;> simp

@[simp] theorem changeMember_mem (s x r) : (changeMember s x r).mem = s.mem := by
  unfold changeMember
  dsimp only
  (repeat' split) <;> simp

@[simp] theorem drainList_mem (ctx g l kept stop s) : (drainList ctx g l kept stop s).mem = s.mem := by
  induction l generalizing kept stop s with
  | nil => simp [drainList]
  | cons r t ih =>
    unfold drainList
    dsimp only
    split
    · exact ih ..
    · split
      · exact ih ..
      · simp [ih]

@[simp] theorem drainWaiting_mem (s ctx g) : (drainWaiting s ctx g).mem = s.mem := drainList_mem ..

theorem membershipStep_mem {s t : State} {ctx g} (h : membershipStep s ctx g = some t) : t.mem = s.mem := by
  unfold membershipStep at h
  dsimp only at h
  split at h
  · split at h
    · cases h; simp
    · cases h
  · cases h

@[simp] theorem collArrive_mem (s r) : (collArrive s r).mem = s.mem := by
  unfold collArrive
  split <;> simp

@[simp] theorem collToKeeper_mem (s r) : (collToKeeper s r).mem = s.mem := by
  unfold collToKeeper
  split <;> simp

@[simp] theorem touchMember_mem (s ctx lc p write) : (touchMember s ctx lc p write).mem = s.mem := by
  unfold touchMember
  (repeat' split) <;> simp

@[simp] theorem fillSaved_mem (s ctx key len) : (fillSaved s ctx key len).mem = s.mem := by simp [fillSaved]
@[simp] theorem modInst_mem (s x n g) : (modInst s x n g).mem = s.mem := by simp [modInst]

@[simp] theorem moveRead_mem (s x i k) : (moveRead s x i k).mem = s.mem := by
  unfold moveRead
  (repeat' split) <;> simp

@[simp] theorem completeInst_mem (s x i st ev) : (completeInst s x i st ev).mem = s.mem := by simp [completeInst]
@[simp] theorem timeoutInst_mem (s x i) : (timeoutInst s x i).mem = s.mem := by simp [timeoutInst]

/-! The command front end. -/

@[simp] theorem feBytes_mem (s ps) : (feBytes s ps).1.mem = s.mem := by
  suffices ∀ (l : List Byte), (ps.foldl (fun (s, l) p => (countPois (recallKey s p.key) p.key
      (boolNat (anyPois (readPart s 37376 0 p))), l ++ consume (readPart s 37376 0 p))) (s, l)).1.mem = s.mem from this []
  induction ps generalizing s with
  | nil => exact fun _ => rfl
  | cons p ps ih => exact fun l => (ih _ _).trans (by simp)

theorem feLoad_mem {s t : State} {ctx a len l} (h : feLoad s ctx a len = .ok (t, l)) : t.mem = s.mem := by
  unfold feLoad at h
  split at h
  · cases h
  · rw [← feBytes_mem s, Except.ok.inj h]

/-- The states that a read of the front end can answer hold the memory m. -/
def FeRead.Leaves (m : List Host.Cell) : FeRead → Prop
  | .fault _ => True
  | .more s => s.mem = m
  | .done s _ => s.mem = m

theorem readOn_leaves (s n key ps) : (readOn s n key ps).Leaves s.mem := by
  unfold readOn
  dsimp only
  (repeat' split) <;> simp [FeRead.Leaves]

theorem feRead_leaves (s n key a len) : (feRead s n key a len).Leaves s.mem := by
  unfold feRead
  split
  · trivial
  · exact readOn_leaves ..

theorem launchBlock_leaves (s n a) : (launchBlock s n a).Leaves s.mem := by
  unfold launchBlock
  split
  · rfl
  · exact feRead_leaves ..

/-- The state that a lookup answers, with the PC it found or the walk that it waits for. -/
def Looked.state : Looked → State
  | .start s _ => s
  | .walk s _ => s

@[simp] theorem specLookup_mem (s die ctx pc block) : (specLookup s die ctx pc block).state.mem = s.mem := by
  unfold specLookup
  dsimp only
  (repeat' split) <;> simp [Looked.state]

theorem walkOutcome_mem {s t : State} {n die id pc} (h : walkOutcome s n die id = some (t, pc)) : t.mem = s.mem := by
  unfold walkOutcome at h
  split at h
  · split at h
    · obtain ⟨y, -, e⟩ := Option.map_eq_some_iff.1 h
      split at e <;> cases e <;> simp
    · cases h
  · cases h

@[simp] theorem sendLaunch_mem (s n pkt lc d pc block p0 p1) :
    (sendLaunch s n pkt lc d pc block p0 p1).mem = s.mem := by simp [sendLaunch]

@[simp] theorem launchPc_mem (s n die pc block) : (launchPc s n die pc block).1.mem = s.mem := by
  have found := specLookup_mem s die (s.queue n).ctx pc block
  unfold launchPc
  dsimp only
  split
  · split
    · split <;> simp_all [Looked.state]
    · split
      · rename_i e
        exact walkOutcome_mem e
      · rfl
  · split <;> simp_all [Looked.state]

theorem launchReady_leaves (s n d) : (launchReady s n d).Leaves s.mem := by
  have block := launchBlock_leaves s n (bodyField d 16 8)
  unfold launchReady
  dsimp only
  split
  · rfl
  · split
    · split
      · trivial
      · simp_all [FeRead.Leaves]
    · exact block

theorem condHolds_mem {s t : State} {ctx d b} (h : condHolds s ctx d = .ok (t, b)) : t.mem = s.mem := by
  unfold condHolds at h
  split at h
  · cases h
  · rename_i e
    cases h
    exact feLoad_mem e

@[simp] theorem dropLaunch_mem (s n typ) : (dropLaunch s n typ).mem = s.mem := by
  unfold dropLaunch
  dsimp only
  (repeat' split) <;> simp

@[simp] theorem resendLaunch_mem (s n) : (resendLaunch s n).mem = s.mem := by
  unfold resendLaunch
  split <;> simp

@[simp] theorem qsendBounce_mem (s e) : (qsendBounce s e).mem = s.mem := by simp [qsendBounce]

@[simp] theorem qactRetry_mem (s n) : (qactRetry s n).mem = s.mem := by
  unfold qactRetry
  dsimp only
  split <;> simp

@[simp] theorem writeQcfg_mem (s n v) : (writeQcfg s n v).mem = s.mem := by
  unfold writeQcfg
  dsimp only
  split <;> simp

/-! The driver's page. -/

@[simp] theorem countRun_mem (s a n) : (countRun s a n).mem = s.mem := by
  unfold countRun
  split <;> simp

@[simp] theorem createResult_mem (s v) : (createResult s v).mem = s.mem := by simp [createResult]
@[simp] theorem killCtx_mem (s v) : (killCtx s v).mem = s.mem := by simp [killCtx]
@[simp] theorem startShoot_mem (s v) : (startShoot s v).mem = s.mem := by simp [startShoot]

/-! Weft and gear commands, gang steps and the drain buffer. -/

@[simp] theorem openPick_mem (s phys x) : (openPick s phys x).mem = s.mem := by
  unfold openPick
  dsimp only
  (repeat' split) <;> simp

@[simp] theorem runPick_mem (s phys x) : (runPick s phys x).mem = s.mem := by
  unfold runPick
  dsimp only
  (repeat' split) <;> simp

@[simp] theorem startWeft_mem (s phys x) : (startWeft s phys x).mem = s.mem := by
  unfold startWeft
  dsimp only
  (repeat' split) <;> simp

@[simp] theorem weftAfterRead_mem (s phys x) : (weftAfterRead s phys x).mem = s.mem := by
  unfold weftAfterRead
  (repeat' split) <;> simp

@[simp] theorem finishWeft_mem (s phys x) : (finishWeft s phys x).mem = s.mem := by
  simp [finishWeft]

@[simp] theorem beginGst_mem (s phys x f) : (beginGst s phys x f).mem = s.mem := by
  unfold beginGst
  dsimp only
  split <;> simp

@[simp] theorem startGear_mem (s phys x) : (startGear s phys x).mem = s.mem := by
  unfold startGear
  dsimp only
  (repeat' split) <;> simp

@[simp] theorem finishGear_mem (s phys x) : (finishGear s phys x).mem = s.mem := by
  unfold finishGear
  dsimp only
  split
  case h_3 => split <;> simp
  all_goals simp

@[simp] theorem markReady_mem (s p) : (markReady s p).mem = s.mem := by
  unfold markReady
  (repeat' split) <;> simp

@[simp] theorem gangStart_mem (s t) : (gangStart s t).mem = s.mem := by
  unfold gangStart
  dsimp only
  split <;> simp

@[simp] theorem gangEndCore_mem (s p before) : (gangEndCore s p before).mem = s.mem := by
  unfold gangEndCore
  dsimp only
  (repeat' split) <;> simp

@[simp] theorem gangEnd_mem (s t) : (gangEnd s t).mem = s.mem := by
  unfold gangEnd
  dsimp only
  split <;> simp

@[simp] theorem gangDropCore_mem (s p) : (gangDropCore s p).mem = s.mem := by
  unfold gangDropCore
  dsimp only
  split <;> simp

@[simp] theorem gangLate_mem (s t) : (gangLate s t).mem = s.mem := by
  unfold gangLate
  split <;> simp

@[simp] theorem freezeBuffer_mem (s phys i) : (freezeBuffer s phys i).mem = s.mem := by
  unfold freezeBuffer
  dsimp only
  split <;> simp

/-! The steps of the queued engines. -/

@[simp] theorem continueCmd_mem (s phys e x) : (continueCmd s phys e x).mem = s.mem := by
  unfold continueCmd
  (repeat' split) <;> simp

@[simp] theorem engReadStep_mem (s phys e x k) : (engReadStep s phys e x k).mem = s.mem := by
  unfold engReadStep
  dsimp only
  split
  · split
    · refine getD_mem (fun u h => ?_) rfl
      obtain ⟨⟨y, t⟩, e, rfl⟩ := Option.map_eq_some_iff.1 h
      simp [openRow_mem e]
    · rfl
  · (repeat' split) <;> simp

/-! The loupe. -/

@[simp] theorem resumeCore_mem (s phys) : (resumeCore s phys).mem = s.mem := by
  unfold resumeCore
  dsimp only
  (repeat' split) <;> simp

@[simp] theorem stepCore_mem (s phys) : (stepCore s phys).mem = s.mem := by simp [stepCore]

/-! The package. -/

@[simp] theorem senseAll_mem (s) : (senseAll s).mem = s.mem := by simp [senseAll]

@[simp] theorem advanceTick_mem (s) : (advanceTick s).mem = s.mem := by
  unfold advanceTick
  split <;> simp

/-! The registers of the MMIO range and the host's aperture. -/

@[simp] theorem hostAnswer_mem (s r) : (hostAnswer s r).mem = s.mem := by simp [hostAnswer]
@[simp] theorem hostFail_mem (s b) : (hostFail s b).mem = s.mem := by simp [hostFail]

@[simp] theorem hostDone_mem (s o) : (hostDone s o).mem = s.mem := by
  unfold hostDone
  (repeat' split) <;> simp

/-! The steps of the ordering machine. -/

@[simp] theorem writeResult_mem (s phys o res) : (writeResult s phys o res).mem = s.mem := by
  simp [writeResult]

@[simp] theorem lateResult_mem (s phys id) : (lateResult s phys id).mem = s.mem := by
  unfold lateResult
  dsimp only
  (repeat' split) <;> simp

@[simp] theorem lateFault_mem (s phys o info) : (lateFault s phys o info).mem = s.mem := by
  unfold lateFault
  dsimp only
  (repeat' split) <;> simp

@[simp] theorem ldfEmpty_mem (s phys o) : (ldfEmpty s phys o).mem = s.mem := by
  unfold ldfEmpty
  split <;> simp

@[simp] theorem passLdf.keep_mem (phys id s o f l) : (passLdf.keep phys id s o f l).mem = s.mem := by simp [passLdf.keep]

@[simp] theorem passLdf_mem (s phys id) : (passLdf s phys id).mem = s.mem := by
  unfold passLdf
  dsimp only
  (repeat' split) <;> simp

@[simp] theorem storeLeave_mem (s phys) : (storeLeave s phys).mem = s.mem := by
  unfold storeLeave
  dsimp only
  (repeat' split) <;> simp

@[simp] theorem storeTook_mem (s phys o k) : (storeTook s phys o k).mem = s.mem := by simp [storeTook]
@[simp] theorem storesTook_mem (s phys o ks) : (storesTook s phys o ks).mem = s.mem := by simp [storesTook]

@[simp] theorem discardFirst_mem (s phys o p) : (discardFirst s phys o p).1.mem = s.mem := by
  unfold discardFirst
  (repeat' split) <;> simp

@[simp] theorem writeBack_mem (s line) : (writeBack s line).mem = s.mem := by
  unfold writeBack
  dsimp only
  split <;> simp

@[simp] theorem armOp_mem (s p o) : (armOp s p o).mem = s.mem := by
  unfold armOp
  (repeat' split) <;> simp

@[simp] theorem watchStep_mem (s phys o) : (watchStep s phys o).mem = s.mem := by
  unfold watchStep
  dsimp only
  split <;> simp

@[simp] theorem zeroNotify_mem (s phys o f key old new) : (zeroNotify s phys o f key old new).mem = s.mem := by simp [zeroNotify]

@[simp] theorem releaseStep_mem (s phys id) : (releaseStep s phys id).mem = s.mem := by
  unfold releaseStep
  dsimp only
  (repeat' split) <;> simp

@[simp] theorem sendEntry_mem (s x o) : (sendEntry s x o).mem = s.mem := by
  cases o <;> simp [sendEntry]

/-! The specialiser's walk. -/

@[simp] theorem dropEntry_mem (s die e) : (dropEntry s die e).mem = s.mem := by simp [dropEntry]

@[simp] theorem makeRoom_mem (fuel s die n) : (makeRoom fuel s die n).1.mem = s.mem := by
  induction fuel generalizing s with
  | zero => rfl
  | succ fuel ih =>
    unfold makeRoom
    dsimp only
    (repeat' split) <;> simp [ih]

@[simp] theorem addEntry_mem (s die e) : (addEntry s die e).mem = s.mem := by simp [addEntry]

/-! Switching a core between contexts. -/

@[simp] theorem cancelFirst_mem (s p) : (cancelFirst s p).mem = s.mem := by simp [cancelFirst]

/-! The steps of the shared units. -/

@[simp] theorem capArrival_mem (s r g d) : (capArrival s r g d).mem = s.mem := by simp [capArrival]
@[simp] theorem recallRegion_mem (s ctx g new) : (recallRegion s ctx g new).mem = s.mem := by simp [recallRegion]

@[simp] theorem keeperServe_mem (s r) : (keeperServe s r).mem = s.mem := by
  unfold keeperServe
  dsimp only
  (repeat' split) <;> simp

@[simp] theorem keeperStep_mem (s k claims) : (keeperStep s k claims).mem = s.mem := by
  unfold keeperStep
  dsimp only
  (repeat' split) <;> simp

@[simp] theorem cacheWalk_mem (s c root va) : (cacheWalk s c root va).mem = s.mem := by simp [cacheWalk]
@[simp] theorem forgetWalk_mem (s die n) : (forgetWalk s die n).mem = s.mem := by simp [forgetWalk]

@[simp] theorem heddleArrive_mem (s k cancels) : (heddleArrive s k cancels).mem = s.mem := by
  unfold heddleArrive
  (repeat' split) <;> simp

@[simp] theorem loadConn_mem (s phys o) : (loadConn s phys o).mem = s.mem := by
  simp [loadConn]

/-! What the task engine does before an instruction's effect. -/

@[simp] theorem fillLine_mem (s c key) : (fillLine s c key).mem = s.mem := by
  unfold fillLine
  split <;> simp

@[simp] theorem State.fetched_mem (s) : (State.fetched s).mem = s.mem := by
  unfold State.fetched
  split <;> simp

@[simp] theorem fetchAhead_mem (s p pc) : (fetchAhead s p pc).mem = s.mem := by
  unfold fetchAhead
  dsimp only
  (repeat' split) <;> simp

/-! The quantum boundary. -/

@[simp] theorem armWatches_mem (s p) : (armWatches s p).mem = s.mem := by simp [armWatches]
@[simp] theorem gangTests_mem (s x) : (gangTests s x).mem = s.mem := by simp [gangTests]

@[simp] theorem memberSteps_mem (ctx g n s) : (memberSteps ctx g n s).mem = s.mem := by
  induction n generalizing s with
  | zero => rfl
  | succ n ih =>
    unfold memberSteps
    split
    · rename_i t e
      rw [ih, membershipStep_mem e]
    · rfl

@[simp] theorem settleGroup_mem (s ctx g) : (settleGroup s ctx g).mem = s.mem := memberSteps_mem ..

@[simp] theorem lateInst_mem (s g i) : (lateInst s g i).mem = s.mem := by
  unfold lateInst
  (repeat' split) <;> simp

@[simp] theorem resendAll_mem (s n) : (resendAll s n).mem = s.mem := by simp [resendAll]

@[simp] theorem liftCtx_mem (s ctx) : (liftCtx s ctx).mem = s.mem := by
  unfold liftCtx
  exact foldl_mem (fun s _ => liftAll_mem ..) _ s

@[simp] theorem completeAll_mem (s ctx) : (completeAll s ctx).mem = s.mem := by
  unfold completeAll
  refine foldl_mem (fun s g => foldl_mem (fun s i => ?_) _ s) _ s
  split <;> simp

@[simp] theorem placeOne_mem (s f) : (placeOne s f).mem = s.mem := by
  unfold placeOne
  (repeat' split) <;> simp

@[simp] theorem placeAll_mem (n s ctx) : (placeAll n s ctx).mem = s.mem := by
  induction n generalizing s with
  | zero => rfl
  | succ n ih =>
    unfold placeAll
    split <;> simp [ih]

@[simp] theorem retryKept_mem (s ctx) : (retryKept s ctx).mem = s.mem := by simp [retryKept]

@[simp] theorem packetAt_mem (s p) : (packetAt s p).mem = s.mem := by
  unfold packetAt
  dsimp only
  split <;> simp

@[simp] theorem placeStep_mem (s x) : (placeStep s x).mem = s.mem := by
  unfold placeStep
  dsimp only
  split <;> simp

@[simp] theorem actOn_mem (s p) : (actOn s p).mem = s.mem := by
  unfold actOn
  split <;> simp

@[simp] theorem freshQuantum_mem (s p) : (freshQuantum s p).mem = s.mem := by simp [freshQuantum]

/-! What moves next where the agenda is silent. -/

@[simp] theorem settleGang_mem (s p) : (settleGang s p).mem = s.mem := by
  unfold settleGang
  dsimp only
  split <;> simp

@[simp] theorem settleInst_mem (s ctx g n) : (settleInst s ctx g n).mem = s.mem := by
  unfold settleInst
  (repeat' split) <;> simp

@[simp] theorem settleResends_mem (s) : (settleResends s).mem = s.mem := by
  unfold settleResends
  dsimp only
  rw [foldl_mem (fun s l => by split <;> simp), foldl_mem unitResend_mem, foldl_mem (fun s c => packetStep_mem ..)]

/-! The Rhohimen links. -/

@[simp] theorem linkIn_mem (s x) : (linkIn s x).mem = s.mem := by
  unfold linkIn
  (repeat' split) <;> simp

@[simp] theorem linkLaunch_mem (s ctx dst pc block m) : (linkLaunch s ctx dst pc block m).mem = s.mem := by
  unfold linkLaunch
  split <;> simp

@[simp] theorem linkOut_mem (s n) : (linkOut s n).mem = s.mem := by simp [linkOut]
@[simp] theorem linkEnd_mem (s id) : (linkEnd s id).mem = s.mem := by simp [linkEnd]

@[simp] theorem linkRead_mem (s ctx lc a n) : (linkRead s ctx lc a n).mem = s.mem := by
  unfold linkRead
  split <;> simp

/-! Canonical memory, second layer: the operations that write memory keep it in canonical form, one rule each. Their writes come down to
`writeCell`, `writeCells` and `filter`, for which the model's laws have it. -/

/-- A fold keeps memory canonical where each of its steps does. -/
theorem foldl_wf {α : Type} {g : State → α → State} (step : ∀ s x, Memory.wf s.mem = true → Memory.wf (g s x).mem = true)
    (l : List α) {s : State} (h : Memory.wf s.mem = true) : Memory.wf (l.foldl g s).mem = true := by
  induction l generalizing s with
  | nil => exact h
  | cons x t ih => exact ih (step s x h)

/-- A step that only some states take keeps memory canonical where it and the state in its place do. -/
theorem getD_wf {d : State} {o : Option State} (h : ∀ t, o = some t → Memory.wf t.mem = true) (hd : Memory.wf d.mem = true) :
    Memory.wf (o.getD d).mem = true := by
  cases o with
  | none => exact hd
  | some t => exact h t rfl

section
variable {s : State} (h : Memory.wf s.mem = true)
include h

/-! What one part of an access does. -/

@[simp] theorem writeRun_wf (key bs) : Memory.wf (writeRun s key bs).mem = true := by
  rw [(writeRun_plain s key bs).2]
  exact Memory.wf_writeCells _ _ _ h

@[simp] theorem applyRuns_wf (writer runs after) : Memory.wf (applyRuns s writer runs after).mem = true := by
  unfold applyRuns
  split
  · exact h
  · rw [foldl_mem (fun s r => fireWatches_mem ..)]
    exact foldl_wf (fun s r h => writeRun_wf h ..) runs h

@[simp] theorem applyPart_wf (writer key bs after) : Memory.wf (applyPart s writer key bs after).mem = true := by
  simp [applyPart, h]

@[simp] theorem engRuns_wf (writer runs after) : Memory.wf (engRuns s writer runs after).mem = true := by
  simp [engRuns, h]

@[simp] theorem engApply_wf (writer key bs) : Memory.wf (engApply s writer key bs).mem = true := by
  simp [engApply, h]

@[simp] theorem detWrite_wf (phys id kind runs row) : Memory.wf (detWrite s phys id kind runs row).mem = true := by
  unfold detWrite
  refine foldl_wf (fun s r h => ?_) runs h
  dsimp only
  (repeat' split) <;> simp [h, Memory.wf_writeCells]

@[simp] theorem coreRuns_wf (phys id runs) : Memory.wf (coreRuns s phys id runs).mem = true := by
  unfold coreRuns
  split <;> simp [h]

@[simp] theorem coreStore_wf (phys id key bs) : Memory.wf (coreStore s phys id key bs).mem = true := by
  simp [coreStore, h]

@[simp] theorem engStore_wf (phys id runs row) : Memory.wf (engStore s phys id runs row).mem = true := by
  unfold engStore
  split <;> simp [h]

@[simp] theorem coreEmpty_wf (phys id word) : Memory.wf (coreEmpty s phys id word).mem = true := by
  unfold coreEmpty
  (repeat' split) <;> simp [h]

@[simp] theorem discardRedo_wf (writer key) : Memory.wf (discardRedo s writer key).mem = true := by
  unfold discardRedo
  dsimp only
  (repeat' split) <;> simp [h]

@[simp] theorem redoApply_wf (r) : Memory.wf (redoApply s r).mem = true := by
  unfold redoApply
  dsimp only
  split
  · simp [h]
  · split <;> simp [h]
  · refine foldl_wf (fun s k h => ?_) r.runs (by simp [h])
    simp [h]
  · simp [h]

@[simp] theorem redoAll_wf (ctx) : Memory.wf (redoAll s ctx).mem = true := by
  unfold redoAll
  dsimp only
  refine foldl_wf (fun s r h => redoApply_wf h r) _ (foldl_wf (fun s c h => ?_) _ h)
  exact Memory.wf_writeCell _ _ _ h

/-! What every instruction shares. -/

@[simp] theorem writeTrace_wf (phys) : Memory.wf (writeTrace s phys).mem = true := by
  unfold writeTrace
  dsimp only
  (repeat' split) <;> simp [h]

@[simp] theorem flushTrace_wf (phys) : Memory.wf (flushTrace s phys).mem = true := by
  unfold flushTrace
  exact foldl_wf (fun s _ h => writeTrace_wf h phys) _ h

@[simp] theorem loupeStop_wf (phys reason) : Memory.wf (loupeStop s phys reason).mem = true := by
  simp [loupeStop, h]

@[simp] theorem haltCore_wf (phys) : Memory.wf (haltCore s phys).mem = true := by
  unfold haltCore
  dsimp only
  split <;> simp [h]

@[simp] theorem stopAfterIssue_wf : Memory.wf (stopAfterIssue s).mem = true := by
  unfold stopAfterIssue
  (repeat' split) <;> simp [h]

@[simp] theorem raise_wf (info kind) : Memory.wf (raise s info kind).mem = true := by
  unfold raise
  split <;> simp [h]

@[simp] theorem retire_wf (f target) : Memory.wf (retire s f target).mem = true := by
  simp [retire, h]

@[simp] theorem retireFp_wf (f ev) : Memory.wf (retireFp s f ev).mem = true := by
  unfold retireFp
  dsimp only
  split <;> simp [h]

omit h in
/-- What an instruction's effect comes to keeps memory canonical where every state that the effect answers does. -/
theorem settle_wf (h : Memory.wf s.mem = true) (f) {e : Eff} (ok : e.All fun t => Memory.wf t.mem = true) :
    Memory.wf (settle f s e).mem = true := by
  cases e <;> simp_all [settle]

theorem runWith_wf (g f) {eff : State → Eff} (ok : (eff s).All fun t => Memory.wf t.mem = true) :
    Memory.wf (runWith g f eff s).mem = true := by
  rcases runWith_cases g f eff s with ⟨x, -, e⟩ | ⟨-, -, e⟩ | ⟨-, -, e⟩ | ⟨-, -, e⟩ <;> rw [e]
  · simp [h]
  · exact h
  · simp [h]
  · exact settle_wf h f ok

/-! Teardown of a context. -/

@[simp] theorem writePhys_wf (pa bs) : Memory.wf (writePhys s pa bs).mem = true := by
  unfold writePhys
  refine foldl_wf (fun s p h => ?_) _ (by simp [h])
  simp [h]

@[simp] theorem writeDump_wf (x cause) : Memory.wf (writeDump s x cause).mem = true := by
  unfold writeDump
  refine foldl_wf (fun s p h => ?_) _ (writePhys_wf h ..)
  dsimp only
  split <;> simp [h]

@[simp] theorem releaseCtx_wf (x cause) : Memory.wf (releaseCtx s x cause).mem = true := by
  simp [releaseCtx, h]

@[simp] theorem teardownStep_wf (x) : Memory.wf (teardownStep s x).mem = true := by
  unfold teardownStep
  (repeat' split) <;> simp [h]

/-! What the queued engines share. -/

@[simp] theorem engWriteAll_wf (phys id l row) : Memory.wf (engWriteAll s phys id l row).mem = true := by
  unfold engWriteAll
  refine foldl_wf (fun s p h => ?_) _ (by simp [h])
  (repeat' split) <;> simp [h]

@[simp] theorem engWrite_wf (phys id p bs row) : Memory.wf (engWrite s phys id p bs row).mem = true := by
  simp [engWrite, h]

/-! Vector and shuttle commands as they run. -/

@[simp] theorem flagTest_wf (phys x) : Memory.wf (flagTest s phys x).2.mem = true := by
  unfold flagTest
  dsimp only
  (repeat' split) <;> simp [h]

@[simp] theorem testStep_wf (phys x last) : Memory.wf (testStep s phys x last).mem = true := by
  have ok := flagTest_wf h phys x
  unfold testStep
  split
  · rename_i e
    rwa [e] at ok
  · rename_i e
    rw [e] at ok
    dsimp only
    (repeat' split) <;> simp_all

theorem startShu_wf {t : State} {phys x} (e : startShu s phys x = some t) : Memory.wf t.mem = true := by
  unfold startShu at e
  dsimp only at e
  split at e
  · cases e
    simp [h]
  · obtain ⟨bs, -, rfl⟩ := Option.map_eq_some_iff.1 e
    (repeat' split) <;> simp [h]

@[simp] theorem shuWrite_wf (phys x k p) : Memory.wf (shuWrite s phys x k p).mem = true := by
  unfold shuWrite
  split <;> simp [h]

/-! The keepers of groups and the movement of their data. -/

@[simp] theorem writeMember_wf (ctx lc p bs store) : Memory.wf (writeMember s ctx lc p bs store).mem = true := by
  unfold writeMember
  dsimp only
  (repeat' split) <;> simp [h]

@[simp] theorem moveWrite_wf (x i k) : Memory.wf (moveWrite s x i k).mem = true := by
  unfold moveWrite
  dsimp only
  (repeat' split) <;> simp [h]

theorem moveAllParts_wf (fuel ctx g n) : Memory.wf (moveAllParts fuel s ctx g n).mem = true := by
  induction fuel generalizing s with
  | zero => exact h
  | succ fuel ih =>
    unfold moveAllParts
    split
    · exact h
    · split
      · exact h
      · split
        · exact h
        · exact ih (moveWrite_wf h ..)

@[simp] theorem moveData_wf (x i) : Memory.wf (moveData s x i).mem = true := moveAllParts_wf h ..

/-! The command front end. -/

@[simp] theorem feWrite_wf (ps bs store) : Memory.wf (feWrite s ps bs store).mem = true := by
  unfold feWrite
  refine foldl_wf (fun s p h => ?_) ps ?_
  · simp [h]
  · split <;> simp [h]

theorem feAdd_wf {t : State} {ctx a v} (e : feAdd s ctx a v = .ok t) : Memory.wf t.mem = true := by
  unfold feAdd at e
  split at e
  · cases e
  · dsimp only at e
    rw [← Except.ok.inj e]
    simp [h]

@[simp] theorem faultRecord_wf (q st a) : Memory.wf (faultRecord s q st a).mem = true := by
  unfold faultRecord
  split <;> simp [h]

@[simp] theorem queueFault_wf (q st a) : Memory.wf (queueFault s q st a).mem = true := by
  simp [queueFault, h]

@[simp] theorem fetchFault_wf (q a) : Memory.wf (fetchFault s q a).mem = true := by
  simp [fetchFault, h]

@[simp] theorem packetFault_wf (q) : Memory.wf (packetFault s q).mem = true := by
  simp [packetFault, h]

@[simp] theorem fireSignal_wf (n a) : Memory.wf (fireSignal s n a).mem = true := by
  unfold fireSignal
  dsimp only
  split
  · exact h
  · split
    · exact h
    · split
      · rename_i e
        exact feAdd_wf h e
      · simp [h]

theorem sweep_wf (fuel n) : Memory.wf (sweep fuel s n).mem = true := by
  induction fuel generalizing s with
  | zero => exact h
  | succ fuel ih =>
    unfold sweep
    dsimp only
    split
    · exact ih (by simp [h])
    · split
      · exact ih (by simp [h])
      · exact h

@[simp] theorem sweepAll_wf (n) : Memory.wf (sweepAll s n).mem = true := sweep_wf h ..

theorem advance_skipOver_wf (fuel n) :
    Memory.wf (advance fuel s n).mem = true ∧ Memory.wf (advance.skipOver fuel s n).mem = true := by
  induction fuel generalizing s with
  | zero =>
    refine ⟨h, ?_⟩
    unfold advance.skipOver
    dsimp only
    (repeat' split) <;> simp [h]
  | succ fuel ih =>
    constructor
    · unfold advance
      dsimp only
      (repeat' split) <;> simp [h, ih]
    · unfold advance.skipOver
      dsimp only
      (repeat' split) <;> simp [h, ih]

theorem advance_wf (fuel n) : Memory.wf (advance fuel s n).mem = true := (advance_skipOver_wf h fuel n).1
@[simp] theorem settleQueue_wf (n) : Memory.wf (settleQueue s n).mem = true := sweepAll_wf (advance_wf h ..) n
@[simp] theorem doneWith_wf (n) : Memory.wf (doneWith s n).mem = true := settleQueue_wf (by simp [h]) n

@[simp] theorem failedRead_wf (q) : Memory.wf (failedRead s q).mem = true := by
  unfold failedRead
  dsimp only
  split <;> simp [h]

@[simp] theorem judge_wf (q d) : Memory.wf (judge s q d).mem = true := by
  unfold judge
  (repeat' split) <;> simp [h]

@[simp] theorem fetchStep_wf (q path a) : Memory.wf (fetchStep s q path a).mem = true := by
  have read := feRead_leaves s q.n path a 64
  unfold fetchStep
  dsimp only
  split
  · split <;> simp [h]
  · rename_i e
    rw [e] at read
    exact read ▸ h
  · rename_i e
    rw [e] at read
    have h := read ▸ h
    split <;> simp [h]

theorem judgeHeld_wf {t : State} {q} (e : judgeHeld s q = some t) : Memory.wf t.mem = true := by
  unfold judgeHeld at e
  split at e
  · split at e
    · cases e
    · cases e
      exact judge_wf h ..
  · cases e

@[simp] theorem fetchNext_wf (q) : Memory.wf (fetchNext s q).mem = true := by
  unfold fetchNext
  split
  · rename_i e
    exact judgeHeld_wf h e
  · (repeat' split) <;> simp [h]

@[simp] theorem fetchAgain_wf (q) : Memory.wf (fetchAgain s q).mem = true := by
  unfold fetchAgain
  (repeat' split) <;> simp [h]

omit h in
/-- An event of the front end that takes a packet keeps memory canonical where what it does to the packet does. -/
theorem event_wf {g : State → Nat → List Byte → State} (step : ∀ s n d, Memory.wf s.mem = true → Memory.wf (g s n d).mem = true)
    (h : Memory.wf s.mem = true) (n typ) : Memory.wf (event s n typ g).mem = true := by
  unfold event typed
  (repeat' split) <;> simp [h, step]

@[simp] theorem doNop_wf (n d) : Memory.wf (doNop s n d).mem = true := doneWith_wf h n

@[simp] theorem doLaunch_wf (n d) : Memory.wf (doLaunch s n d).mem = true := by
  have block := launchReady_leaves s n d
  unfold doLaunch
  dsimp only
  split
  · exact fetchFault_wf h ..
  · exact packetFault_wf h ..
  · rename_i lc _
    split
    · exact fetchFault_wf h ..
    · rename_i e
      rw [e] at block
      exact block ▸ h
    · rename_i t b e
      rw [e] at block
      have found := launchPc_mem t n (dieOfLc t (s.queue n).ctx lc) (BitVec.ofNat 64 (bodyField d 0 8 % 2 ^ 48)) b
      have ok : Memory.wf t.mem = true := block ▸ h
      rw [← found] at ok
      split
      · rename_i e
        rwa [e] at ok
      · rename_i e
        rw [e] at ok
        exact doneWith_wf (by simpa using ok) n

@[simp] theorem doLaunchRange_wf (n d) : Memory.wf (doLaunchRange s n d).mem = true := by
  have block := launchReady_leaves s n d
  unfold doLaunchRange
  extract_lets q pc signal
  split
  · exact fetchFault_wf h ..
  · rename_i e
    rw [e] at block
    exact block ▸ h
  · rename_i t b e
    rw [e] at block
    have ok : Memory.wf t.mem = true := block ▸ h
    extract_lets q ids counted
    split
    · refine doneWith_wf ?_ n
      dsimp only [counted]
      split <;> simp [ok]
    · split
      rename_i u pkt k e
      have ok : Memory.wf u.mem = true := by
        split at e <;> cases e <;> simp [ok]
      split
      dsimp only
      split
      · exact fetchFault_wf ok ..
      · exact packetFault_wf ok ..
      · rename_i lc _
        have found := launchPc_mem u n (dieOfLc u (u.queue n).ctx lc) pc b
        rw [← found] at ok
        split
        · rename_i e
          rwa [e] at ok
        · rename_i e
          rw [e] at ok
          split
          · simp [ok]
          · exact doneWith_wf (by simp [ok]) n

@[simp] theorem doIndirect_wf (n d) : Memory.wf (doIndirect s n d).mem = true := by
  unfold doIndirect
  dsimp only
  split <;> simp [h]

@[simp] theorem doPred_wf (n d) : Memory.wf (doPred s n d).mem = true := by
  unfold doPred
  dsimp only
  split
  · simp [h]
  · rename_i e
    simp [condHolds_mem e, h]
  · rename_i e
    simp [condHolds_mem e, h]

@[simp] theorem doLoop_wf (n d) : Memory.wf (doLoop s n d).mem = true := by
  unfold doLoop
  dsimp only
  split <;> simp [h]

@[simp] theorem doWait_wf (n d) : Memory.wf (doWait s n d).mem = true := by
  unfold doWait
  dsimp only
  split
  · simp [h]
  · rename_i e
    simp [condHolds_mem e, h]
  · rename_i e
    simp [condHolds_mem e, h]

@[simp] theorem doSignal_wf (n d) : Memory.wf (doSignal s n d).mem = true := by
  unfold doSignal
  dsimp only
  split
  · exact h
  · split
    · split
      · simp [h]
      · rename_i e
        exact doneWith_wf (feAdd_wf h e) n
    · split <;> simp [h]

@[simp] theorem doBarrier_wf (n d) : Memory.wf (doBarrier s n d).mem = true := by
  unfold doBarrier
  split <;> simp [h]

@[simp] theorem doFetchFence_wf (n d) : Memory.wf (doFetchFence s n d).mem = true := doneWith_wf (by simp [h]) n

@[simp] theorem doConnect_wf (n d) : Memory.wf (doConnect s n d).mem = true := by
  unfold doConnect
  dsimp only
  split
  · exact packetFault_wf h ..
  · split
    · exact fetchFault_wf h ..
    · split
      · exact fetchFault_wf h ..
      · rename_i ps _
        split
        · exact fetchFault_wf h ..
        · have read := readOn_leaves s n ((s.queue n).path ++ [bodyField d 0 8])
            (ps.map fun r => { r with key := keyAs s (s.queue n).ctx r.key })
          split
          · exact fetchFault_wf h ..
          · rename_i e
            rw [e] at read
            exact read ▸ h
          · rename_i e
            rw [e] at read
            have ok := read ▸ h
            exact doneWith_wf (feWrite_wf (by simp [ok]) ..) n

@[simp] theorem dispatchOne_wf (n) : Memory.wf (dispatchOne s n).mem = true := by
  unfold dispatchOne
  split
  · exact h
  · split <;> simp [h]

@[simp] theorem reportEnd_wf (l) : Memory.wf (reportEnd s l).mem = true := by
  unfold reportEnd
  split <;> simp [h]

@[simp] theorem kickNow_wf (n v) : Memory.wf (kickNow s n v).mem = true := by
  unfold kickNow
  dsimp only
  split <;> simp [h]

@[simp] theorem kick_wf (n v) : Memory.wf (kick s n v).mem = true := by
  unfold kick
  split <;> simp [h]

@[simp] theorem takeKept_wf (n) : Memory.wf (takeKept s n).mem = true := by
  unfold takeKept
  exact foldl_wf (fun s v h => kickNow_wf h n v) _ (by simp [h])

@[simp] theorem hostKick_wf (n v) : Memory.wf (hostKick s n v).mem = true := by
  unfold hostKick
  dsimp only
  split <;> simp [h]

@[simp] theorem qsendEnd_wf (n slot) : Memory.wf (qsendEnd s n slot).mem = true := by
  simp [qsendEnd, h]

@[simp] theorem qsendWrite_wf (e) : Memory.wf (qsendWrite s e).mem = true := by
  unfold qsendWrite
  dsimp only
  (repeat' split) <;> simp [h]

@[simp] theorem qactSkip_wf (n) : Memory.wf (qactSkip s n).mem = true := by
  unfold qactSkip
  dsimp only
  split <;> simp [h]

@[simp] theorem dropSlots_wf (n) : Memory.wf (dropSlots s n).mem = true := by
  simp [dropSlots, h]

@[simp] theorem qactStop_wf (n) : Memory.wf (qactStop s n).mem = true := by
  simp [qactStop, h]

@[simp] theorem writeQueue_wf (n off v host) : Memory.wf (writeQueue s n off v host).mem = true := by
  unfold writeQueue
  dsimp only
  (repeat' split) <;> simp [h]

/-! The driver's page. -/

@[simp] theorem writeCoreTable_wf (x) : Memory.wf (writeCoreTable s x).mem = true := by
  unfold writeCoreTable
  refine foldl_wf (fun s l h => ?_) _ h
  dsimp only
  (repeat' split) <;> simp [h]

@[simp] theorem createCtx_wf (a) : Memory.wf (createCtx s a).mem = true := by
  have read : ∀ l : List (Nat × Nat), Memory.wf (l.foldl (fun s r => countRun s r.1 r.2) s).mem = true := fun l => by
    rw [foldl_mem (fun s r => countRun_mem ..)]
    exact h
  unfold createCtx
  dsimp only
  split
  · simp [h]
  · split
    · rw [createResult_mem]
      exact read _
    · split
      · rw [createResult_mem]
        exact read _
      · split
        · rw [createResult_mem]
          exact read _
        · rw [createResult_mem]
          refine writeCoreTable_wf ?_ _
          dsimp only
          rw [foldl_mem (fun s p => ?_)]
          · exact read _
          · rfl

@[simp] theorem ctxCreate_wf (record) : Memory.wf (ctxCreate s record).mem = true := by
  unfold ctxCreate
  split <;> simp [h]

@[simp] theorem writeDriver_wf (off v) : Memory.wf (writeDriver s off v).mem = true := by
  unfold writeDriver
  split <;> simp [h]

/-! Weft and gear commands, gang steps and the drain buffer. -/

@[simp] theorem drainPut_wf (phys i n ps p) : Memory.wf (drainPut s phys i n ps p).mem = true := by
  simp [drainPut, h]

/-- Which rows are left is computed by the kernel, modulo 2 ^ 64, where a match on it is compared; so its function is named
first, and the recursion unfolded only then. -/
theorem drainStep_go_wf (phys rows k) : Memory.wf (drainStep.go s phys rows k).mem = true := by
  obtain ⟨parts, e⟩ : ∃ parts, rowParts = parts := ⟨_, rfl⟩
  delta drainStep.go drainStep.go._f
  rw [e]
  induction rows generalizing k with
  | nil => exact h
  | cons i rest ih =>
    dsimp only
    split
    · split <;> simp [h]
    · split
      · exact ih _
      · (repeat' split) <;> simp [h]

@[simp] theorem drainStep_wf (phys k) : Memory.wf (drainStep s phys k).mem = true := by
  unfold drainStep
  dsimp only
  split
  · exact h
  · split
    · simp [h]
    · exact drainStep_go_wf h ..

/-! The steps of the queued engines. -/

@[simp] theorem startCmd_wf (phys e k rest) : Memory.wf (startCmd s phys e k rest).mem = true := by
  unfold startCmd
  cases e
  case shu =>
    refine getD_wf (fun t e => startShu_wf ?_ e) h
    simp [h]
  all_goals simp [h]

@[simp] theorem engWriteStep_wf (phys e x k) : Memory.wf (engWriteStep s phys e x k).mem = true := by
  unfold engWriteStep
  dsimp only
  (repeat' split) <;> simp [h]

/-! The loupe. -/

@[simp] theorem stopCore_wf (phys) : Memory.wf (stopCore s phys).mem = true := by
  unfold stopCore
  dsimp only
  split <;> simp [h]

@[simp] theorem writeLoupe_wf (phys off v w) : Memory.wf (writeLoupe s phys off v w).mem = true := by
  unfold writeLoupe
  (repeat' split) <;> simp [h]

@[simp] theorem debugWrite_wf (phys off v w) : Memory.wf (debugWrite s phys off v w).mem = true := by
  unfold debugWrite
  dsimp only
  (repeat' split) <;> simp [h]

/-! The package. -/

@[simp] theorem tearAllNow_wf (cause) : Memory.wf (tearAllNow s cause).mem = true := by
  unfold tearAllNow
  refine foldl_wf (fun s x h => ?_) _ h
  dsimp only
  (repeat' split) <;> simp [h]

@[simp] theorem alarm_wf (cause) : Memory.wf (alarm s cause).mem = true := by
  simp [alarm, h]

omit h in
/-- The state that one step of a start answers. -/
def Boot.state : Boot → State
  | .on s => s
  | .off s => s

omit h in
theorem bootOne_wf (h : Memory.wf s.mem = true) (fails k) : Memory.wf (bootOne fails s k).state.mem = true := by
  unfold bootOne
  dsimp only
  (repeat' split) <;> simp [Boot.state, h]

@[simp] theorem bootFrom_wf (fails ks) : Memory.wf (bootFrom fails s ks).mem = true := by
  induction ks generalizing s with
  | nil => exact h
  | cons k ks ih =>
    have ok := bootOne_wf h fails k
    unfold bootFrom
    split
    · rename_i e
      rw [e] at ok
      exact ih ok
    · rename_i e
      rw [e] at ok
      exact ok

@[simp] theorem escapement_wf : Memory.wf (escapement s).mem = true := by
  unfold escapement
  exact foldl_wf (fun s x h => teardownStep_wf h x) _ h

/-! The registers of the MMIO range and the host's aperture. -/

@[simp] theorem setMmioWord_wf (w a v) : Memory.wf (setMmioWord s w a v).mem = true := by
  unfold setMmioWord
  split <;> simp [h]

@[simp] theorem mmioWrite_wf (w a size v) : Memory.wf (mmioWrite s w a size v).mem = true := by
  simp [mmioWrite, h]

@[simp] theorem hostPut_wf (pa bs) : Memory.wf (hostPut s pa bs).mem = true := by
  unfold hostPut
  (repeat' split) <;> simp [h]

@[simp] theorem hostDo_wf (o p) : Memory.wf (hostDo s o p).1.mem = true := by
  unfold hostDo
  dsimp only
  (repeat' split) <;> simp [h]

@[simp] theorem hostStep_wf (n k) : Memory.wf (hostStep s n k).mem = true := by
  unfold hostStep
  dsimp only
  (repeat' split) <;> simp [h]

@[simp] theorem hostBegin_wf (write a n buf) : Memory.wf (hostBegin s write a n buf).mem = true := by
  unfold hostBegin
  dsimp only
  (repeat' split) <;> simp [h]

/-! The steps of the ordering machine. -/

@[simp] theorem loadDone_wf (phys o) : Memory.wf (loadDone s phys o).mem = true := by
  unfold loadDone
  dsimp only
  (repeat' split) <;> simp [h]

@[simp] theorem loadTook_wf (phys o k p bs) : Memory.wf (loadTook s phys o k p bs).mem = true := by
  unfold loadTook
  dsimp only
  (repeat' split) <;> simp [h]

@[simp] theorem loadPart_wf (phys id k) : Memory.wf (loadPart s phys id k).mem = true := by
  unfold loadPart
  dsimp only
  (repeat' split) <;> simp [h]

@[simp] theorem discardPart_wf (phys o k p) : Memory.wf (discardPart s phys o k p).mem = true := by
  unfold discardPart
  dsimp only
  (repeat' split) <;> simp [h]

@[simp] theorem storeEffect_wf (phys o k p) : Memory.wf (storeEffect s phys o k p).mem = true := by
  unfold storeEffect
  split <;> simp [h]

@[simp] theorem storePart_wf (phys id k) : Memory.wf (storePart s phys id k).mem = true := by
  unfold storePart
  dsimp only
  (repeat' split) <;> simp [h]

@[simp] theorem ntPart_wf (phys id k) : Memory.wf (ntPart s phys id k).mem = true := by
  unfold ntPart
  dsimp only
  (repeat' split) <;> simp [h]

@[simp] theorem atomicDo_wf (phys o direct) : Memory.wf (atomicDo s phys o direct).mem = true := by
  unfold atomicDo
  dsimp only
  (repeat' split) <;> simp [h]

@[simp] theorem atomicStep_wf (phys id) : Memory.wf (atomicStep s phys id).mem = true := by
  unfold atomicStep
  dsimp only
  (repeat' split) <;> simp [h]

/-! The specialiser's walk. -/

@[simp] theorem storeLine_wf (die line xs) : Memory.wf (storeLine s die line xs).mem = true := by
  simp [storeLine, h, Memory.wf_writeCells]

@[simp] theorem storeLines_wf (die base xs) : Memory.wf (storeLines s die base xs).mem = true := by
  unfold storeLines
  exact foldl_wf (fun s k h => storeLine_wf h ..) _ h

@[simp] theorem doWalk_wf (die w) : Memory.wf (doWalk s die w).1.mem = true := by
  unfold doWalk
  extract_lets hit e met
  have ok : ∀ s w, Memory.wf s.mem = true → Memory.wf (met s w).mem = true := fun s w h => by
    simp [met, h]
  split
  · dsimp only
    split <;> simp [h, ok]
  · simp [h, ok]
  · extract_lets s xs n tries
    have h : Memory.wf s.mem = true := ok _ _ h
    split
    · exact h
    · have room := makeRoom_mem tries s die n
      split
      · rename_i e
        rw [e] at room
        exact room ▸ h
      · rename_i e
        rw [e] at room
        simp [room ▸ h]

/-! The stash and its frames. -/

@[simp] theorem scrapFrame_wf (phys n) : Memory.wf (scrapFrame s phys n).mem = true := by
  unfold scrapFrame
  dsimp only
  exact foldl_wf (fun s i h => Memory.wf_writeCell _ _ _ h) _ h

@[simp] theorem unmapFrame_wf (phys n) : Memory.wf (unmapFrame s phys n).mem = true := by
  unfold unmapFrame
  dsimp only
  split <;> simp [h]

/-! Switching a core between contexts. -/

omit h in
theorem wf_foldl_writeCell (cells : List Host.Cell) {m : List Host.Cell} (h : Memory.wf m = true) :
    Memory.wf (cells.foldl (fun m c => writeCell m c.1 c.2) m) = true := by
  induction cells generalizing m with
  | nil => exact h
  | cons c t ih => exact ih (Memory.wf_writeCell m c.1 c.2 h)

@[simp] theorem moveRun_wf (src isDst) : Memory.wf (moveRun s src isDst).mem = true :=
  wf_foldl_writeCell _ (Memory.wf_filter _ _ h)

@[simp] theorem saveLocal_wf (ctx phys) : Memory.wf (saveLocal s ctx phys).mem = true := by
  simp [saveLocal, h]

@[simp] theorem loadLocal_wf (ctx phys full) : Memory.wf (loadLocal s ctx phys full).mem = true := by
  simp [loadLocal, h]

@[simp] theorem unmapAll_wf (phys) : Memory.wf (unmapAll s phys).mem = true := by
  unfold unmapAll
  exact foldl_wf (fun s f h => unmapFrame_wf h ..) _ h

@[simp] theorem switchCore_wf (phys ctx) : Memory.wf (switchCore s phys ctx).mem = true := by
  unfold switchCore
  extract_lets s0 c old s1 kept y s2 s3 s4
  have h0 : Memory.wf s0.mem = true := unmapAll_wf (by simp [h]) phys
  have h1 : Memory.wf s1.mem = true := by
    dsimp only [s1]
    split <;> simp [h0]
  have h2 : Memory.wf s2.mem = true := by simpa [s2] using h1
  have h3 : Memory.wf s3.mem = true := by
    dsimp only [s3]
    split <;> simp [h2]
  have h4 : Memory.wf s4.mem = true := by
    dsimp only [s4]
    (repeat' split) <;> simp [h3]
  split <;> simp [h4]

/-! The steps of the shared units. -/

@[simp] theorem moveGranule_wf (ctx group inst part read) : Memory.wf (moveGranule s ctx group inst part read).mem = true := by
  unfold moveGranule
  (repeat' split) <;> simp [h]

end

/-! Canonical memory, third layer: what an instruction or an event of the machine comes to. -/

/-- A step goes on, and its next state's memory is in canonical form where its own was. -/
def Keeps (s : State) (r : Res) : Prop := ∃ t, r = .next t ∧ (Memory.wf s.mem = true → Memory.wf t.mem = true)

theorem Keeps.next {s t : State} (h : Memory.wf s.mem = true → Memory.wf t.mem = true) : Keeps s (.next t) := ⟨t, rfl, h⟩

theorem Keeps.next_wf {s t : State} {r : Res} (k : Keeps s r) (h : Memory.wf s.mem = true) (e : r = .next t) :
    Memory.wf t.mem = true := by
  obtain ⟨u, eu, ok⟩ := k
  rw [eu] at e
  exact Host.Outcome.next.inj e ▸ ok h

section
variable (s : State)

/-- An instruction whose effect leaves memory as it was keeps memory canonical: what else its course can come to (a fault, a stall, a
false guard) leaves memory alone or writes trace records only. -/
theorem runWith_keeps (g f) {eff : State → Eff} (q : (eff s).All fun t => t.mem = s.mem) : Keeps s (.next (runWith g f eff s)) :=
  .next fun h => runWith_wf h g f (q.imp fun _ e => e ▸ h)

theorem run_keeps (f) {eff : State → Eff} (q : (eff s).All fun t => t.mem = s.mem) : Keeps s (.next (run f eff s)) :=
  runWith_keeps s _ f q

theorem int1_keeps (f g) : Keeps s (.next (int1 f g s)) := run_keeps s f (by simp)
theorem int2_keeps (f g) : Keeps s (.next (int2 f g s)) := run_keeps s f (by simp)
theorem intL_keeps (i f g) : Keeps s (.next (intL i f g s)) := run_keeps s f (by simp)
theorem fp2_keeps (f g) : Keeps s (.next (fp2 f g s)) := run_keeps s f (by simp)

theorem capRun_keeps (f i why) {eff : State → Core → Region → Op → State} (q : ∀ s c r o, (eff s c r o).mem = s.mem) :
    Keeps s (.next (capRun f i s why eff)) :=
  run_keeps s f (by dsimp only; (repeat' split) <;> simp [q])

theorem vecIssue_keeps (i f size check tag long prep) : Keeps s (.next (vecIssue i f size check tag long prep s)) := by
  refine runWith_keeps s _ f ?_
  split
  · simp
  · split
    · simp
    · refine pushCmd_mem ?_ ..
      split <;> simp

theorem vecIssue0_keeps (i f check tag prep) : Keeps s (.next (vecIssue0 i f check tag prep s)) := by
  refine run_keeps s f ?_
  split
  · simp
  · split
    · simp
    · refine pushCmd_mem ?_ ..
      split <;> simp

theorem arith_keeps (i f long tag srcs) : Keeps s (.next (arith i f long tag srcs s)) := vecIssue_keeps ..
theorem arith1_keeps (i f) : Keeps s (.next (arith1 i f s)) := arith_keeps ..
theorem arith2_keeps (i f) : Keeps s (.next (arith2 i f s)) := arith_keeps ..
theorem issueShuttle_keeps (i f check prep) : Keeps s (.next (issueShuttle i f check prep s)) := run_keeps s f (by simp)

theorem issueWeft_keeps (i f operand write) : Keeps s (.next (issueWeft i f operand write s)) :=
  run_keeps s f (by dsimp only; split <;> simp)

theorem issueGear_keeps (i f check prep) : Keeps s (.next (issueGear i f check prep s)) :=
  run_keeps s f (by split <;> simp)

theorem heddleSend_keeps (i f legal ask regs) : Keeps s (.next (heddleSend i f s legal ask regs)) :=
  run_keeps s f (by dsimp only; (repeat' split) <;> simp)

theorem collPlain_keeps (i f op lo) : Keeps s (.next (collPlain i f op lo s)) :=
  run_keeps s f (by dsimp only; split <;> simp)

theorem collData_keeps (i f op) : Keeps s (.next (collData i f op s)) :=
  run_keeps s f (by dsimp only; (repeat' split) <;> simp)

theorem execVmov_keeps (f) : Keeps s (execVmov f s) := by
  unfold execVmov
  split <;> exact vecIssue_keeps ..

/-- CPYC waits for its guard alone and then does what `run` does, so its course is spelt out again. -/
theorem execCpyc_keeps (f) : Keeps s (execCpyc f s) := .next fun h => by
  (repeat' split) <;> simp [h]

/-- STSYNC's unmapping leaves the bytes under a frame undefined (R218): the one instruction that changes memory as it issues. -/
theorem execStsync_keeps (f) : Keeps s (execStsync f s) := .next fun h => runWith_wf h _ f (by
  have unmapped : ∀ l : List Nat, Memory.wf (l.foldl (fun t n => unmapFrame t s.cur n) s).mem = true := fun l =>
    foldl_wf (fun _ n h => unmapFrame_wf h _ n) l h
  dsimp only
  (repeat' split) <;> simp [h, unmapped])

/-- Every encoded instruction goes on and keeps memory canonical. -/
theorem exec_keeps_of_encoded (i : Instr) (n : i.isEvent = false) : Keeps s (exec i s) := by
  cases i
  case clz f | ctz f | popc f | abs f | mov f | sext f | zext f => exact int1_keeps ..
  case add f | sub f | mul f | mulh f | mulhn f | and f | or f | xor f | andn f | shl f | shr f | sar f | rol f | min f |
      minn f | max f | maxn f | bfx f => exact int2_keeps ..
  case div f | divn f | rem f | remn f => exact intL_keeps ..
  case fadd f | fsub f | fmul f | fmin f | fmax f => exact fp2_keeps ..
  case sel f | movi f | lea f | bfi f | cmp f | plog f | ffma f | fdiv f | fsqrt f | fcmp f | fcvt f | fclass f | fsgn f |
      br f | brx f | ret f | csrw f | trap f | ntdrain f | pref f | vwhile f | vlen f | vpcnt f | vpfirst f | unif f =>
    exact run_keeps s f (by simp)
  case pmov f | endTask f | home f | csrr f | brk f | fence f => exact run_keeps s f (by (repeat' split) <;> simp)
  case call f | loop f | send f | spawn f | bind f | unbind f | chctl f | mwin f | qsend f | ld f | st f | ldf f | sete f |
      watch f | amo f | cas f | amom f | discard f | stmap f | gwait f | pload f | pstat f | spstop f | spinv f | spqry f =>
    exact run_keeps s f (by dsimp only; (repeat' split) <;> simp)
  case stsync f => exact execStsync_keeps ..
  case vmov f => exact execVmov_keeps ..
  case cpyc f => exact execCpyc_keeps ..
  case capgive f | sealCap f | claim f | rmode f => exact capRun_keeps s f _ _ (by simp)
  case ldv f | ldvs f | ldvg f | stv f | stvs f | stvx f | vsel f | vsplat f | viota f | vperm f | vcmpr f | vexpd f | vsfu f |
      vcvt f | vqnt f | vrtag f | pack5t f | unpk5t f => exact vecIssue_keeps ..
  case vfma f | vdiv f | vsqrt f | vcmp f | vred f | vscan f => exact arith_keeps ..
  case vabs f | vneg f => exact arith1_keeps ..
  case vadd f | vsub f | vmul f | vmin f | vmax f | vand f | vor f | vxor f | vshl f | vshr f | vsar f =>
    exact arith2_keeps ..
  case vget f | vput f => exact vecIssue0_keeps ..
  case cpy f | cpyg f | cpyx f | cpyl f => exact issueShuttle_keeps ..
  case cpyset f => exact run_keeps s f (by split <;> simp)
  case wcfg f | wload f | wscl f | wrun f | wdrain f | wzero f | wstat f => exact issueWeft_keeps ..
  case gcfg f | gbld f | gmm f | gzero f | grd f | gst f => exact issueGear_keeps ..
  case pfree f | popen f | pclose f | put f | get f | pcancel f | pbind f => exact heddleSend_keeps ..
  case join f | leave f | cbar f => exact collPlain_keeps ..
  case cgath f | creds f | cxch f => exact collData_keeps ..
  all_goals cases n

/-! Events. -/

theorem execSpecialiserWalk_keeps (die k) : Keeps s (execSpecialiserWalk die k s) := .next fun h => by
  split
  · split
    · exact h
    · rename_i w _
      split
      · exact h
      · simpa using doWalk_wf h die w
  · exact h

theorem execContextSwitch_keeps (phys ctx) : Keeps s (execContextSwitch phys ctx s) := .next fun h => by
  have switched : ∀ ps : List Nat,
      Memory.wf (ps.foldl (fun s p => if (s.core p).cx.ctx = ctx then s else switchCore s p ctx) s).mem = true := fun ps =>
    foldl_wf (fun s p h => by split <;> simp [h]) ps h
  (repeat' split) <;> simp [h, switched, -List.foldl_cons]

theorem execPowerRemoved_keeps : Keeps s (execPowerRemoved s) := .next fun _ => rfl

theorem execLiftDecision_keeps (unit slot) : Keeps s (execLiftDecision unit slot s) := .next fun h => by
  split
  · exact h
  · split
    · exact h
    · rwa [getD_mem (fun t e => decide1_mem e) rfl]

theorem execMembershipChange_keeps (ctx group) : Keeps s (execMembershipChange ctx group s) := .next fun h => by
  split
  · exact h
  · rwa [getD_mem (fun t e => membershipStep_mem e) rfl]

/-- A debug register's write does what it does where the writer has the right to it, else nothing. -/
theorem guarded_keeps {g : State → State} (ok : Memory.wf s.mem = true → Memory.wf (g s).mem = true) (w phys off) :
    Keeps s (.next (guarded s w phys off g)) := .next fun h => by
  unfold guarded
  split
  · exact ok h
  · exact h

theorem event_keeps {g : State → Nat → List Byte → State}
    (step : ∀ s n d, Memory.wf s.mem = true → Memory.wf (g s n d).mem = true) (n typ) : Keeps s (.next (event s n typ g)) :=
  .next fun h => event_wf step h n typ

theorem execWait_keeps (q) : Keeps s (execWait q s) := .next fun h => by
  split
  · exact h
  · exact event_wf (fun _ n d h => doWait_wf h n d) h q 6

theorem execWaitRetest_keeps (q) : Keeps s (execWaitRetest q s) := .next fun h => by
  split
  · exact event_wf (fun _ n d h => doWait_wf h n d) h q 6
  · exact h

theorem execLaunch_keeps (q) : Keeps s (execLaunch q s) := .next fun h => by
  split
  · simp [h]
  · exact event_wf (fun _ n d h => doLaunch_wf h n d) h q 1

theorem execLaunchRange_keeps (q) : Keeps s (execLaunchRange q s) := .next fun h => by
  split
  · simp [h]
  · exact event_wf (fun _ n d h => doLaunchRange_wf h n d) h q 2

/-- Every event but a quantum's boundary goes on and keeps memory canonical. -/
theorem exec_keeps_of_event (i : Instr) (n : i.isEvent = true) (nb : ∀ ctx, i ≠ .quantumBoundary ctx) : Keeps s (exec i s) := by
  cases i
  case quantumBoundary ctx => exact absurd rfl (nb ctx)
  case nop q => exact event_keeps s (fun _ n d h => doNop_wf h n d) q 0
  case indirect q => exact event_keeps s (fun _ n d h => doIndirect_wf h n d) q 3
  case pred q => exact event_keeps s (fun _ n d h => doPred_wf h n d) q 4
  case packetLoop q => exact event_keeps s (fun _ n d h => doLoop_wf h n d) q 5
  case signal q => exact event_keeps s (fun _ n d h => doSignal_wf h n d) q 7
  case barrier q => exact event_keeps s (fun _ n d h => doBarrier_wf h n d) q 8
  case fetchFence q => exact event_keeps s (fun _ n d h => doFetchFence_wf h n d) q 9
  case connect q => exact event_keeps s (fun _ n d h => doConnect_wf h n d) q 10
  case launch q => exact execLaunch_keeps ..
  case launchRange q => exact execLaunchRange_keeps ..
  case wait q => exact execWait_keeps ..
  case waitRetest q => exact execWaitRetest_keeps ..
  case specialiserWalk die k => exact execSpecialiserWalk_keeps ..
  case contextSwitch phys ctx => exact execContextSwitch_keeps ..
  case powerRemoved => exact execPowerRemoved_keeps ..
  case liftDecision unit slot => exact execLiftDecision_keeps ..
  case membershipChange ctx group => exact execMembershipChange_keeps ..
  case lctlStop _ _ | lctlResume _ _ | lctlStep _ _ | ldeleg _ _ _ | ldclr _ _ =>
    exact guarded_keeps s (fun h => by simp [h]) ..
  case unitMessageResend _ | maskedWindowClose _ | faultPacketSend _ | faultPacketResend _ | dbgResume _ _ _ | dbgSkip _ _ _ |
      dbgEnd _ _ _ | ctxcreate _ | ctxkill _ | shootva _ | gangStepStart _ | gangStepEnd _ | gstBufferStore _ _ | ucieLinkDown |
      ucieRetrain | rhohimenLinkFail _ | tamperSensor | glitchDetected | bootrecWrite _ | powerThrottle | overtempShutdown |
      correctableError _ | tickPeriod | longLatencyResult _ _ | loadPerform _ _ _ | storeLeave _ | storeApply _ _ _ |
      ntApply _ _ _ | atomicApply _ _ | releaseComplete _ _ | keeperModeChange _ | claimServe _ | offerArrival _ |
      pcancelArrival _ | instanceDataMove _ _ _ => exact .next fun h => by simp [h]
  case messageArrival _ | taskActivation _ | preemption _ | deferredFaultReport _ | packetFetch _ | packetRecheck _ |
      launchResend _ | taskEndReport _ | qkick _ _ | qactRetry _ | qactSkip _ | qactStop _ | qcfg _ _ | shootdownComplete |
      engineCommandStart _ _ | engineAccessPerform _ _ _ | tokenWrite _ | cpylFlagTest _ | cpylTimeout _ | gangTimeout _ |
      powerOn _ | uncorrectableError _ _ _ | routingWindow _ _ _ _ | escapement | registerWrite _ _ _ _ | hostWrite _ _ |
      hostRead _ _ | messageSend _ _ | pageWalk _ _ _ | stashRecall _ _ | connectorImageLoad _ _ | collectiveRequestArrival _ |
      collectiveCompletion _ _ _ | instanceTimeout _ _ _ => exact .next fun h => by (repeat' split) <;> simp [h]
  case qsendWrite _ | engineCommandFinish _ _ | stashFill _ _ =>
    exact .next fun h => by dsimp only; (repeat' split) <;> simp [h]
  all_goals cases n

theorem exec_keeps_of_ne_quantumBoundary (i : Instr) (nb : ∀ ctx, i ≠ .quantumBoundary ctx) : Keeps s (exec i s) := by
  cases n : i.isEvent with
  | false => exact exec_keeps_of_encoded s i n
  | true => exact exec_keeps_of_event s i n nb

theorem act_eq_exec (i : Instr) (nb : ∀ ctx, i ≠ .quantumBoundary ctx) : act i s = exec i s := by
  cases i
  case quantumBoundary ctx => exact absurd rfl (nb ctx)
  all_goals rfl

theorem act_keeps (i : Instr) : Keeps s (act i s) := by
  by_cases nb : ∃ ctx, i = .quantumBoundary ctx
  · obtain ⟨ctx, rfl⟩ := nb
    exact .next fun h => h
  · have nb := not_exists.1 nb
    rw [act_eq_exec s i nb]
    exact exec_keeps_of_ne_quantumBoundary s i nb

end

/-! Canonical memory, fourth layer: the quantum boundary and the canonical order, which ask what the steps of the third come to. -/

section
variable {s : State} (h : Memory.wf s.mem = true)
include h

/-! The quantum boundary. -/

@[simp] theorem moveInst_wf (g i) : Memory.wf (moveInst s g i).mem = true := by
  unfold moveInst
  (repeat' split) <;> simp [h]

@[simp] theorem moveInsts_wf (ctx) : Memory.wf (moveInsts s ctx).mem = true := by
  unfold moveInsts
  exact foldl_wf (fun s g h => foldl_wf (fun s i h => moveInst_wf h g i) _ h) _ h

@[simp] theorem cpylTest_wf (p) : Memory.wf (cpylTest s p).mem = true := by
  unfold cpylTest
  (repeat' split) <;> simp [h]

@[simp] theorem reportAll_wf (ctx) : Memory.wf (reportAll s ctx).mem = true := by
  unfold reportAll
  exact foldl_wf (fun s l h => reportEnd_wf h l) _ h

@[simp] theorem takeKicks_wf (x) : Memory.wf (takeKicks s x).mem = true := by
  unfold takeKicks
  split
  · refine foldl_wf (fun s q h => foldl_wf (fun s v h => kick_wf h ..) _ ?_) _ h
    simp [h]
  · exact h

@[simp] theorem serveOp_wf (phys o) : Memory.wf (serveOp s phys o).mem = true := by
  unfold serveOp
  dsimp only
  (repeat' split) <;> simp [h]

@[simp] theorem serveOut_wf (ctx lc o) : Memory.wf (serveOut s ctx lc o).mem = true := by
  unfold serveOut
  (repeat' split) <;> simp [h]

@[simp] theorem serveOne_wf (ctx x) : Memory.wf (serveOne s ctx x).mem = true := by
  unfold serveOne
  (repeat' split) <;> simp [h]

@[simp] theorem serveList_wf (ctx items) : Memory.wf (serveList s ctx items).mem = true := by
  unfold serveList
  exact foldl_wf (fun s i h => serveOne_wf h ctx i) _ h

@[simp] theorem serveAll_wf (x) : Memory.wf (serveAll s x).mem = true := by
  unfold serveAll
  dsimp only
  refine serveList_wf ?_ ..
  rw [State.modCtx_mem]
  refine serveList_wf ?_ ..
  rw [foldl_mem (fun s g => settleGroup_mem ..), State.modCtx_mem]
  exact h

@[simp] theorem fetchAll_wf (fuel n) : Memory.wf (fetchAll fuel s n).mem = true := by
  induction fuel generalizing s with
  | zero => exact h
  | succ fuel ih =>
    have next : Memory.wf (if (s.queue n).running s then fetchNext s (s.queue n) else s).mem = true := by
      split <;> simp [h]
    unfold fetchAll
    extract_lets q t
    split
    · exact h
    · exact ih next

@[simp] theorem recheck_wf (n) : Memory.wf (recheck s n).mem = true := by
  unfold recheck
  dsimp only
  split <;> simp [h]

@[simp] theorem walkNow_wf : Memory.wf (walkNow s).mem = true := by
  unfold walkNow
  refine foldl_wf (fun s die h => ?_) _ h
  split
  · refine foldl_wf (fun s k h => ?_) _ h
    split
    · rename_i e
      exact (execSpecialiserWalk_keeps s die k).next_wf h e
    · exact h
  · exact h

theorem runQueue_wf (fuel n) : Memory.wf (runQueue fuel s n).mem = true := by
  induction fuel generalizing s with
  | zero => exact h
  | succ fuel ih =>
    have round := walkNow_wf (dispatchOne_wf (fetchAll_wf h 64 n) n)
    unfold runQueue
    dsimp only
    split
    · exact round
    · exact ih round

@[simp] theorem serveQueue_wf (n) : Memory.wf (serveQueue s n).mem = true := by
  unfold serveQueue
  exact runQueue_wf (by simp [h]) ..

@[simp] theorem serveQueues_wf (ctx) : Memory.wf (serveQueues s ctx).mem = true := by
  unfold serveQueues
  refine foldl_wf (fun s n h => ?_) _ h
  simp [h]

@[simp] theorem fireAdds_wf (ctx) : Memory.wf (fireAdds s ctx).mem = true := by
  unfold fireAdds
  refine foldl_wf (fun s q h => foldl_wf (fun s a h => ?_) _ (by simp [h])) _ h
  split
  · rename_i e
    exact feAdd_wf h e
  · simp [h]

@[simp] theorem stopAll_wf (x) : Memory.wf (stopAll s x).mem = true := by
  unfold stopAll
  split
  · refine foldl_wf (fun s p h => ?_) _ h
    simp [h]
  · exact h

@[simp] theorem boundary_wf (x) : Memory.wf (boundary s x).mem = true := by
  unfold boundary
  extract_lets busy s1 s2 s3 s4 s5 s6 s7 s8 s9 s10 s11 s12 s13
  have h3 : Memory.wf s3.mem = true := moveInsts_wf (redoAll_wf (by simpa [s2, s1] using h) _) _
  have h4 : Memory.wf s4.mem = true := redoAll_wf (foldl_wf (fun s p h => cpylTest_wf h p) _ h3) _
  have h6 : Memory.wf s6.mem = true := by
    rw [foldl_mem (fun s p => by split <;> simp)]
    exact reportAll_wf (by simpa using h4) _
  have h8 : Memory.wf s8.mem = true := by
    rw [foldl_mem (fun s g => foldl_mem (fun s i => lateInst_mem ..) _ s)]
    exact serveAll_wf (takeKicks_wf h6 x) x
  have h10 : Memory.wf s10.mem = true := fireAdds_wf (by simpa using serveQueues_wf h8 _) _
  have h13 : Memory.wf s13.mem = true := by
    dsimp only [s13]
    split <;> simpa [s12, s11] using h10
  rw [foldl_mem freshQuantum_mem]
  exact redoAll_wf (stopAll_wf h13 x) _

/-! What moves next where the agenda is silent. -/

@[simp] theorem settleCpyl_wf (p) : Memory.wf (settleCpyl s p).mem = true := by
  unfold settleCpyl
  (repeat' split) <;> simp [h]

@[simp] theorem settleQueueTimes_wf (n) : Memory.wf (settleQueueTimes s n).mem = true := by
  unfold settleQueueTimes
  refine foldl_wf (fun s _ h => ?_) _ h
  dsimp only
  split
  · rename_i e
    have ok := (act_keeps ..).next_wf h e
    split
    · rename_i e
      exact (act_keeps ..).next_wf ok e
    · exact ok
  · exact h

@[simp] theorem settleEscapement_wf : Memory.wf (settleEscapement s).mem = true := by
  unfold settleEscapement
  split <;> simp [h]

@[simp] theorem settleDue_wf : Memory.wf (settleDue s).mem = true := by
  unfold settleDue
  dsimp only
  refine settleEscapement_wf ?_
  rw [advanceTick_mem, settleResends_mem]
  refine foldl_wf (fun s n h => settleQueueTimes_wf h n) _ ?_
  rw [foldl_mem (fun s g => foldl_mem (fun s i => settleInst_mem ..) _ s), foldl_mem settleGang_mem]
  exact foldl_wf (fun s p h => settleCpyl_wf h p) _ h

@[simp] theorem State.pass_wf (n) : Memory.wf (State.pass s n).mem = true := by
  simp [State.pass, h]

@[simp] theorem State.begin_wf (p) : Memory.wf (State.begin s p).mem = true := by
  simp [State.begin, h]

/-! The Rhohimen links. -/

@[simp] theorem linkWrite_wf (ctx lc a bs) : Memory.wf (linkWrite s ctx lc a bs).mem = true := by
  unfold linkWrite
  split <;> simp [h]

end

/-! Canonical memory, fifth layer: one step. -/

theorem execQuantumBoundary_keeps (ctx) (s : State) : Keeps s (execQuantumBoundary ctx s) := .next fun h => by
  (repeat' split) <;> simp [h]

/-- Every instruction and every event goes on and keeps memory canonical. -/
theorem exec_keeps (i : Instr) (s : State) : Keeps s (exec i s) := by
  by_cases nb : ∃ ctx, i = .quantumBoundary ctx
  · obtain ⟨ctx, rfl⟩ := nb
    exact execQuantumBoundary_keeps ctx s
  · exact exec_keeps_of_ne_quantumBoundary s i (not_exists.1 nb)

section
variable {s : State} (h : Memory.wf s.mem = true)
include h

@[simp] theorem codePoisoned_wf (key pc) : Memory.wf (codePoisoned s key pc).mem = true := by simp [codePoisoned, h]

/-- Where the fetch of a slot stops the core (a fault, a breakpoint), the state that it leaves keeps memory canonical. -/
theorem fetchBy_stop_wf {t : State} {held} (e : fetchBy held s = .stop t) : Memory.wf t.mem = true := by
  unfold fetchBy at e
  dsimp only at e
  (repeat' split at e) <;> cases e <;> simp [h]

theorem firstStep_wf {t : State} {l} (e : firstStep s l = some t) : Memory.wf t.mem = true := by
  induction l with
  | nil => cases e
  | cons i l ih =>
    unfold firstStep at e
    split at e
    · split at e
      · exact ih e
      · rename_i a _
        cases e
        exact (act_keeps s i).next_wf h a
    · exact ih e

end

theorem Keeps.from {s u : State} {r : Res} (h : Memory.wf s.mem = true → Memory.wf u.mem = true) (k : Keeps u r) : Keeps s r := by
  obtain ⟨t, e, ok⟩ := k
  exact ⟨t, e, fun hs => ok (h hs)⟩

theorem issueStep_keeps (s : State) : Keeps s (issueStep s) := by
  unfold issueStep fetch
  split
  · exact .next id
  · rename_i e
    exact .next fun h => fetchBy_stop_wf h e
  · exact (exec_keeps _ _).from fun h => by simp [h]

theorem holdStep_keeps (s : State) : Keeps s (holdStep s) := by
  unfold holdStep
  split
  · exact .next id
  · rename_i e
    exact .next fun h => fetchBy_stop_wf h e
  · exact exec_keeps ..

theorem canonicalStep_keeps (s : State) : Keeps s (canonicalStep s) := by
  unfold canonicalStep
  split
  · exact .next id
  · split
    · exact .next fun h => by simp [h]
    · split
      · exact .next fun h => by simp [h]
      · split
        · exact .next fun h => by simp [h]
        · split
          · rename_i e
            exact .next fun h => firstStep_wf h e
          · split
            · exact (issueStep_keeps _).from fun h => by simp [h]
            · split
              · exact exec_keeps ..
              · exact .next fun h => by simp [h]

/-- A step keeps memory canonical and goes on, unless the agenda names a core that does not exist. -/
theorem step_keeps (s : State) : Keeps s (step s) ∨
    ∃ p rest, (s.agenda = .issue p :: rest ∨ s.agenda = .hold p :: rest) ∧ 37376 ≤ p ∧ step s = .fault (.noSuchCore p) := by
  rcases e : s.agenda with _ | ⟨c, rest⟩
  · exact .inl (by simpa only [step, e] using canonicalStep_keeps s)
  · cases c with
    | issue p =>
      by_cases missing : 37376 ≤ p
      · exact .inr ⟨p, rest, .inl rfl, missing, by simp only [step, e, if_pos missing]⟩
      · refine .inl ?_
        simp only [step, e, if_neg missing]
        split
        · exact .next id
        · exact (issueStep_keeps _).from fun h => by simp [h]
    | hold p =>
      by_cases missing : 37376 ≤ p
      · exact .inr ⟨p, rest, .inr rfl, missing, by simp only [step, e, if_pos missing]⟩
      · refine .inl ?_
        simp only [step, e, if_neg missing]
        split
        · exact .next id
        · exact (holdStep_keeps _).from fun h => by simp [h]
    | event i =>
      refine .inl ?_
      simp only [step, e]
      split
      · exact (exec_keeps i _).from id
      · exact .next id
    | wait _ | forget _ _ =>
      refine .inl ?_
      simp only [step, e]
      exact .next fun h => by simp [h]
    | _ =>
      refine .inl ?_
      simp only [step, e]
      exact .next fun h => by split <;> simp [h]

end Sys2Proof.Machine

section
open Sys2Proof Sys2Proof.Machine

/-- Settles O6: by cases on what the agenda names, each with the rules of the operations that it comes to. -/
theorem everyStepKeepsMemoryCanonical : Obligations.EveryStepKeepsMemoryCanonical := by
  intro s t ok e
  rcases step_keeps s with keeps | ⟨p, rest, -, -, stops⟩
  · exact keeps.next_wf ok e
  · cases stops.symm.trans e

/-- Settles O5: what every instruction and event is shown to come to is a next state, and the agenda's other entries answer one
themselves. -/
theorem stepsStopOnlyAtAMissingCore : Obligations.StepsStopOnlyAtAMissingCore := by
  refine ⟨fun i s => (exec_keeps i s).imp fun t h => h.1, fun s => ?_⟩
  exact (step_keeps s).imp_left fun k => k.imp fun t h => h.1

/-- Settles O8: a little-endian word's bytes give it back modulo its size (R4), and a byte write lists or drops its own address only. -/
theorem wordsReadAsWritten : Obligations.WordsReadAsWritten := by
  intro s a n x ok
  refine ⟨readWord_writeWord s.mem a n x ok, fun b out => ?_⟩
  exact readCell_writeCells_outside s.mem a b (toBytes n x) ok (by rwa [toBytes_length])
end
